-- ==== Sys2Proof/Word.lean ====
section
/-! DEFINITION. Word.lean: the word types of the DSL-T8 (spec/00 R3: little-endian, bytes of 8 bits; spec/05
R108: instruction words of 32 bits; spec/02 R36: registers of 64 bits). -/

namespace Sys2Proof

/-- One byte of memory (00 R3). -/
abbrev Byte := BitVec 8

/-- One instruction word (05 R108). -/
abbrev IWord := BitVec 32

/-- One 64-bit register or address (02 R36). -/
abbrev Word := BitVec 64

/-- A vector register of the widest gang, g = 4: 65,536 bits; element i of width w lies at bits [i·w, i·w + w)
(02 R36, 04 R101). -/
abbrev VReg := BitVec 65536

/-- A mask register: one bit for each of at most 128 × 64 element positions (02 R36, 06 R133). -/
abbrev KReg := BitVec 8192

end Sys2Proof
end

