-- ==== Sys2Proof/Syntax.lean ====
section
/-! DEFINITION. Syntax.lean: the instructions and events of the DSL-T8 as syntax (spec/05; spec/10 R237 for the
bobbin words; spec/95 for the events, which have no word of their own). One constructor of Instr per row of
spec/opcode_table.json; no meaning stands here. -/

namespace Sys2Proof

/-- The fields of a V-format word (05 R113), less opcode, f3 and f2, which are the constructor. -/
structure VF where
  nb : Bool
  m  : Bool
  bk : BitVec 2
  ak : Bool
  b  : BitVec 5
  a  : BitVec 5
  d  : BitVec 5
  deriving DecidableEq, Repr

/-- The fields of a VM-format word (05 R119). -/
structure VM where
  mf  : BitVec 4
  m   : Bool
  sub : BitVec 2
  b   : BitVec 5
  a   : BitVec 5
  d   : BitVec 5
  deriving DecidableEq, Repr

/-- The fields of a K-format word (05 R120), less op. -/
structure KF where
  k3 : BitVec 3
  b  : BitVec 5
  a  : BitVec 5
  d  : BitVec 5
  deriving DecidableEq, Repr

/-- The fields of an R-format word (05 R121), less f7 and f3. -/
structure RF where
  rs2 : BitVec 5
  rs1 : BitVec 5
  rd  : BitVec 5
  deriving DecidableEq, Repr

/-- The fields of an I-format word (05 R123). -/
structure IF where
  imm : BitVec 12
  rs1 : BitVec 5
  rd  : BitVec 5
  deriving DecidableEq, Repr

/-- The fields of a bobbin word (10 R237), less cls and op. -/
structure BW where
  dst : BitVec 4
  a   : BitVec 4
  b   : BitVec 4
  imm : BitVec 12
  deriving DecidableEq, Repr

/-- How a Zicsr instruction changes its CSR (05 R109: Zicsr). -/
inductive CsrOp where
  | rw | rs | rc
  deriving DecidableEq, Repr

/-- A Zicsr instruction: operation, whether its source field is an immediate, CSR address, source field, rd. -/
structure CsrF where
  op   : CsrOp
  uimm : Bool
  csr  : BitVec 12
  src  : BitVec 5
  rd   : BitVec 5
  deriving DecidableEq, Repr

/-- Branch conditions of RV64I (05 R109). -/
inductive BrCond where
  | eq | ne | lt | ge | ltu | geu
  deriving DecidableEq, Repr

/-- Widths of integer loads of RV64I; the u forms zero-extend. -/
inductive LdW where
  | b | h | w | d | bu | hu | wu
  deriving DecidableEq, Repr

/-- Widths of integer stores of RV64I. -/
inductive StW where
  | b | h | w | d
  deriving DecidableEq, Repr

/-- Immediate operations with a 12-bit immediate (RV64I). -/
inductive ImmOp where
  | addi | slti | sltiu | xori | ori | andi | addiw
  deriving DecidableEq, Repr

/-- Shifts by a 6-bit immediate (RV64I, Zba, Zbb). -/
inductive ShOp where
  | slli | srli | srai | rori | slliUw
  deriving DecidableEq, Repr

/-- 32-bit shifts by a 5-bit immediate (RV64I, Zbb). -/
inductive ShWOp where
  | slliw | srliw | sraiw | roriw
  deriving DecidableEq, Repr

/-- Register-register operations (RV64I, M, Zba, Zbb). -/
inductive RegOp where
  | add | sub | sll | slt | sltu | xor | srl | sra | or | and
  | mul | mulh | mulhsu | mulhu | div | divu | rem | remu
  | andn | orn | xnor | min | minu | max | maxu | rol | ror
  | sh1add | sh2add | sh3add
  | addw | subw | sllw | srlw | sraw | mulw | divw | divuw | remw | remuw | rolw | rorw
  | addUw | sh1addUw | sh2addUw | sh3addUw
  deriving DecidableEq, Repr

/-- One-operand operations of Zbb. -/
inductive UnOp where
  | clz | ctz | cpop | clzw | ctzw | cpopw | sextB | sextH | zextH | orcB | rev8
  deriving DecidableEq, Repr

/-- Atomic read-modify-writes of RV64A. -/
inductive AmoOp where
  | swap | add | xor | and | or | min | max | minu | maxu
  deriving DecidableEq, Repr

/-- Fused operations of F and D. -/
inductive FmaOp where
  | fmadd | fmsub | fnmsub | fnmadd
  deriving DecidableEq, Repr

/-- Two-operand rounded operations of F and D. -/
inductive FArOp where
  | fadd | fsub | fmul | fdiv
  deriving DecidableEq, Repr

/-- Sign-injection operations of F and D. -/
inductive FSgOp where
  | fsgnj | fsgnjn | fsgnjx
  deriving DecidableEq, Repr

/-- Compares of F and D. -/
inductive FCmpOp where
  | fle | flt | feq
  deriving DecidableEq, Repr

/-- Integer kinds of the F and D conversions: w, wu, l, lu. -/
inductive FIntK where
  | w | wu | l | lu
  deriving DecidableEq, Repr

/-- The RV64G, Zba and Zbb instructions that have no row of their own (05 R109). A Bool named dbl is the format:
false binary32, true binary64. csrRead is a Zicsr word that only reads its CSR. -/
inductive Scalar where
  | lui (rd : BitVec 5) (imm : BitVec 20)
  | auipc (rd : BitVec 5) (imm : BitVec 20)
  | jal (rd : BitVec 5) (off : BitVec 20)
  | jalr (rd rs1 : BitVec 5) (imm : BitVec 12)
  | branch (c : BrCond) (rs1 rs2 : BitVec 5) (off : BitVec 12)
  | load (w : LdW) (rd rs1 : BitVec 5) (imm : BitVec 12)
  | store (w : StW) (rs1 rs2 : BitVec 5) (imm : BitVec 12)
  | opImm (o : ImmOp) (rd rs1 : BitVec 5) (imm : BitVec 12)
  | shImm (o : ShOp) (rd rs1 : BitVec 5) (sh : BitVec 6)
  | shImmW (o : ShWOp) (rd rs1 : BitVec 5) (sh : BitVec 5)
  | opReg (o : RegOp) (rd rs1 rs2 : BitVec 5)
  | unary (o : UnOp) (rd rs1 : BitVec 5)
  | lr (dbl aq rl : Bool) (rd rs1 : BitVec 5)
  | sc (dbl aq rl : Bool) (rd rs1 rs2 : BitVec 5)
  | amo (o : AmoOp) (dbl aq rl : Bool) (rd rs1 rs2 : BitVec 5)
  | csrRead (c : CsrF)
  | fload (dbl : Bool) (rd rs1 : BitVec 5) (imm : BitVec 12)
  | fstore (dbl : Bool) (rs1 rs2 : BitVec 5) (imm : BitVec 12)
  | fma (o : FmaOp) (dbl : Bool) (rm : BitVec 3) (rd rs1 rs2 rs3 : BitVec 5)
  | farith (o : FArOp) (dbl : Bool) (rm : BitVec 3) (rd rs1 rs2 : BitVec 5)
  | fsqrt (dbl : Bool) (rm : BitVec 3) (rd rs1 : BitVec 5)
  | fsgn (o : FSgOp) (dbl : Bool) (rd rs1 rs2 : BitVec 5)
  | fminmax (isMax dbl : Bool) (rd rs1 rs2 : BitVec 5)
  | fcmp (o : FCmpOp) (dbl : Bool) (rd rs1 rs2 : BitVec 5)
  | fclass (dbl : Bool) (rd rs1 : BitVec 5)
  | fcvtFF (toDbl : Bool) (rm : BitVec 3) (rd rs1 : BitVec 5)
  | fcvtToInt (k : FIntK) (dbl : Bool) (rm : BitVec 3) (rd rs1 : BitVec 5)
  | fcvtFromInt (k : FIntK) (dbl : Bool) (rm : BitVec 3) (rd rs1 : BitVec 5)
  | fmvToX (dbl : Bool) (rd rs1 : BitVec 5)
  | fmvFromX (dbl : Bool) (rd rs1 : BitVec 5)
  deriving DecidableEq, Repr

/-- The steps of the machine: one constructor for each row of spec/opcode_table.json. Device words carry the
fields of their format; events without a word carry what names the unit or the outside input they concern. -/
inductive Instr where
  /-- VADD: Notes an element-wise integer addition A + B, wrapping modulo 2^w (R134). -/
  | vadd (f : VF)
  /-- VSUB: Notes an element-wise integer subtraction A − B (R134). -/
  | vsub (f : VF)
  /-- VRSUB: Notes an element-wise reverse subtraction B − A (R134). -/
  | vrsub (f : VF)
  /-- VMUL: Notes the low w bits of the element-wise product (R134). -/
  | vmul (f : VF)
  /-- VMULH: Notes the signed high half of the element-wise product (R134). -/
  | vmulh (f : VF)
  /-- VMULHU: Notes the unsigned high half of the element-wise product (R134). -/
  | vmulhu (f : VF)
  /-- VDIV: Notes the signed element-wise quotient under R57 (R134). -/
  | vdiv (f : VF)
  /-- VDIVU: Notes the unsigned element-wise quotient under R57 (R134). -/
  | vdivu (f : VF)
  /-- VREM: Notes the signed element-wise remainder (R134). -/
  | vrem (f : VF)
  /-- VREMU: Notes the unsigned element-wise remainder (R134). -/
  | vremu (f : VF)
  /-- VMIN: Notes the signed element-wise minimum (R134). -/
  | vmin (f : VF)
  /-- VMAX: Notes the signed element-wise maximum (R134). -/
  | vmax (f : VF)
  /-- VMINU: Notes the unsigned element-wise minimum (R134). -/
  | vminu (f : VF)
  /-- VMAXU: Notes the unsigned element-wise maximum (R134). -/
  | vmaxu (f : VF)
  /-- VADDS: Notes a signed saturating addition (R134). -/
  | vadds (f : VF)
  /-- VSUBS: Notes a signed saturating subtraction (R134). -/
  | vsubs (f : VF)
  /-- VADDSU: Notes an unsigned saturating addition (R134). -/
  | vaddsu (f : VF)
  /-- VSUBSU: Notes an unsigned saturating subtraction (R134). -/
  | vsubsu (f : VF)
  /-- VAND: Notes an element-wise bitwise AND (R134). -/
  | vand (f : VF)
  /-- VOR: Notes an element-wise bitwise OR (R134). -/
  | vor (f : VF)
  /-- VXOR: Notes an element-wise bitwise XOR (R134). -/
  | vxor (f : VF)
  /-- VSLL: Notes an element-wise left shift (R134). -/
  | vsll (f : VF)
  /-- VSRL: Notes an element-wise logical right shift (R134). -/
  | vsrl (f : VF)
  /-- VSRA: Notes an element-wise arithmetic right shift (R134). -/
  | vsra (f : VF)
  /-- VMERGE: Notes a per-element choice between A and B under k0 (R135). -/
  | vmerge (f : VF)
  /-- VMV: Notes a move or broadcast of operand B (R135). -/
  | vmv (f : VF)
  /-- VCMP_EQ: Notes a mask of elements whose patterns are equal (R136). -/
  | vcmpEq (f : VF)
  /-- VCMP_NE: Notes a mask of elements whose patterns differ (R136). -/
  | vcmpNe (f : VF)
  /-- VCMP_LT: Notes a signed less-than mask (R136). -/
  | vcmpLt (f : VF)
  /-- VCMP_LE: Notes a signed less-or-equal mask (R136). -/
  | vcmpLe (f : VF)
  /-- VCMP_LTU: Notes an unsigned less-than mask (R136). -/
  | vcmpLtu (f : VF)
  /-- VCMP_LEU: Notes an unsigned less-or-equal mask (R136). -/
  | vcmpLeu (f : VF)
  /-- VFADD: Notes a floating-point addition rounded once (R137). -/
  | vfadd (f : VF)
  /-- VFSUB: Notes a floating-point subtraction (R137). -/
  | vfsub (f : VF)
  /-- VFMUL: Notes a floating-point multiplication (R137). -/
  | vfmul (f : VF)
  /-- VFDIV: Notes a correctly rounded floating-point division (R137). -/
  | vfdiv (f : VF)
  /-- VFMA: Notes a fused A × B + D with one rounding (R137). -/
  | vfma (f : VF)
  /-- VFMS: Notes a fused A × B − D (R137). -/
  | vfms (f : VF)
  /-- VFNMA: Notes a fused −(A × B) − D (R137). -/
  | vfnma (f : VF)
  /-- VFNMS: Notes a fused −(A × B) + D (R137). -/
  | vfnms (f : VF)
  /-- VFMIN: Notes a floating-point minimum with the NaN and zero rules (R138). -/
  | vfmin (f : VF)
  /-- VFMAX: Notes a floating-point maximum with the NaN and zero rules (R138). -/
  | vfmax (f : VF)
  /-- VFSGNJ: Notes |A| with the sign of B (R138). -/
  | vfsgnj (f : VF)
  /-- VFSQRT: Notes a correctly rounded square root (R137). -/
  | vfsqrt (f : VF)
  /-- VFEXP2: Notes a correctly rounded 2^A (R64). -/
  | vfexp2 (f : VF)
  /-- VFLOG2: Notes a correctly rounded log2 A (R64). -/
  | vflog2 (f : VF)
  /-- VCVT: Notes a conversion from the selected source type to vtype.et (R140). -/
  | vcvt (f : VF)
  /-- VFCLASS: Notes a one-hot classification of each element (R139). -/
  | vfclass (f : VF)
  /-- VFCMP_EQ: Notes a floating-point equality mask (R141). -/
  | vfcmpEq (f : VF)
  /-- VFCMP_LT: Notes a floating-point less-than mask (R141). -/
  | vfcmpLt (f : VF)
  /-- VFCMP_LE: Notes a floating-point less-or-equal mask (R141). -/
  | vfcmpLe (f : VF)
  /-- VFCMP_UN: Notes an unordered mask (R141). -/
  | vfcmpUn (f : VF)
  /-- VSCAN_ADD: Notes an integer inclusive prefix sum seeded from o0 (R142). -/
  | vscanAdd (f : VF)
  /-- VSCAN_MAX: Notes a signed running maximum seeded from o0 (R142). -/
  | vscanMax (f : VF)
  /-- VFSCAN: Notes a floating-point prefix sum rounded at each step (R142). -/
  | vfscan (f : VF)
  /-- VLREC: Notes the linear recurrence c = A·c + B (R142). -/
  | vlrec (f : VF)
  /-- VPREV: Notes the previous active element, seeded from o0 (R142). -/
  | vprev (f : VF)
  /-- VRAND: Notes Philox-generated random elements of the selected kind (R145). -/
  | vrand (f : VF)
  /-- VNMS: Notes an N:M magnitude selection into v[d] and metadata into v[d+1] (R197). -/
  | vnms (f : VF)
  /-- VNMST: Notes a transposable 2:4 selection over 4-row bands (R198). -/
  | vnmst (f : VF)
  /-- VRED: Notes an integer tree reduction into an o register (R170). -/
  | vred (f : VF)
  /-- VFRED: Notes a floating-point tree reduction into an o register (R170). -/
  | vfred (f : VF)
  /-- VFREDO: Notes an ordered floating-point sum into an o register (R170). -/
  | vfredo (f : VF)
  /-- VLD: Notes a unit or strided load stream (R161). -/
  | vld (f : VM)
  /-- VLDX: Notes an indexed gather (R165). -/
  | vldx (f : VM)
  /-- VST: Notes a unit or strided store stream as a sink (R161). -/
  | vst (f : VM)
  /-- VSTX: Notes an indexed scatter as a sink (R165). -/
  | vstx (f : VM)
  /-- VAMOX: Notes an indexed vector atomic as a sink (R166). -/
  | vamox (f : VM)
  /-- KAND: Notes a mask AND (R147). -/
  | kand (f : KF)
  /-- KOR: Notes a mask OR (R147). -/
  | kor (f : KF)
  /-- KXOR: Notes a mask XOR (R147). -/
  | kxor (f : KF)
  /-- KANDN: Notes a mask AND-NOT (R147). -/
  | kandn (f : KF)
  /-- KNOT: Notes a mask complement (R147). -/
  | knot (f : KF)
  /-- KSHL: Notes a mask shift toward higher indices by x[b] (R148). -/
  | kshl (f : KF)
  /-- KSHR: Notes a mask shift toward lower indices by x[b] (R148). -/
  | kshr (f : KF)
  /-- VADC: Notes an add with carry, rebinding the carry mask (R150). -/
  | vadc (f : KF)
  /-- VSBC: Notes a subtract with borrow, rebinding the borrow mask (R150). -/
  | vsbc (f : KF)
  /-- VADDK: Notes the addition of a carry mask to each element (R150). -/
  | vaddk (f : KF)
  /-- VSETL: Sets vl and vtype from registers, forcing when they change (R153). -/
  | vsetl (f : RF)
  /-- VSETLI: Sets vl and vtype from an immediate, forcing when they change (R153). -/
  | vsetli (f : IF)
  /-- VLQ: Returns a vector-length or pricking query (R155). -/
  | vlq (f : RF)
  /-- VFORCE: Forces the pricking without waiting for the pass (R156). -/
  | vforce (f : RF)
  /-- VOSET: Writes an o register from an x register (R157). -/
  | voset (f : RF)
  /-- VOGET: Forces, waits and reads an o register into an x register (R157). -/
  | voget (f : RF)
  /-- VSPILL: Forces and writes a vector register to memory (R176). -/
  | vspill (f : RF)
  /-- VFILL: Forces and reads a vector register from memory (R176). -/
  | vfill (f : RF)
  /-- VSAVEF: Saves vector state, loop stack and any pass in flight into a frame and resets vector state (R178). -/
  | vsavef (f : RF)
  /-- VRESTF: Checks and restores a frame, restarting any captured pass (R179). -/
  | vrestf (f : RF)
  /-- VLDSG: Loads records of F fields into F consecutive vector registers (R175). -/
  | vldsg (f : RF)
  /-- VSTSG: Stores F consecutive vector registers as records (R175). -/
  | vstsg (f : RF)
  /-- VSLDUP: Slides elements up by x[rs2] (R180). -/
  | vsldup (f : RF)
  /-- VSLDDN: Slides elements down by x[rs2] (R180). -/
  | vslddn (f : RF)
  /-- VPERM: Permutes elements by an index vector (R180). -/
  | vperm (f : RF)
  /-- VCOMPR: Compresses the elements selected by a mask (R180). -/
  | vcompr (f : RF)
  /-- VEXPND: Expands elements into the positions selected by a mask (R180). -/
  | vexpnd (f : RF)
  /-- VREV: Reverses the elements below VL (R180). -/
  | vrev (f : RF)
  /-- VCLZ: Notes a leading-zero count per element (R151). -/
  | vclz (f : RF)
  /-- VPOPCNT: Notes a population count per element (R151). -/
  | vpopcnt (f : RF)
  /-- VID: Notes the element index as each element (R151). -/
  | vid (f : RF)
  /-- KPOPC: Forces, waits and counts the set mask bits below VL (R152). -/
  | kpopc (f : RF)
  /-- KFIRST: Forces, waits and returns the lowest set mask index or −1 (R152). -/
  | kfirst (f : RF)
  /-- KLAST: Forces, waits and returns the highest set mask index or −1 (R152). -/
  | klast (f : RF)
  /-- KMV: Forces, waits and moves 64 mask bits from a given element (R152). -/
  | kmv (f : RF)
  /-- KSET: Notes a mask from the bits of an x register (R149). -/
  | kset (f : RF)
  /-- KTOV: Notes a vector of ones and zeros from a mask (R149). -/
  | ktov (f : RF)
  /-- VTROWW: Forces and writes a vector into a tile row (R185). -/
  | vtroww (f : RF)
  /-- VTROWR: Forces and reads a tile row into a vector (R185). -/
  | vtrowr (f : RF)
  /-- VTCOLW: Forces and writes a vector into a tile column (R185). -/
  | vtcolw (f : RF)
  /-- VTCOLR: Forces and reads a tile column into a vector (R185). -/
  | vtcolr (f : RF)
  /-- TZERO: Writes zero to all bytes of a tile (R184). -/
  | tzero (f : RF)
  /-- HLOAD: Latches dense weights from a tile into the shadow buffer (R188). -/
  | hload (f : RF)
  /-- HLOADS: Latches sparse weights from a value and metadata tile pair into the shadow buffer (R199). -/
  | hloads (f : RF)
  /-- HSWAP: Exchanges the active and shadow latch buffers (R189). -/
  | hswap (f : RF)
  /-- HMUL: Streams tile activation rows through the hoop array into an accumulator (R192). -/
  | hmul (f : RF)
  /-- HMULP: Streams activation rows from memory through the hoop array into an accumulator (R193). -/
  | hmulp (f : RF)
  /-- HMULF: Computes split-precision FP64 dot products of two fp64 tiles into an accumulator (R200). -/
  | hmulf (f : RF)
  /-- HACC: Zeroes or scales every word of an accumulator (R194). -/
  | hacc (f : RF)
  /-- HMOV: Converts accumulator words into a tile (R195). -/
  | hmov (f : RF)
  /-- HQ: Returns a latch-buffer or array query (R206). -/
  | hq (f : RF)
  /-- MNRMZ: Clears the norm registers and their lengths (R211). -/
  | mnrmz (f : RF)
  /-- MNORM: Adds squared row norms of a chunk of rows to a norm register (R212). -/
  | mnorm (f : RF)
  /-- MATAB: Builds the alias table from two norm registers (R213). -/
  | matab (f : RF)
  /-- MSAMP: Starts a sampling run into an accumulator from a descriptor (R216). -/
  | msamp (f : RF)
  /-- MSCALE: Divides every accumulator word by S (R223). -/
  | mscale (f : RF)
  /-- CPY: Issues one copy command on a tag (R258). -/
  | cpy (f : RF)
  /-- CPYF: Issues a copy with a checked follow-on hoop word (R258). -/
  | cpyf (f : RF)
  /-- CPYB: Forces and issues a batch of copy commands from a vector register, writing an accepted mask (R259). -/
  | cpyb (f : RF)
  /-- CPYM: Issues a multicast copy to up to four pools (R260). -/
  | cpym (f : RF)
  /-- TWANY: Waits until any masked tag has completed or none is in flight (R261). -/
  | twany (f : RF)
  /-- TWALL: Waits until no masked tag has a copy in flight (R261). -/
  | twall (f : RF)
  /-- TFFR: Returns the lowest completed tag or −1 (R261). -/
  | tffr (f : RF)
  /-- TCLR: Clears tagset and tagerr of masked tags not in flight (R261). -/
  | tclr (f : RF)
  /-- WAITC: Waits until the outstanding-operation counters fall to the given limits (R263). -/
  | waitc (f : IF)
  /-- FENCEP: Orders path a before path b at system scope (R265). -/
  | fencep (f : RF)
  /-- WMSET: Writes a watermark object word (R266). -/
  | wmset (f : RF)
  /-- WMPUB: Notes a publication attachment for the next store stream (R267). -/
  | wmpub (f : RF)
  /-- WMLNK: Notes a link attachment for the next load stream (R267). -/
  | wmlnk (f : RF)
  /-- WMGET: Reads a watermark object word (R266). -/
  | wmget (f : RF)
  /-- BARC: Arrives at and waits on the crew barrier (R271). -/
  | barc (f : RF)
  /-- BARA: Records the strand's arrival in the crew barrier phase after its accesses are performed (R271). -/
  | bara (f : RF)
  /-- BARW: Waits until every crew strand has arrived in the phase (R271). -/
  | barw (f : RF)
  /-- SIG: Forces, drains and posts a launch or host event (R272). -/
  | sig (f : RF)
  /-- TEND: Forces, waits for the strand's work and ends the strand (R273). -/
  | tend (f : RF)
  /-- RAMO: Sends one identified remote atomic (R274). -/
  | ramo (f : RF)
  /-- RAMOQ: Asks whether a remote-atomic identifier was performed (R276). -/
  | ramoq (f : RF)
  /-- LOOP: Pushes a hardware loop level or skips the body (R277). -/
  | loop (f : IF)
  /-- FLD: Loads and checks 32 bobbin words into a fabric context (R245). -/
  | fld (f : RF)
  /-- FRUN: Forces and runs the bobbin fabric on bound names (R247). -/
  | frun (f : RF)
  /-- FTOK: Adds a token to the pending token list (R246). -/
  | ftok (f : RF)
  /-- FSTAT: Returns the fabric status (R248). -/
  | fstat (f : RF)
  /-- LIDX: Returns the index of a loop level (R280). -/
  | lidx (f : RF)
  /-- LBRK: Pops the innermost loop level and leaves its body (R280). -/
  | lbrk (f : RF)
  /-- MPKW: Sends a masked write packet of o0–o7 to a base die (R282). -/
  | mpkw (f : RF)
  /-- MPKR: Sends a read packet to a base die (R282). -/
  | mpkr (f : RF)
  /-- MPKP: Pops the oldest packet reply (R283). -/
  | mpkp (f : RF)
  /-- TRET: Returns from the handler, or kills the task when kp is set (R286). -/
  | tret (f : RF)
  /-- SYIELD: Drains, saves the resume vector and unbinds the strand (R287). -/
  | syield (f : RF)
  /-- HARNQ: Returns a harness slot's half identifier and retired-lane mask (R288). -/
  | harnq (f : RF)
  /-- ECALL: Takes the call trap 0xE0 (R109). -/
  | ecall
  /-- EBREAK: Takes the breakpoint trap 0xE1 (R109). -/
  | ebreak
  /-- FENCE: Forces and orders every path before every path (R265). -/
  | fence (fm pred succ : BitVec 4) (rs1 rd : BitVec 5)
  /-- FENCE_I: Invalidates the instruction cache and orders later fetches after earlier stores (R109). -/
  | fenceI (imm : BitVec 12) (rs1 rd : BitVec 5)
  /-- SCALAR_INSTRUCTION: Executes any other RV64G, Zba or Zbb instruction (R109). -/
  | scalarInstruction (i : Scalar)
  /-- ADD: Bobbin word: 64-bit addition (R239). -/
  | bAdd (f : BW)
  /-- SUB: Bobbin word: 64-bit subtraction (R239). -/
  | bSub (f : BW)
  /-- MUL: Bobbin word: low 64 bits of a product (R239). -/
  | bMul (f : BW)
  /-- AND: Bobbin word: bitwise AND (R239). -/
  | bAnd (f : BW)
  /-- OR: Bobbin word: bitwise OR (R239). -/
  | bOr (f : BW)
  /-- XOR: Bobbin word: bitwise XOR (R239). -/
  | bXor (f : BW)
  /-- SLL: Bobbin word: left shift (R239). -/
  | bSll (f : BW)
  /-- SRL: Bobbin word: logical right shift (R239). -/
  | bSrl (f : BW)
  /-- SRA: Bobbin word: arithmetic right shift (R239). -/
  | bSra (f : BW)
  /-- MIN: Bobbin word: signed minimum (R239). -/
  | bMin (f : BW)
  /-- MAX: Bobbin word: signed maximum (R239). -/
  | bMax (f : BW)
  /-- MINU: Bobbin word: unsigned minimum (R239). -/
  | bMinu (f : BW)
  /-- MAXU: Bobbin word: unsigned maximum (R239). -/
  | bMaxu (f : BW)
  /-- MOV: Bobbin word: moves A to the destination (R239). -/
  | bMov (f : BW)
  /-- FADD: Bobbin word: fp64 addition (R239). -/
  | bFadd (f : BW)
  /-- FSUB: Bobbin word: fp64 subtraction (R239). -/
  | bFsub (f : BW)
  /-- FMUL: Bobbin word: fp64 multiplication (R239). -/
  | bFmul (f : BW)
  /-- FMIN: Bobbin word: fp64 minimum as VFMIN (R239). -/
  | bFmin (f : BW)
  /-- FMAX: Bobbin word: fp64 maximum as VFMAX (R239). -/
  | bFmax (f : BW)
  /-- FMA: Bobbin word: fused A × B + d into a b register (R239). -/
  | bFma (f : BW)
  /-- CEQ: Bobbin word: pattern equality compare (R239). -/
  | bCeq (f : BW)
  /-- CLT: Bobbin word: signed less-than compare (R239). -/
  | bClt (f : BW)
  /-- CLTU: Bobbin word: unsigned less-than compare (R239). -/
  | bCltu (f : BW)
  /-- FEQ: Bobbin word: fp64 equality compare (R239). -/
  | bFeq (f : BW)
  /-- FLT: Bobbin word: fp64 less-than compare (R239). -/
  | bFlt (f : BW)
  /-- FLE: Bobbin word: fp64 less-or-equal compare (R239). -/
  | bFle (f : BW)
  /-- SEL: Bobbin word: selects A or B on register bc (R239). -/
  | bSel (f : BW)
  /-- J: Bobbin word: jumps to word t (R239). -/
  | bJ (f : BW)
  /-- BNZ: Bobbin word: branches when A is non-zero (R239). -/
  | bBnz (f : BW)
  /-- BZ: Bobbin word: branches when A is zero (R239). -/
  | bBz (f : BW)
  /-- RET: Bobbin word: returns to the word saved in ret (R240). -/
  | bRet (f : BW)
  /-- HALT: Bobbin word: stops the bobbin for the rest of the run (R240). -/
  | bHalt (f : BW)
  /-- CTX: Bobbin word: switches to the other context at word t (R240). -/
  | bCtx (f : BW)
  /-- TFWD: Bobbin word: forwards the current token to a neighbour queue (R240). -/
  | bTfwd (f : BW)
  /-- TGET: Bobbin word: copies tok into a b register (R240). -/
  | bTget (f : BW)
  /-- FABRIC_RUN_END: Once every bobbin has halted and outputs are written, the run ends, discards queues and sets FSTAT (R243). -/
  | fabricRunEnd
  /-- FABRIC_RUN_TIMEOUT: No retired word for 4,096 cycles or 2^30 cycles of run raises imprecise fault 0xAA (R243). -/
  | fabricRunTimeout
  /-- CSR_WRITE: Writes a CSR that has no behaviour of its own (R41). -/
  | csrWrite (c : CsrF)
  /-- VFFLAGS_WRITE: A CSR write to vfflags waits for any pass in flight, then stores the value (R46). -/
  | vfflagsWrite (c : CsrF)
  /-- VSLIP_WRITE: A CSR write to vslip stores the slip clamped to 1–16 (R46). -/
  | vslipWrite (c : CsrF)
  /-- VMT_WRITE: A CSR write to vmt stores the value as written, reserved bits included (R45). -/
  | vmtWrite (c : CsrF)
  /-- TCFG_WRITE: A CSR write to a tcfg register stores any value and changes no tile byte (R47). -/
  | tcfgWrite (c : CsrF)
  /-- SSTAT_WRITE: A supervisor write to sstat sets pmode and the dirty-state fields (R54). -/
  | sstatWrite (c : CsrF)
  /-- SAMPLING_STATS_READ: A CSR read of scount, smean or svar waits for earlier MSAMPs to end (R49). -/
  | samplingStatsRead (c : CsrF)
  /-- DUE_FORCE: The 64th instruction after the pricking became due is treated as a force point (R85). -/
  | dueForce
  /-- LINKED_STREAM_RELEASE: A linked stream issues an element group once the frontier passes it or cmp is set (R269). -/
  | linkedStreamRelease
  /-- LINKED_STREAM_TIMEOUT: A linked stream whose frontier does not move for 1 s takes fatal 0xA3 or 0xA5 (R410). -/
  | linkedStreamTimeout
  /-- PASS_END: A pass writes reductions and flags, materialises names in resident mode and ends (R88). -/
  | passEnd
  /-- PASS_FAULT: A pass that meets a fault is held at its checkpoint with blame on the lowest faulting element (R398). -/
  | passFault (err : Option (Nat × Nat × Nat))
  /-- IMPRECISE_TRAP_ENTRY: A held or newly raised imprecise fault is taken at the next boundary in task mode (R396). -/
  | impreciseTrapEntry
  /-- PRE_EMPT_TRAP: A strand with pp set takes trap 0xEF at its next iteration boundary (R55). -/
  | preEmptTrap
  /-- COPY_COMPLETE: When every byte of a copy is performed at system scope, its tag completes (R256). -/
  | copyComplete (n : Nat)
  /-- COPY_FAULT_STOP: A copy that meets a fault stops, sets tagerr and posts a copy record (R439). -/
  | copyFaultStop (n : Nat)
  /-- FOLLOW_ON_RUN: A CPYF follow-on runs once the copy's last byte has landed, or is discarded on error (R258). -/
  | followOnRun
  /-- CPYM_REPLICA_STOP: A failed multicast replica stops alone and posts its own record (R440). -/
  | cpymReplicaStop (n r : Nat)
  /-- HOOP_OP_COMPLETE: A tile, hoop or sampling instruction is performed and leaves ctrs.mat (R204). -/
  | hoopOpComplete
  /-- ENGINE_FAULT: An imprecise fault stops a hoop, sampling or remote-atomic engine, leaving stated partial state (R408). -/
  | engineFault (src kind elem : Nat)
  /-- MSAMP_END: A sampling run ends on its count or stop test and writes x[rd] (R222). -/
  | msampEnd
  /-- BARRIER_PHASE_PASS: A waiting BARW proceeds once every crew strand has arrived in the phase (R271). -/
  | barrierPhasePass
  /-- BARRIER_TIMEOUT: A BARW or BARC waiting 1 s for its phase takes fatal precise 0xAF (R410). -/
  | barrierTimeout
  /-- PACKET_AT_BASE_DIE: A base die performs a packet in issue order per granule, merging narrow writes (R284). -/
  | packetAtBaseDie (n : Nat)
  /-- PACKET_REPLY_ARRIVAL: A packet reply reaches the port, frees its tag and joins the reply queue (R282). -/
  | packetReplyArrival (n : Nat)
  /-- RAMO_AT_TARGET: A target performs a remote atomic unless its identifier is in the window (R275). -/
  | ramoAtTarget (n : Nat)
  /-- RAMO_RESPONSE: A remote-atomic response arrives and writes x[rd] (R274). -/
  | ramoResponse (n : Nat)
  /-- LAUNCH_LINE0_WRITE: A whole write of a port's line 0 sets the half state (R341). -/
  | launchLine0Write (asid queue : Nat) (data : BitVec 512)
  /-- LAUNCH_LINE1_WRITE: A whole write of line 1 to a half port completes a packet, checked and queued or refused (R341). -/
  | launchLine1Write (asid queue : Nat) (data : BitVec 512)
  /-- PORT_WRITE_DISCARD: A stray, short or crossing port write is discarded and counted (R341). -/
  | portWriteDiscard (asid queue : Nat)
  /-- TASK_PLACEMENT: The firmware chooses a ready task and writes bind records for its crew (R352). -/
  | taskPlacement
  /-- PRIORITY_AGING: Every full 10 ms ready and unbound raises a task's effective priority by one (R352). -/
  | priorityAging
  /-- PRE_EMPTION_DECISION: A ready task unable to fit for 1 ms makes the firmware pre-empt lower-priority crews (R353). -/
  | preEmptionDecision
  /-- SLOT_HOLD: The firmware writes valid = 1 and the slot becomes held (R347). -/
  | slotHold (fe : Nat)
  /-- SLOT_ARM: The firmware writes arm = 1 and dispatch checks the halves, arming or interrupting (R347). -/
  | slotArm (fe : Nat)
  /-- SLOT_DISARM: The firmware writes arm = 0 and the slot returns to held (R347). -/
  | slotDisarm (fe : Nat)
  /-- SLOT_FREE: The firmware writes valid = 0 and the slot becomes free (R347). -/
  | slotFree (fe : Nat)
  /-- BIND_RECORD_WRITE: The firmware writes other bind-record fields (R346). -/
  | bindRecordWrite (fe word : Nat) (value : Word)
  /-- CREW_ARMED: When every record of a crew is armed, dispatch scrubs and invalidates caches (R347). -/
  | crewArmed (ctx cnum : Nat)
  /-- STRAND_START: When the scrub is done, dispatch sets registers and fetches the first instruction (R349). -/
  | strandStart (fe : Nat)
  /-- LOCKED_CLOCK_ENTRY: A stack emptied for a locked-clock task fixes its clock and binds the task (R355). -/
  | lockedClockEntry (stack : Nat)
  /-- PAGE_FAULT_DEADLINE: 150 µs after pp is set the firmware gives up the crew's page faults (R447). -/
  | pageFaultDeadline (ctx cnum : Nat)
  /-- PRE_EMPTION_DEADLINE: 200 µs after pp is set a crew not yielded is killed with 0xFF (R447). -/
  | preEmptionDeadline (ctx cnum : Nat)
  /-- KILL_TASK_COMPLETE: Once the killed task's accesses are performed, slots are freed and a class 2 record is posted (R411). -/
  | killTaskComplete (ctx cnum : Nat)
  /-- COMPLETION_RECORD_WRITE: The record queue writes the next record into the ring when it has room (R344). -/
  | completionRecordWrite (fe : Nat)
  /-- HEADER_REREAD: A record queue waiting on a full ring re-reads the header at most every 2 µs (R344). -/
  | headerReread (fe : Nat)
  /-- CREATE_CONTEXT: Mailbox command 0x01 allocates an ASID, handle, pool space and handler (R357). -/
  | createContext (root tvec : Word) (pool : Vector Nat 8) (keep : Bool)
  /-- DESTROY_CONTEXT: Mailbox command 0x02 kills the context's tasks, clears its pool and frees the ASID (R357). -/
  | destroyContext (ctx : Nat)
  /-- SET_QUEUE: Mailbox command 0x03 sets a queue's priority (R342). -/
  | setQueue (ctx queue pri : Nat)
  /-- KILL_TASK: Mailbox command 0x04 kills a task with a class 2 record (R411). -/
  | killTask (ctx : Nat) (task : BitVec 32)
  /-- SHOOTDOWN: Mailbox command 0x05 invalidates translations and answers waiting page faults (R443). -/
  | shootdown (w0 w1 w2 w3 : Word)
  /-- SHOOTDOWN_COMPLETE: When old-translation accesses are performed, the shootdown completes and releases waiting accesses (R304). -/
  | shootdownComplete (n : Nat)
  /-- GRANULE_REGIONS: Mailbox command 0x06 reports region granules and changes an unreserved region's granule (R306). -/
  | granuleRegions (change : Option (Nat × Nat))
  /-- UPDATE: Mailbox command 0x07 updates a unit's firmware after verification (R448). -/
  | update (unit image : Nat) (signed : Bool)
  /-- MEASUREMENTS: Mailbox command 0x08 returns the firmware measurements (R360). -/
  | measurements (stack : Nat)
  /-- UPDATE_DRAIN_TIMEOUT: A drain waiting 60 s on non-pre-emptible crews abandons the update with status 4 (R448). -/
  | updateDrainTimeout (unit : Nat)
  /-- UPDATE_SELF_TEST_TIMEOUT: A stack not passing self-test 10 s after restart falls back to the other image (R449). -/
  | updateSelfTestTimeout (unit : Nat)
  /-- FAULT_RECORD_TO_HOST: The firmware passes a fault-buffer record to the host and frees its entry (R442). -/
  | faultRecordToHost (stack : Nat)
  /-- FAULT_BUFFER_STATUS_WRITE: A write to the fault-buffer status word clears ovf and heldn by W1C (R444). -/
  | faultBufferStatusWrite (stack : Nat) (value : Word)
  /-- LINK_FLIT_RESEND: A flit that fails its CRC is resent by the link layer (R436). -/
  | linkFlitResend (link : Nat)
  /-- LINK_DOWN: Eight failed resends or 1 ms without acknowledgment declare a link down (R436). -/
  | linkDown (link : Nat)
  /-- ROUTE_CHANGE: Once outstanding requests are settled, traffic moves to the other route (R437). -/
  | routeChange (link : Nat)
  /-- RESPONSE_TIMEOUT: A request without response 1 ms after sending is resent if a read or declared lost (R438). -/
  | responseTimeout (src n : Nat) (lost : Bool)
  /-- HOST_CXL_MEM_ACCESS: A host CXL.mem access reaches HBM through the memory-side cache (R316). -/
  | hostCxlMemAccess (addr : Nat) (wr : Option (BitVec 512 × BitVec 64))
  /-- PEER_REQUEST: A peer module's request reads or writes this module's HBM (R358). -/
  | peerRequest (port addr : Nat) (wr : Option (BitVec 512 × BitVec 64))
  /-- SPDM_REQUEST: An SPDM request over DOE is answered with signed measurements (R360). -/
  | spdmRequest (stack : Nat)
  /-- HOST_LINK_TRAINING: The CXL link trains at ×16 and 128 GT/s or falls back (R356). -/
  | hostLinkTraining (width rate : Nat)
  /-- RESET: At reset the lowest self-tested management core becomes coordinator and regions take G64 (R29). -/
  | reset
  /-- COORDINATOR_TAKEOVER: After 10 ms of silence the lowest answering core becomes coordinator and rebuilds state (R29). -/
  | coordinatorTakeover
  /-- CALIBRATION: A domain is recalibrated periodically, stalling a channel at most 10 µs per 100 ms (R359). -/
  | calibration (domain : Nat)
  /-- PATROL_SCRUB: Each base die reads and corrects every granule once in 24 hours (R430). -/
  | patrolScrub (addr found : Nat)
  /-- UNDERVOLT_STEP: A domain reaching 16 corrected events in a second raises its voltage one step (R433). -/
  | undervoltStep (domain : Nat)
  /-- UNDERVOLT_RECOUNT_END: After the second count the event is logged voltage-caused or a self-test is scheduled (R433). -/
  | undervoltRecountEnd (domain : Nat)
  /-- DOMAIN_SELF_TEST: At the next unbind the domain's self-test runs and retires faulty units (R433). -/
  | domainSelfTest (domain : Nat) (bad : List Nat)
  /-- ILLEGAL_INSTRUCTION: A fetched word that is not an instruction (bad low bits, long prefix, unimplemented standard opcode, unassigned slot, f3, op or f7) takes precise trap 0x00 and has no effect (R124). -/
  | illegalInstruction (w : IWord)
  /-- RAMOQ_ANSWER: The answer to a RAMOQ arrives from the target and is written to x[rd] as performed, not performed or unknown (R276). -/
  | ramoqAnswer
  /-- UPDATE_COMPLETE: A unit restarted on a new firmware image passes its self-test and answers the coordinator (or a base die or link ends its update stall), the update ends with status 0 and drained crews may be bound again (R449). -/
  | updateComplete (unit : Nat)
  deriving DecidableEq, Repr

end Sys2Proof
end

