-- ==== Sys2Proof/WellFormed.lean ====
section
/-! DEFINITION. WellFormed.lean: which fields a word may hold (spec/05 R115 to R124; spec/10 R237 to R241 for
bobbin words). Instr.defect names why a term is no instruction; none means it is well formed. -/

namespace Sys2Proof

/-- Why a word is an illegal instruction (05 R124), or a bobbin word is not legal (10 R241). -/
inductive Reject where
  /-- Bits [1:0] are not 0b11. -/
  | parcel
  /-- Bits [6:0] are 0x1F, 0x3F or 0x7F. -/
  | longPrefix
  /-- A standard major opcode, or an encoding in one, that R109 does not implement. -/
  | standard
  /-- An unassigned slot, f3, op or f7; for a bobbin word an unassigned cls or op. -/
  | unassigned
  /-- A selector, mf or u5 value outside its range. -/
  | range
  /-- A field that a format, a form or Table 5.8 requires to be zero, or a bobbin field R237 fixes. -/
  | field
  /-- A register-number constraint broken. -/
  | register
  /-- A CSR access that R41 or R110 names as illegal. -/
  | csr
  deriving DecidableEq, Repr

/-- The defect r unless b holds. -/
def needOr (b : Bool) (r : Reject) : Option Reject := if b then none else some r

/-- The defect "a field that must be zero" unless b holds. -/
def need (b : Bool) : Option Reject := needOr b .field

/-! V format (05 R113 to R118). -/

/-- Operand A: a must be zero when ak = 1 (R115). -/
def okA (f : VF) : Bool := !f.ak || f.a == 0

/-- Operand B: an o operand needs b[4:3] = 0 (R115). -/
def okB (f : VF) : Bool := f.bk != 2 || f.b.toNat < 8

/-- d must be zero under nb = 1 (R117). -/
def okNb (f : VF) : Bool := !f.nb || f.d == 0

/-- Binary form (Table 5.4). -/
def wfBinary (f : VF) : Option Reject := need (okA f && okB f && okNb f)

/-- VMERGE: the Binary form with m = 1 (Table 5.4). -/
def wfMerge (f : VF) : Option Reject := need (okA f && okB f && okNb f && f.m)

/-- Ternary form: v[d] is read under nb = 1 too, so d is free (R117). -/
def wfTernary (f : VF) : Option Reject := need (okA f && okB f)

/-- Compare form: k[d2:0] with d[4:3] = 0. -/
def wfCompare (f : VF) : Option Reject := need (okA f && okB f && okNb f && decide (f.d.toNat < 8))

/-- Unary form: bk = 00 and b = 0. -/
def wfUnary (f : VF) : Option Reject := need (okA f && okNb f && f.bk == 0 && f.b == 0)

/-- Move form: ak = 0 and a = 0. -/
def wfMove (f : VF) : Option Reject := need (okB f && okNb f && !f.ak && f.a == 0)

/-- Selected form of VCVT: bk = 11 and a selector from lo to hi (R118). -/
def wfSelected (f : VF) (lo hi : Nat) : Option Reject :=
  (need (okA f && okNb f && f.bk == 3)).or (needOr (decide (lo ≤ f.b.toNat) && decide (f.b.toNat ≤ hi)) .range)

/-- Generated form (VRAND). -/
def wfGenerated (f : VF) (hi : Nat) : Option Reject :=
  (need (okNb f && !f.ak && f.a == 0 && f.bk == 3)).or (needOr (decide (f.b.toNat ≤ hi)) .range)

/-- VNMS and VNMST: nb = 0 and d ≤ 30 (Table 5.4). -/
def wfNms (f : VF) (hi : Nat) : Option Reject :=
  ((need (okA f && f.bk == 3 && !f.nb)).or (needOr (decide (f.b.toNat ≤ hi)) .range)).or
    (needOr (decide (f.d.toNat ≤ 30)) .register)

/-- Reduction form: o[d2:0]; nb is ignored (R80). -/
def wfReduction (f : VF) (hi : Nat) : Option Reject :=
  (need (okA f && f.bk == 3 && decide (f.d.toNat < 8))).or (needOr (decide (f.b.toNat ≤ hi)) .range)

/-! VM format (05 R119). -/

/-- mf 15 makes the word illegal. -/
def okMf (f : VM) : Option Reject := needOr (f.mf != 15) .range

/-- mf 9 to 11 and 15 make a VLDX, VSTX or VAMOX word illegal. -/
def wfIndexed (f : VM) : Option Reject :=
  needOr (f.mf != 15 && !(decide (9 ≤ f.mf.toNat) && decide (f.mf.toNat ≤ 11))) .range

/-- Whether mf is a PB format, 9 to 11. -/
def isPbMf (mf : BitVec 4) : Bool := decide (9 ≤ mf.toNat) && decide (mf.toNat ≤ 11)

/-- VLD and VST: sub[1] = 0 (07 R160); d = 0 when sub[0] = 1, which is nb for VLD (07 R160, R117) and data is last
for VST (Table 5.6); a PB format is unit stride only (07 R163). -/
def wfUnit (f : VM) : Option Reject :=
  (need (!f.sub.getLsbD 1 && (!f.sub.getLsbD 0 || f.d == 0) && (!isPbMf f.mf || f.b == 0))).or (okMf f)

/-- VLDX and VSTX: d = 0 when sub[0] = 1 (R117, Table 5.6). -/
def wfGather (f : VM) : Option Reject := (need (!f.sub.getLsbD 0 || f.d == 0)).or (wfIndexed f)

/-! K format (05 R120). -/

/-- KAND, KOR, KXOR, KANDN. -/
def wfK2 (f : KF) : Option Reject :=
  need (f.k3 == 0 && decide (f.b.toNat < 8) && decide (f.a.toNat < 8) && decide (f.d.toNat < 8))

/-- KNOT. -/
def wfK1 (f : KF) : Option Reject := need (f.k3 == 0 && f.b == 0 && decide (f.a.toNat < 8) && decide (f.d.toNat < 8))

/-- KSHL, KSHR: b names an x register. -/
def wfKsh (f : KF) : Option Reject := need (f.k3 == 0 && decide (f.a.toNat < 8) && decide (f.d.toNat < 8))

/-- VADDK: b is zero. -/
def wfVaddk (f : KF) : Option Reject := need (f.b == 0)

/-! R format field kinds (Table 5.8). -/

/-- A field coded "—". -/
def kZero (x : BitVec 5) : Bool := x == 0

/-- Kinds k, o, m and acc.T: [4:3] = 0. -/
def kNum3 (x : BitVec 5) : Bool := decide (x.toNat < 8)

/-- Kinds acc and nm: [4:2] = 0. -/
def kNum2 (x : BitVec 5) : Bool := decide (x.toNat < 4)

/-- Kind km: [4] = 0. -/
def kNum4 (x : BitVec 5) : Bool := decide (x.toNat < 16)

/-- Kind T: [4:1] = 0. -/
def kBit (x : BitVec 5) : Bool := decide (x.toNat < 2)

/-- Kind mp: a tile pair m, m + 1 with m = 0 to 6. -/
def kPair (x : BitVec 5) : Bool := decide (x.toNat ≤ 6)

/-- Kind xq: x[n] to x[n+3] with n = 1 to 28. -/
def kXq (x : BitVec 5) : Bool := decide (1 ≤ x.toNat) && decide (x.toNat ≤ 28)

/-- Kind xp: x[n], x[n+1] with n = 1 to 30. -/
def kXp (x : BitVec 5) : Bool := decide (1 ≤ x.toNat) && decide (x.toNat ≤ 30)

/-- Kind u5 with the greatest value an instruction's entry allows. -/
def kU (n : Nat) (x : BitVec 5) : Bool := decide (x.toNat ≤ n)

/-- VLDSG, VSTSG: fields − 1 from 1 to 7 and rd + rs2 ≤ 31 (Table 5.9). -/
def wfGroup (f : RF) : Option Reject :=
  (needOr (decide (1 ≤ f.rs2.toNat) && decide (f.rs2.toNat ≤ 7)) .range).or
    (needOr (decide (f.rd.toNat + f.rs2.toNat ≤ 31)) .register)

/-! I format (05 R123). -/

/-- WAITC: rd and rs1 are zero. -/
def wfWaitc (f : IF) : Option Reject := need (f.rs1 == 0 && f.rd == 0)

/-- LOOP: rd is zero; a body length of 0 makes the word illegal. -/
def wfLoop (f : IF) : Option Reject := (need (f.rd == 0)).or (needOr (f.imm != 0) .range)

/-! Bobbin words (10 R237 to R241, Table 10.3). -/

/-- A dst code a data word may hold: 0 to 11, or 15, no destination (Table 10.3; log 12). -/
def okDst (x : BitVec 4) : Bool := decide (x.toNat ≤ 11) || x == 15

/-- imm12 is zero unless A or B is code 14. -/
def okImm (f : BW) : Bool := f.a == 14 || f.b == 14 || f.imm == 0

/-- Two operands and a destination. -/
def wfB2 (f : BW) : Option Reject := need (okDst f.dst && okImm f)

/-- MOV: B holds 15. -/
def wfB1 (f : BW) : Option Reject := need (okDst f.dst && f.b == 15 && okImm f)

/-- FMA: d is b0 to b7. -/
def wfBFma (f : BW) : Option Reject := need (decide (f.dst.toNat ≤ 7) && okImm f)

/-- SEL: imm12[11:3] is zero. -/
def wfBSel (f : BW) : Option Reject := need (okDst f.dst && decide (f.imm.toNat < 8))

/-- J: dst, A and B hold 15; imm12[11:5] is zero. -/
def wfBJ (f : BW) : Option Reject := need (f.dst == 15 && f.a == 15 && f.b == 15 && decide (f.imm.toNat < 32))

/-- BNZ, BZ: dst and B hold 15; imm12[11:5] is zero. Under A = 14 the immediate is imm12 itself. -/
def wfBBr (f : BW) : Option Reject := need (f.dst == 15 && f.b == 15 && decide (f.imm.toNat < 32))

/-- RET, HALT: no field used. -/
def wfBNone (f : BW) : Option Reject := need (f.dst == 15 && f.a == 15 && f.b == 15 && f.imm == 0)

/-- CTX: imm12[4:0] is the target. -/
def wfBCtx (f : BW) : Option Reject := need (f.dst == 15 && f.a == 15 && f.b == 15 && decide (f.imm.toNat < 32))

/-- TFWD: dst is qr or ql. -/
def wfBTfwd (f : BW) : Option Reject := need ((f.dst == 10 || f.dst == 11) && f.a == 15 && f.b == 15 && f.imm == 0)

/-- TGET: dst is b0 to b7. -/
def wfBTget (f : BW) : Option Reject := need (decide (f.dst.toNat ≤ 7) && f.a == 15 && f.b == 15 && f.imm == 0)

/-! CSR instructions (02 R41, 05 R110). -/

/-- How a CSR takes writes: the classes of spec/opcode_table.json, and the read-only ones. -/
inductive CsrClass where
  | plain | vfflags | vslip | vmt | tcfg | sstat | readOnly | stats
  deriving DecidableEq, Repr

/-- The class of a named CSR; none where R41 and R110 name no CSR (Tables 2.4 and 5.1). -/
def csrClass (a : BitVec 12) : Option CsrClass :=
  let n := a.toNat
  if n = 0x803 then some .vfflags
  else if n = 0x802 then some .vslip
  else if n = 0x801 then some .vmt
  else if 0x810 ≤ n ∧ n ≤ 0x817 then some .tcfg
  else if n = 0x5C5 then some .sstat
  else if (1 ≤ n ∧ n ≤ 3) ∨ n = 0x800 ∨ n = 0x804 ∨ n = 0x805 ∨ (0x820 ≤ n ∧ n ≤ 0x824) ∨
      (0x5C0 ≤ n ∧ n ≤ 0x5C7) ∨ n = 0x5C9 then some .plain
  else if 0xCC8 ≤ n ∧ n ≤ 0xCCA then some .stats
  else if (0xC00 ≤ n ∧ n ≤ 0xC02) ∨ (0xCC0 ≤ n ∧ n ≤ 0xCC6) ∨ n = 0xCCB ∨ n = 0x5C8 then some .readOnly
  else none

/-- Whether a CSR instruction writes: csrrw and csrrwi always, the others when their source field is not zero (R109:
Zicsr). -/
def CsrF.writes (c : CsrF) : Bool := c.op == .rw || c.src != 0

/-- A CSR word of the row whose class is k. -/
def wfCsr (c : CsrF) (k : CsrClass) : Option Reject :=
  needOr (csrClass c.csr == some k && (c.writes == (k != .stats && k != .readOnly))) .csr

/-- A scalar word: a CSR read names a CSR whose read has no row of its own (R110); a static rounding mode of 5 or
6 is reserved (R109: F and D). -/
def wfScalar (i : Scalar) : Option Reject :=
  match i with
  | .csrRead c => needOr ((csrClass c.csr).isSome && csrClass c.csr != some .stats && !c.writes) .csr
  | .fma _ _ rm _ _ _ _ => needOr (rm != 5 && rm != 6) .standard
  | .farith _ _ rm _ _ _ => needOr (rm != 5 && rm != 6) .standard
  | .fsqrt _ rm _ _ => needOr (rm != 5 && rm != 6) .standard
  | .fcvtFF _ rm _ _ => needOr (rm != 5 && rm != 6) .standard
  | .fcvtToInt _ _ rm _ _ => needOr (rm != 5 && rm != 6) .standard
  | .fcvtFromInt _ _ rm _ _ => needOr (rm != 5 && rm != 6) .standard
  | .lui .. | .auipc .. | .jal .. | .jalr .. | .branch .. | .load .. | .store .. | .opImm .. | .shImm ..
  | .shImmW .. | .opReg .. | .unary .. | .lr .. | .sc .. | .amo .. | .fload .. | .fstore .. | .fsgn ..
  | .fminmax .. | .fcmp .. | .fclass .. | .fmvToX .. | .fmvFromX .. => none

/-- Why a term is no instruction; none when it is well formed. -/
def Instr.defect (i : Instr) : Option Reject :=
  match i with
  | .vadd f => wfBinary f
  | .vsub f => wfBinary f
  | .vrsub f => wfBinary f
  | .vmul f => wfBinary f
  | .vmulh f => wfBinary f
  | .vmulhu f => wfBinary f
  | .vdiv f => wfBinary f
  | .vdivu f => wfBinary f
  | .vrem f => wfBinary f
  | .vremu f => wfBinary f
  | .vmin f => wfBinary f
  | .vmax f => wfBinary f
  | .vminu f => wfBinary f
  | .vmaxu f => wfBinary f
  | .vadds f => wfBinary f
  | .vsubs f => wfBinary f
  | .vaddsu f => wfBinary f
  | .vsubsu f => wfBinary f
  | .vand f => wfBinary f
  | .vor f => wfBinary f
  | .vxor f => wfBinary f
  | .vsll f => wfBinary f
  | .vsrl f => wfBinary f
  | .vsra f => wfBinary f
  | .vmerge f => wfMerge f
  | .vmv f => wfMove f
  | .vcmpEq f => wfCompare f
  | .vcmpNe f => wfCompare f
  | .vcmpLt f => wfCompare f
  | .vcmpLe f => wfCompare f
  | .vcmpLtu f => wfCompare f
  | .vcmpLeu f => wfCompare f
  | .vfadd f => wfBinary f
  | .vfsub f => wfBinary f
  | .vfmul f => wfBinary f
  | .vfdiv f => wfBinary f
  | .vfma f => wfTernary f
  | .vfms f => wfTernary f
  | .vfnma f => wfTernary f
  | .vfnms f => wfTernary f
  | .vfmin f => wfBinary f
  | .vfmax f => wfBinary f
  | .vfsgnj f => wfBinary f
  | .vfsqrt f => wfUnary f
  | .vfexp2 f => wfUnary f
  | .vflog2 f => wfUnary f
  | .vcvt f => wfSelected f 1 8
  | .vfclass f => wfUnary f
  | .vfcmpEq f => wfCompare f
  | .vfcmpLt f => wfCompare f
  | .vfcmpLe f => wfCompare f
  | .vfcmpUn f => wfCompare f
  | .vscanAdd f => wfUnary f
  | .vscanMax f => wfUnary f
  | .vfscan f => wfUnary f
  | .vlrec f => wfBinary f
  | .vprev f => wfUnary f
  | .vrand f => wfGenerated f 3
  | .vnms f => wfNms f 3
  | .vnmst f => wfNms f 0
  | .vred f => wfReduction f 7
  | .vfred f => wfReduction f 3
  | .vfredo f => wfReduction f 0
  | .vld f => wfUnit f
  | .vldx f => wfGather f
  | .vst f => wfUnit f
  | .vstx f => wfGather f
  | .vamox f => wfIndexed f
  | .kand f => wfK2 f
  | .kor f => wfK2 f
  | .kxor f => wfK2 f
  | .kandn f => wfK2 f
  | .knot f => wfK1 f
  | .kshl f => wfKsh f
  | .kshr f => wfKsh f
  | .vadc _ => none
  | .vsbc _ => none
  | .vaddk f => wfVaddk f
  | .vsetl _ => none
  | .vsetli _ => none
  | .vlq f => (need (kU 7 f.rs1)).or (need (kZero f.rs2))
  | .vforce f => ((need (kZero f.rd)).or (need (kZero f.rs1))).or (need (kZero f.rs2))
  | .voset f => (need (kNum3 f.rd)).or (need (kZero f.rs2))
  | .voget f => (need (kNum3 f.rs1)).or (need (kZero f.rs2))
  | .vspill f => need (kZero f.rd)
  | .vfill f => need (kZero f.rs2)
  | .vsavef f => (need (kZero f.rd)).or (need (kZero f.rs2))
  | .vrestf f => (need (kZero f.rd)).or (need (kZero f.rs2))
  | .vldsg f => wfGroup f
  | .vstsg f => wfGroup f
  | .vsldup _ => none
  | .vslddn _ => none
  | .vperm _ => none
  | .vcompr f => need (kNum3 f.rs2)
  | .vexpnd f => need (kNum3 f.rs2)
  | .vrev f => need (kZero f.rs2)
  | .vclz f => need (kZero f.rs2)
  | .vpopcnt f => need (kZero f.rs2)
  | .vid f => (need (kZero f.rs1)).or (need (kZero f.rs2))
  | .kpopc f => (need (kNum3 f.rs1)).or (need (kZero f.rs2))
  | .kfirst f => (need (kNum3 f.rs1)).or (need (kZero f.rs2))
  | .klast f => (need (kNum3 f.rs1)).or (need (kZero f.rs2))
  | .kmv f => need (kNum3 f.rs1)
  | .kset f => (need (kNum3 f.rd)).or (need (kZero f.rs2))
  | .ktov f => (need (kNum3 f.rs1)).or (need (kZero f.rs2))
  | .vtroww f => need (kNum3 f.rd)
  | .vtrowr f => need (kNum3 f.rs1)
  | .vtcolw f => need (kNum3 f.rd)
  | .vtcolr f => need (kNum3 f.rs1)
  | .tzero f => ((need (kNum3 f.rd)).or (need (kZero f.rs1))).or (need (kZero f.rs2))
  | .hload f => (need (kBit f.rd)).or (need (kNum3 f.rs1))
  | .hloads f => (need (kBit f.rd)).or (need (kPair f.rs1))
  | .hswap f => ((need (kZero f.rd)).or (need (kZero f.rs1))).or (need (kZero f.rs2))
  | .hmul f => ((need (kNum3 f.rd)).or (need (kNum3 f.rs1))).or (need (kZero f.rs2))
  | .hmulp f => need (kNum3 f.rd)
  | .hmulf f => ((need (kNum2 f.rd)).or (need (kNum3 f.rs1))).or (need (kNum3 f.rs2))
  | .hacc f => (need (kNum2 f.rd)).or (need (kU 1 f.rs2))
  | .hmov f => ((need (kNum3 f.rd)).or (need (kNum2 f.rs1))).or (need (kZero f.rs2))
  | .hq f => (need (kU 3 f.rs1)).or (need (kZero f.rs2))
  | .mnrmz f => ((need (kZero f.rd)).or (need (kZero f.rs1))).or (need (kZero f.rs2))
  | .mnorm f => need (kNum2 f.rd)
  | .matab f => ((need (kZero f.rd)).or (need (kNum2 f.rs1))).or (need (kNum2 f.rs2))
  | .msamp _ => none
  | .mscale f => (need (kNum2 f.rd)).or (need (kZero f.rs2))
  | .cpy f => ((need (kZero f.rd)).or (need (kXq f.rs1))).or (need (kZero f.rs2))
  | .cpyf f => (need (kZero f.rd)).or (need (kXq f.rs1))
  | .cpyb f => (need (kNum3 f.rd)).or (need (kZero f.rs2))
  | .cpym f => (need (kZero f.rd)).or (need (kXq f.rs1))
  | .twany f => (need (kZero f.rd)).or (need (kZero f.rs2))
  | .twall f => (need (kZero f.rd)).or (need (kZero f.rs2))
  | .tffr f => (need (kZero f.rs1)).or (need (kZero f.rs2))
  | .tclr f => (need (kZero f.rd)).or (need (kZero f.rs2))
  | .waitc f => wfWaitc f
  | .fencep f => ((need (kZero f.rd)).or (need (kU 7 f.rs1))).or (need (kU 7 f.rs2))
  | .wmset f => need (kZero f.rd)
  | .wmpub f => (need (kZero f.rd)).or (need (kZero f.rs2))
  | .wmlnk f => (need (kZero f.rd)).or (need (kZero f.rs2))
  | .wmget f => need (kZero f.rs2)
  | .barc f => ((need (kZero f.rd)).or (need (kZero f.rs1))).or (need (kZero f.rs2))
  | .bara f => ((need (kZero f.rd)).or (need (kZero f.rs1))).or (need (kZero f.rs2))
  | .barw f => ((need (kZero f.rd)).or (need (kZero f.rs1))).or (need (kZero f.rs2))
  | .sig f => need (kZero f.rd)
  | .tend f => ((need (kZero f.rd)).or (need (kZero f.rs1))).or (need (kZero f.rs2))
  | .ramo f => need (kXp f.rs2)
  | .ramoq f => need (kZero f.rs2)
  | .loop f => wfLoop f
  | .fld f => (need (kZero f.rd)).or (need (kU 1 f.rs2))
  | .frun f => (need (kZero f.rd)).or (need (kNum4 f.rs2))
  | .ftok f => need (kZero f.rd)
  | .fstat f => (need (kZero f.rs1)).or (need (kZero f.rs2))
  | .lidx f => (need (kU 5 f.rs1)).or (need (kZero f.rs2))
  | .lbrk f => ((need (kZero f.rd)).or (need (kZero f.rs1))).or (need (kZero f.rs2))
  | .mpkw _ => none
  | .mpkr f => need (kZero f.rs2)
  | .mpkp f => (need (kZero f.rs1)).or (need (kZero f.rs2))
  | .tret f => ((need (kZero f.rd)).or (need (kZero f.rs1))).or (need (kZero f.rs2))
  | .syield f => ((need (kZero f.rd)).or (need (kZero f.rs1))).or (need (kZero f.rs2))
  | .harnq f => (need (kU 7 f.rs1)).or (need (kZero f.rs2))
  | .ecall .. => none
  | .ebreak .. => none
  | .fence .. => none
  | .fenceI .. => none
  | .scalarInstruction i => wfScalar i
  | .bAdd f => wfB2 f
  | .bSub f => wfB2 f
  | .bMul f => wfB2 f
  | .bAnd f => wfB2 f
  | .bOr f => wfB2 f
  | .bXor f => wfB2 f
  | .bSll f => wfB2 f
  | .bSrl f => wfB2 f
  | .bSra f => wfB2 f
  | .bMin f => wfB2 f
  | .bMax f => wfB2 f
  | .bMinu f => wfB2 f
  | .bMaxu f => wfB2 f
  | .bMov f => wfB1 f
  | .bFadd f => wfB2 f
  | .bFsub f => wfB2 f
  | .bFmul f => wfB2 f
  | .bFmin f => wfB2 f
  | .bFmax f => wfB2 f
  | .bFma f => wfBFma f
  | .bCeq f => wfB2 f
  | .bClt f => wfB2 f
  | .bCltu f => wfB2 f
  | .bFeq f => wfB2 f
  | .bFlt f => wfB2 f
  | .bFle f => wfB2 f
  | .bSel f => wfBSel f
  | .bJ f => wfBJ f
  | .bBnz f => wfBBr f
  | .bBz f => wfBBr f
  | .bRet f => wfBNone f
  | .bHalt f => wfBNone f
  | .bCtx f => wfBCtx f
  | .bTfwd f => wfBTfwd f
  | .bTget f => wfBTget f
  | .fabricRunEnd .. => none
  | .fabricRunTimeout .. => none
  | .csrWrite c => wfCsr c .plain
  | .vfflagsWrite c => wfCsr c .vfflags
  | .vslipWrite c => wfCsr c .vslip
  | .vmtWrite c => wfCsr c .vmt
  | .tcfgWrite c => wfCsr c .tcfg
  | .sstatWrite c => wfCsr c .sstat
  | .samplingStatsRead c => wfCsr c .stats
  | .dueForce .. => none
  | .linkedStreamRelease .. => none
  | .linkedStreamTimeout .. => none
  | .passEnd .. => none
  | .passFault .. => none
  | .impreciseTrapEntry .. => none
  | .preEmptTrap .. => none
  | .copyComplete .. => none
  | .copyFaultStop .. => none
  | .followOnRun .. => none
  | .cpymReplicaStop .. => none
  | .hoopOpComplete .. => none
  | .engineFault .. => none
  | .msampEnd .. => none
  | .barrierPhasePass .. => none
  | .barrierTimeout .. => none
  | .packetAtBaseDie .. => none
  | .packetReplyArrival .. => none
  | .ramoAtTarget .. => none
  | .ramoResponse .. => none
  | .launchLine0Write .. => none
  | .launchLine1Write .. => none
  | .portWriteDiscard .. => none
  | .taskPlacement .. => none
  | .priorityAging .. => none
  | .preEmptionDecision .. => none
  | .slotHold .. => none
  | .slotArm .. => none
  | .slotDisarm .. => none
  | .slotFree .. => none
  | .bindRecordWrite .. => none
  | .crewArmed .. => none
  | .strandStart .. => none
  | .lockedClockEntry .. => none
  | .pageFaultDeadline .. => none
  | .preEmptionDeadline .. => none
  | .killTaskComplete .. => none
  | .completionRecordWrite .. => none
  | .headerReread .. => none
  | .createContext .. => none
  | .destroyContext .. => none
  | .setQueue .. => none
  | .killTask .. => none
  | .shootdown .. => none
  | .shootdownComplete .. => none
  | .granuleRegions .. => none
  | .update .. => none
  | .measurements .. => none
  | .updateDrainTimeout .. => none
  | .updateSelfTestTimeout .. => none
  | .faultRecordToHost .. => none
  | .faultBufferStatusWrite .. => none
  | .linkFlitResend .. => none
  | .linkDown .. => none
  | .routeChange .. => none
  | .responseTimeout .. => none
  | .hostCxlMemAccess .. => none
  | .peerRequest .. => none
  | .spdmRequest .. => none
  | .hostLinkTraining .. => none
  | .reset .. => none
  | .coordinatorTakeover .. => none
  | .calibration .. => none
  | .patrolScrub .. => none
  | .undervoltStep .. => none
  | .undervoltRecountEnd .. => none
  | .domainSelfTest .. => none
  | .illegalInstruction .. => none
  | .ramoqAnswer .. => none
  | .updateComplete .. => none

/-- Well-formed instructions: those whose fields the spec's formats allow. -/
def Instr.WellFormed (i : Instr) : Prop := i.defect = none

end Sys2Proof
end

