-- ==== Sys2Proof/Decode.lean ====
section
/-! DEFINITION. Decode.lean: from words to instructions and back (spec/05 R108 to R124; spec/10 R237 to R241 for
bobbin words). decode is total: a word that is no instruction is rejected by name. -/

namespace Sys2Proof

/-! Field access. -/

/-- Bits [lo + n − 1 : lo] of a word. -/
def bitsAt {m : Nat} (w : BitVec m) (lo n : Nat) : BitVec n := w.extractLsb' lo n

/-- Bit i of a word. -/
def bitAt {m : Nat} (w : BitVec m) (i : Nat) : Bool := w.getLsbD i

/-- A Bool as one bit. -/
def bit1 (b : Bool) : BitVec 1 := BitVec.ofBool b

/-! Formats of device words (05 R113 to R123). -/

/-- V format (R113): slot is f3·4 + f2. -/
def encV (op : BitVec 7) (slot : BitVec 5) (f : VF) : IWord :=
  bitsAt slot 0 2 ++ bit1 f.nb ++ bit1 f.m ++ f.bk ++ bit1 f.ak ++ f.b ++ f.a ++ bitsAt slot 2 3 ++ f.d ++ op

/-- The fields of a V-format word. -/
def getV (w : IWord) : VF :=
  { nb := bitAt w 29, m := bitAt w 28, bk := bitsAt w 26 2, ak := bitAt w 25, b := bitsAt w 20 5, a := bitsAt w 15 5,
    d := bitsAt w 7 5 }

/-- The slot of a V-format word (R113). -/
def getSlot (w : IWord) : BitVec 5 := bitsAt w 12 3 ++ bitsAt w 30 2

/-- VM format (R119). -/
def encVM (f3 : BitVec 3) (f : VM) : IWord :=
  f.mf ++ bit1 f.m ++ f.sub ++ f.b ++ f.a ++ f3 ++ f.d ++ (0x5B : BitVec 7)

/-- The fields of a VM-format word. -/
def getVM (w : IWord) : VM :=
  { mf := bitsAt w 28 4, m := bitAt w 27, sub := bitsAt w 25 2, b := bitsAt w 20 5, a := bitsAt w 15 5, d := bitsAt w 7 5 }

/-- K format (R120): opcode 0x5B, f3 = 110. -/
def encK (op : BitVec 4) (f : KF) : IWord := op ++ f.k3 ++ f.b ++ f.a ++ (6 : BitVec 3) ++ f.d ++ (0x5B : BitVec 7)

/-- The fields of a K-format word. -/
def getK (w : IWord) : KF := { k3 := bitsAt w 25 3, b := bitsAt w 20 5, a := bitsAt w 15 5, d := bitsAt w 7 5 }

/-- R format (R121). -/
def encR (op : BitVec 7) (f3 : BitVec 3) (f7 : BitVec 7) (f : RF) : IWord := f7 ++ f.rs2 ++ f.rs1 ++ f3 ++ f.rd ++ op

/-- The fields of an R-format word. -/
def getR (w : IWord) : RF := { rs2 := bitsAt w 20 5, rs1 := bitsAt w 15 5, rd := bitsAt w 7 5 }

/-- I format (R123). -/
def encI (op : BitVec 7) (f3 : BitVec 3) (f : IF) : IWord := f.imm ++ f.rs1 ++ f3 ++ f.rd ++ op

/-- The fields of an I-format word. -/
def getI (w : IWord) : IF := { imm := bitsAt w 20 12, rs1 := bitsAt w 15 5, rd := bitsAt w 7 5 }

/-- A bobbin word (10 R237). -/
def encB (cls op : BitVec 4) (f : BW) : IWord := cls ++ op ++ f.dst ++ f.a ++ f.b ++ f.imm

/-- The fields of a bobbin word. -/
def getB (w : IWord) : BW := { dst := bitsAt w 20 4, a := bitsAt w 16 4, b := bitsAt w 12 4, imm := bitsAt w 0 12 }

/-- The slots of opcode 0x0B (05 R114, Table 5.3). -/
def slot0B (slot : Nat) (f : VF) : Option Instr :=
  match slot with
  | 0 => some (.vadd f)
  | 1 => some (.vsub f)
  | 2 => some (.vrsub f)
  | 3 => some (.vmul f)
  | 4 => some (.vmulh f)
  | 5 => some (.vmulhu f)
  | 6 => some (.vdiv f)
  | 7 => some (.vdivu f)
  | 8 => some (.vrem f)
  | 9 => some (.vremu f)
  | 10 => some (.vmin f)
  | 11 => some (.vmax f)
  | 12 => some (.vminu f)
  | 13 => some (.vmaxu f)
  | 14 => some (.vadds f)
  | 15 => some (.vsubs f)
  | 16 => some (.vaddsu f)
  | 17 => some (.vsubsu f)
  | 18 => some (.vand f)
  | 19 => some (.vor f)
  | 20 => some (.vxor f)
  | 21 => some (.vsll f)
  | 22 => some (.vsrl f)
  | 23 => some (.vsra f)
  | 24 => some (.vmerge f)
  | 25 => some (.vmv f)
  | 26 => some (.vcmpEq f)
  | 27 => some (.vcmpNe f)
  | 28 => some (.vcmpLt f)
  | 29 => some (.vcmpLe f)
  | 30 => some (.vcmpLtu f)
  | 31 => some (.vcmpLeu f)
  | _ => none

/-- The slots of opcode 0x2B (05 R114, Table 5.3); slot 31 is none. -/
def slot2B (slot : Nat) (f : VF) : Option Instr :=
  match slot with
  | 0 => some (.vfadd f)
  | 1 => some (.vfsub f)
  | 2 => some (.vfmul f)
  | 3 => some (.vfdiv f)
  | 4 => some (.vfma f)
  | 5 => some (.vfms f)
  | 6 => some (.vfnma f)
  | 7 => some (.vfnms f)
  | 8 => some (.vfmin f)
  | 9 => some (.vfmax f)
  | 10 => some (.vfsgnj f)
  | 11 => some (.vfsqrt f)
  | 12 => some (.vfexp2 f)
  | 13 => some (.vflog2 f)
  | 14 => some (.vcvt f)
  | 15 => some (.vfclass f)
  | 16 => some (.vfcmpEq f)
  | 17 => some (.vfcmpLt f)
  | 18 => some (.vfcmpLe f)
  | 19 => some (.vfcmpUn f)
  | 20 => some (.vscanAdd f)
  | 21 => some (.vscanMax f)
  | 22 => some (.vfscan f)
  | 23 => some (.vlrec f)
  | 24 => some (.vprev f)
  | 25 => some (.vrand f)
  | 26 => some (.vnms f)
  | 27 => some (.vnmst f)
  | 28 => some (.vred f)
  | 29 => some (.vfred f)
  | 30 => some (.vfredo f)
  | _ => none

/-- The VM-format members of opcode 0x5B (Table 5.6). -/
def vmMember (f3 : Nat) (f : VM) : Option Instr :=
  match f3 with
  | 0 => some (.vld f)
  | 1 => some (.vldx f)
  | 2 => some (.vst f)
  | 3 => some (.vstx f)
  | 4 => some (.vamox f)
  | _ => none

/-- The K-format members (Table 5.7). -/
def kMember (op : Nat) (f : KF) : Option Instr :=
  match op with
  | 0 => some (.kand f)
  | 1 => some (.kor f)
  | 2 => some (.kxor f)
  | 3 => some (.kandn f)
  | 4 => some (.knot f)
  | 5 => some (.kshl f)
  | 6 => some (.kshr f)
  | 7 => some (.vadc f)
  | 8 => some (.vsbc f)
  | 9 => some (.vaddk f)
  | _ => none

/-- The R-format members of 0x5B, f3 = 101 (Table 5.9). -/
def r5B5 (f7 : Nat) (f : RF) : Option Instr :=
  match f7 with
  | 0 => some (.vsetl f)
  | 1 => some (.vlq f)
  | 2 => some (.vforce f)
  | 3 => some (.voset f)
  | 4 => some (.voget f)
  | 5 => some (.vspill f)
  | 6 => some (.vfill f)
  | 7 => some (.vsavef f)
  | 8 => some (.vrestf f)
  | 9 => some (.vldsg f)
  | 10 => some (.vstsg f)
  | 11 => some (.vsldup f)
  | 12 => some (.vslddn f)
  | 13 => some (.vperm f)
  | 14 => some (.vcompr f)
  | 15 => some (.vexpnd f)
  | 16 => some (.vrev f)
  | 17 => some (.vclz f)
  | 18 => some (.vpopcnt f)
  | 19 => some (.vid f)
  | 20 => some (.kpopc f)
  | 21 => some (.kfirst f)
  | 22 => some (.klast f)
  | 23 => some (.kmv f)
  | 24 => some (.kset f)
  | 25 => some (.ktov f)
  | _ => none

/-- Tiles and hoop array: 0x7B, f3 = 000 (Table 5.10). -/
def r7B0 (f7 : Nat) (f : RF) : Option Instr :=
  match f7 with
  | 0 => some (.vtroww f)
  | 1 => some (.vtrowr f)
  | 2 => some (.vtcolw f)
  | 3 => some (.vtcolr f)
  | 4 => some (.tzero f)
  | 5 => some (.hload f)
  | 6 => some (.hloads f)
  | 7 => some (.hswap f)
  | 8 => some (.hmul f)
  | 9 => some (.hmulp f)
  | 10 => some (.hmulf f)
  | 11 => some (.hacc f)
  | 12 => some (.hmov f)
  | 13 => some (.hq f)
  | _ => none

/-- Sampling unit: 0x7B, f3 = 001 (Table 5.10). -/
def r7B1 (f7 : Nat) (f : RF) : Option Instr :=
  match f7 with
  | 0 => some (.mnrmz f)
  | 1 => some (.mnorm f)
  | 2 => some (.matab f)
  | 3 => some (.msamp f)
  | 4 => some (.mscale f)
  | _ => none

/-- Copies and tags: 0x7B, f3 = 010 (Table 5.11). -/
def r7B2 (f7 : Nat) (f : RF) : Option Instr :=
  match f7 with
  | 0 => some (.cpy f)
  | 1 => some (.cpyf f)
  | 2 => some (.cpyb f)
  | 3 => some (.cpym f)
  | 4 => some (.twany f)
  | 5 => some (.twall f)
  | 6 => some (.tffr f)
  | 7 => some (.tclr f)
  | _ => none

/-- Fences, watermarks, crews, signals, remote atomics: 0x7B, f3 = 100 (Table 5.11). -/
def r7B4 (f7 : Nat) (f : RF) : Option Instr :=
  match f7 with
  | 0 => some (.fencep f)
  | 1 => some (.wmset f)
  | 2 => some (.wmpub f)
  | 3 => some (.wmlnk f)
  | 4 => some (.wmget f)
  | 5 => some (.barc f)
  | 6 => some (.bara f)
  | 7 => some (.barw f)
  | 8 => some (.sig f)
  | 9 => some (.tend f)
  | 10 => some (.ramo f)
  | 11 => some (.ramoq f)
  | _ => none

/-- Fabric, loops, packets, traps, harness: 0x7B, f3 = 110 (Table 5.11). -/
def r7B6 (f7 : Nat) (f : RF) : Option Instr :=
  match f7 with
  | 0 => some (.fld f)
  | 1 => some (.frun f)
  | 2 => some (.ftok f)
  | 3 => some (.fstat f)
  | 4 => some (.lidx f)
  | 5 => some (.lbrk f)
  | 6 => some (.mpkw f)
  | 7 => some (.mpkr f)
  | 8 => some (.mpkp f)
  | 9 => some (.tret f)
  | 10 => some (.syield f)
  | 11 => some (.harnq f)
  | _ => none

/-- Bobbin words of cls 0 (10 Table 10.4). -/
def bobbin0 (op : Nat) (f : BW) : Option Instr :=
  match op with
  | 0 => some (.bAdd f)
  | 1 => some (.bSub f)
  | 2 => some (.bMul f)
  | 3 => some (.bAnd f)
  | 4 => some (.bOr f)
  | 5 => some (.bXor f)
  | 6 => some (.bSll f)
  | 7 => some (.bSrl f)
  | 8 => some (.bSra f)
  | 9 => some (.bMin f)
  | 10 => some (.bMax f)
  | 11 => some (.bMinu f)
  | 12 => some (.bMaxu f)
  | 13 => some (.bMov f)
  | _ => none

/-- Bobbin words of cls 1 (10 Table 10.4). -/
def bobbin1 (op : Nat) (f : BW) : Option Instr :=
  match op with
  | 0 => some (.bFadd f)
  | 1 => some (.bFsub f)
  | 2 => some (.bFmul f)
  | 3 => some (.bFmin f)
  | 4 => some (.bFmax f)
  | 5 => some (.bFma f)
  | _ => none

/-- Bobbin words of cls 2 (10 Table 10.4). -/
def bobbin2 (op : Nat) (f : BW) : Option Instr :=
  match op with
  | 0 => some (.bCeq f)
  | 1 => some (.bClt f)
  | 2 => some (.bCltu f)
  | 3 => some (.bFeq f)
  | 4 => some (.bFlt f)
  | 5 => some (.bFle f)
  | 8 => some (.bSel f)
  | _ => none

/-- Bobbin words of cls 3 (10 Table 10.4). -/
def bobbin3 (op : Nat) (f : BW) : Option Instr :=
  match op with
  | 0 => some (.bJ f)
  | 1 => some (.bBnz f)
  | 2 => some (.bBz f)
  | _ => none

/-- Bobbin words of cls 12 (10 R240). -/
def bobbinC (op : Nat) (f : BW) : Option Instr :=
  match op with
  | 0 => some (.bRet f)
  | 1 => some (.bHalt f)
  | 2 => some (.bCtx f)
  | 3 => some (.bTfwd f)
  | 4 => some (.bTget f)
  | _ => none

/-! Standard words: RV64I, M, A, F, D, Zicsr, Zifencei, Zba, Zbb (05 R109; the encodings are those of the RISC-V
specifications, which R109 names: log 13). -/

/-- R-type word. -/
def encRv (op : BitVec 7) (f3 : BitVec 3) (f7 : BitVec 7) (rd rs1 rs2 : BitVec 5) : IWord :=
  f7 ++ rs2 ++ rs1 ++ f3 ++ rd ++ op

/-- I-type word. -/
def encRvI (op : BitVec 7) (f3 : BitVec 3) (rd rs1 : BitVec 5) (imm : BitVec 12) : IWord := imm ++ rs1 ++ f3 ++ rd ++ op

/-- S-type word. -/
def encRvS (op : BitVec 7) (f3 : BitVec 3) (rs1 rs2 : BitVec 5) (imm : BitVec 12) : IWord :=
  bitsAt imm 5 7 ++ rs2 ++ rs1 ++ f3 ++ bitsAt imm 0 5 ++ op

/-- B-type word; off is the offset divided by 2: off[11] is bit 12 of the offset, off[0] is bit 1. -/
def encRvB (f3 : BitVec 3) (rs1 rs2 : BitVec 5) (off : BitVec 12) : IWord :=
  bitsAt off 11 1 ++ bitsAt off 4 6 ++ rs2 ++ rs1 ++ f3 ++ bitsAt off 0 4 ++ bitsAt off 10 1 ++ (0x63 : BitVec 7)

/-- U-type word. -/
def encRvU (op : BitVec 7) (rd : BitVec 5) (imm : BitVec 20) : IWord := imm ++ rd ++ op

/-- J-type word; off is the offset divided by 2. -/
def encRvJ (rd : BitVec 5) (off : BitVec 20) : IWord :=
  bitsAt off 19 1 ++ bitsAt off 0 10 ++ bitsAt off 10 1 ++ bitsAt off 11 8 ++ rd ++ (0x6F : BitVec 7)

/-- R4-type word (fused operations). -/
def encRv4 (op : BitVec 7) (dbl : Bool) (rm : BitVec 3) (rd rs1 rs2 rs3 : BitVec 5) : IWord :=
  rs3 ++ (0 : BitVec 1) ++ bit1 dbl ++ rs2 ++ rs1 ++ rm ++ rd ++ op

/-- OP-FP word: funct5, format, rs2, rs1, rm. -/
def encRvF (f5 : BitVec 5) (dbl : Bool) (f3 : BitVec 3) (rd rs1 rs2 : BitVec 5) : IWord :=
  f5 ++ (0 : BitVec 1) ++ bit1 dbl ++ rs2 ++ rs1 ++ f3 ++ rd ++ (0x53 : BitVec 7)

/-- AMO word. -/
def encRvA (f5 : BitVec 5) (dbl aq rl : Bool) (rd rs1 rs2 : BitVec 5) : IWord :=
  f5 ++ bit1 aq ++ bit1 rl ++ rs2 ++ rs1 ++ (1 : BitVec 2) ++ bit1 dbl ++ rd ++ (0x2F : BitVec 7)

/-- f3 of a branch. -/
def BrCond.code : BrCond → BitVec 3
  | .eq => 0 | .ne => 1 | .lt => 4 | .ge => 5 | .ltu => 6 | .geu => 7

/-- The branch of an f3. -/
def brOf (n : Nat) : Option BrCond :=
  match n with
  | 0 => some .eq | 1 => some .ne | 4 => some .lt | 5 => some .ge | 6 => some .ltu | 7 => some .geu | _ => none

/-- f3 of a load. -/
def LdW.code : LdW → BitVec 3
  | .b => 0 | .h => 1 | .w => 2 | .d => 3 | .bu => 4 | .hu => 5 | .wu => 6

/-- The load of an f3. -/
def ldOf (n : Nat) : Option LdW :=
  match n with
  | 0 => some .b | 1 => some .h | 2 => some .w | 3 => some .d | 4 => some .bu | 5 => some .hu | 6 => some .wu
  | _ => none

/-- f3 of a store. -/
def StW.code : StW → BitVec 3
  | .b => 0 | .h => 1 | .w => 2 | .d => 3

/-- The store of an f3. -/
def stOf (n : Nat) : Option StW :=
  match n with
  | 0 => some .b | 1 => some .h | 2 => some .w | 3 => some .d | _ => none

/-- f7 and f3 of a register operation, and whether it stands in OP-32. -/
def RegOp.code : RegOp → Bool × BitVec 7 × BitVec 3
  | .add => (false, 0, 0) | .sub => (false, 0x20, 0) | .sll => (false, 0, 1) | .slt => (false, 0, 2)
  | .sltu => (false, 0, 3) | .xor => (false, 0, 4) | .srl => (false, 0, 5) | .sra => (false, 0x20, 5)
  | .or => (false, 0, 6) | .and => (false, 0, 7)
  | .mul => (false, 1, 0) | .mulh => (false, 1, 1) | .mulhsu => (false, 1, 2) | .mulhu => (false, 1, 3)
  | .div => (false, 1, 4) | .divu => (false, 1, 5) | .rem => (false, 1, 6) | .remu => (false, 1, 7)
  | .andn => (false, 0x20, 7) | .orn => (false, 0x20, 6) | .xnor => (false, 0x20, 4)
  | .min => (false, 5, 4) | .minu => (false, 5, 5) | .max => (false, 5, 6) | .maxu => (false, 5, 7)
  | .rol => (false, 0x30, 1) | .ror => (false, 0x30, 5)
  | .sh1add => (false, 0x10, 2) | .sh2add => (false, 0x10, 4) | .sh3add => (false, 0x10, 6)
  | .addw => (true, 0, 0) | .subw => (true, 0x20, 0) | .sllw => (true, 0, 1) | .srlw => (true, 0, 5)
  | .sraw => (true, 0x20, 5) | .mulw => (true, 1, 0) | .divw => (true, 1, 4) | .divuw => (true, 1, 5)
  | .remw => (true, 1, 6) | .remuw => (true, 1, 7) | .rolw => (true, 0x30, 1) | .rorw => (true, 0x30, 5)
  | .addUw => (true, 4, 0) | .sh1addUw => (true, 0x10, 2) | .sh2addUw => (true, 0x10, 4)
  | .sh3addUw => (true, 0x10, 6)

/-- The register operation of opcode OP. -/
def regOf (f7 f3 : Nat) : Option RegOp :=
  match f7, f3 with
  | 0, 0 => some .add | 0x20, 0 => some .sub | 0, 1 => some .sll | 0, 2 => some .slt | 0, 3 => some .sltu
  | 0, 4 => some .xor | 0, 5 => some .srl | 0x20, 5 => some .sra | 0, 6 => some .or | 0, 7 => some .and
  | 1, 0 => some .mul | 1, 1 => some .mulh | 1, 2 => some .mulhsu | 1, 3 => some .mulhu | 1, 4 => some .div
  | 1, 5 => some .divu | 1, 6 => some .rem | 1, 7 => some .remu
  | 0x20, 7 => some .andn | 0x20, 6 => some .orn | 0x20, 4 => some .xnor
  | 5, 4 => some .min | 5, 5 => some .minu | 5, 6 => some .max | 5, 7 => some .maxu
  | 0x30, 1 => some .rol | 0x30, 5 => some .ror
  | 0x10, 2 => some .sh1add | 0x10, 4 => some .sh2add | 0x10, 6 => some .sh3add
  | _, _ => none

/-- The register operation of opcode OP-32. -/
def regWOf (f7 f3 : Nat) : Option RegOp :=
  match f7, f3 with
  | 0, 0 => some .addw | 0x20, 0 => some .subw | 0, 1 => some .sllw | 0, 5 => some .srlw | 0x20, 5 => some .sraw
  | 1, 0 => some .mulw | 1, 4 => some .divw | 1, 5 => some .divuw | 1, 6 => some .remw | 1, 7 => some .remuw
  | 0x30, 1 => some .rolw | 0x30, 5 => some .rorw | 4, 0 => some .addUw
  | 0x10, 2 => some .sh1addUw | 0x10, 4 => some .sh2addUw | 0x10, 6 => some .sh3addUw
  | _, _ => none

/-- The whole word of a one-operand operation less rd and rs1: opcode, f3 and imm12. -/
def UnOp.code : UnOp → BitVec 7 × BitVec 3 × BitVec 12
  | .clz => (0x13, 1, 0x600) | .ctz => (0x13, 1, 0x601) | .cpop => (0x13, 1, 0x602)
  | .sextB => (0x13, 1, 0x604) | .sextH => (0x13, 1, 0x605)
  | .clzw => (0x1B, 1, 0x600) | .ctzw => (0x1B, 1, 0x601) | .cpopw => (0x1B, 1, 0x602)
  | .orcB => (0x13, 5, 0x287) | .rev8 => (0x13, 5, 0x6B8) | .zextH => (0x3B, 4, 0x080)

/-- f3 and imm[11:6] of a 6-bit immediate shift, and its opcode. -/
def ShOp.code : ShOp → BitVec 7 × BitVec 3 × BitVec 6
  | .slli => (0x13, 1, 0) | .srli => (0x13, 5, 0) | .srai => (0x13, 5, 0x10) | .rori => (0x13, 5, 0x18)
  | .slliUw => (0x1B, 1, 2)

/-- f3 and f7 of a 5-bit immediate shift. -/
def ShWOp.code : ShWOp → BitVec 3 × BitVec 7
  | .slliw => (1, 0) | .srliw => (5, 0) | .sraiw => (5, 0x20) | .roriw => (5, 0x30)

/-- Opcode and f3 of an immediate operation. -/
def ImmOp.code : ImmOp → BitVec 7 × BitVec 3
  | .addi => (0x13, 0) | .slti => (0x13, 2) | .sltiu => (0x13, 3) | .xori => (0x13, 4) | .ori => (0x13, 6)
  | .andi => (0x13, 7) | .addiw => (0x1B, 0)

/-- funct5 of an atomic. -/
def AmoOp.code : AmoOp → BitVec 5
  | .swap => 1 | .add => 0 | .xor => 4 | .and => 12 | .or => 8 | .min => 16 | .max => 20 | .minu => 24 | .maxu => 28

/-- The atomic of a funct5. -/
def amoOf (n : Nat) : Option AmoOp :=
  match n with
  | 1 => some .swap | 0 => some .add | 4 => some .xor | 12 => some .and | 8 => some .or | 16 => some .min
  | 20 => some .max | 24 => some .minu | 28 => some .maxu | _ => none

/-- Opcode of a fused operation. -/
def FmaOp.code : FmaOp → BitVec 7
  | .fmadd => 0x43 | .fmsub => 0x47 | .fnmsub => 0x4B | .fnmadd => 0x4F

/-- funct5 of a two-operand rounded operation. -/
def FArOp.code : FArOp → BitVec 5
  | .fadd => 0 | .fsub => 1 | .fmul => 2 | .fdiv => 3

/-- f3 of a sign injection. -/
def FSgOp.code : FSgOp → BitVec 3
  | .fsgnj => 0 | .fsgnjn => 1 | .fsgnjx => 2

/-- f3 of a compare. -/
def FCmpOp.code : FCmpOp → BitVec 3
  | .fle => 0 | .flt => 1 | .feq => 2

/-- rs2 of an integer conversion. -/
def FIntK.code : FIntK → BitVec 5
  | .w => 0 | .wu => 1 | .l => 2 | .lu => 3

/-- The integer kind of an rs2 field. -/
def fintOf (n : Nat) : Option FIntK :=
  match n with
  | 0 => some .w | 1 => some .wu | 2 => some .l | 3 => some .lu | _ => none

/-- f3 of a CSR instruction. -/
def csrF3 (c : CsrF) : BitVec 3 :=
  bit1 c.uimm ++ (match c.op with | .rw => (1 : BitVec 2) | .rs => 2 | .rc => 3)

/-- The word of a CSR instruction. -/
def encCsr (c : CsrF) : IWord := encRvI 0x73 (csrF3 c) c.rd c.src c.csr

/-- The word of a scalar instruction. -/
def encScalar (i : Scalar) : IWord :=
  match i with
  | .lui rd imm => encRvU 0x37 rd imm
  | .auipc rd imm => encRvU 0x17 rd imm
  | .jal rd off => encRvJ rd off
  | .jalr rd rs1 imm => encRvI 0x67 0 rd rs1 imm
  | .branch c rs1 rs2 off => encRvB c.code rs1 rs2 off
  | .load w rd rs1 imm => encRvI 0x03 w.code rd rs1 imm
  | .store w rs1 rs2 imm => encRvS 0x23 w.code rs1 rs2 imm
  | .opImm o rd rs1 imm => encRvI o.code.1 o.code.2 rd rs1 imm
  | .shImm o rd rs1 sh => encRvI o.code.1 o.code.2.1 rd rs1 (o.code.2.2 ++ sh)
  | .shImmW o rd rs1 sh => encRv 0x1B o.code.1 o.code.2 rd rs1 sh
  | .opReg o rd rs1 rs2 => encRv (if o.code.1 then 0x3B else 0x33) o.code.2.2 o.code.2.1 rd rs1 rs2
  | .unary o rd rs1 => encRvI o.code.1 o.code.2.1 rd rs1 o.code.2.2
  | .lr dbl aq rl rd rs1 => encRvA 2 dbl aq rl rd rs1 0
  | .sc dbl aq rl rd rs1 rs2 => encRvA 3 dbl aq rl rd rs1 rs2
  | .amo o dbl aq rl rd rs1 rs2 => encRvA o.code dbl aq rl rd rs1 rs2
  | .csrRead c => encCsr c
  | .fload dbl rd rs1 imm => encRvI 0x07 (bit1 false ++ (1 : BitVec 1) ++ bit1 dbl) rd rs1 imm
  | .fstore dbl rs1 rs2 imm => encRvS 0x27 (bit1 false ++ (1 : BitVec 1) ++ bit1 dbl) rs1 rs2 imm
  | .fma o dbl rm rd rs1 rs2 rs3 => encRv4 o.code dbl rm rd rs1 rs2 rs3
  | .farith o dbl rm rd rs1 rs2 => encRvF o.code dbl rm rd rs1 rs2
  | .fsqrt dbl rm rd rs1 => encRvF 11 dbl rm rd rs1 0
  | .fsgn o dbl rd rs1 rs2 => encRvF 4 dbl o.code rd rs1 rs2
  | .fminmax isMax dbl rd rs1 rs2 => encRvF 5 dbl ((0 : BitVec 2) ++ bit1 isMax) rd rs1 rs2
  | .fcmp o dbl rd rs1 rs2 => encRvF 20 dbl o.code rd rs1 rs2
  | .fclass dbl rd rs1 => encRvF 28 dbl 1 rd rs1 0
  | .fcvtFF toDbl rm rd rs1 => encRvF 8 toDbl rm rd rs1 (if toDbl then 0 else 1)
  | .fcvtToInt k dbl rm rd rs1 => encRvF 24 dbl rm rd rs1 k.code
  | .fcvtFromInt k dbl rm rd rs1 => encRvF 26 dbl rm rd rs1 k.code
  | .fmvToX dbl rd rs1 => encRvF 28 dbl 0 rd rs1 0
  | .fmvFromX dbl rd rs1 => encRvF 30 dbl 0 rd rs1 0

/-- A scalar instruction or none. -/
def sc? (o : Option Scalar) : Option Instr := o.map .scalarInstruction

/-- The CSR word of a class: each row of the table, or a plain read (02 R41, R45 to R54). -/
def csrInstr (c : CsrF) : Option Instr :=
  match csrClass c.csr with
  | none => none
  | some k =>
    if c.writes then
      match k with
      | .plain => some (.csrWrite c)
      | .vfflags => some (.vfflagsWrite c)
      | .vslip => some (.vslipWrite c)
      | .vmt => some (.vmtWrite c)
      | .tcfg => some (.tcfgWrite c)
      | .sstat => some (.sstatWrite c)
      | .readOnly => none
      | .stats => none
    else if k == .stats then some (.samplingStatsRead c)
    else some (.scalarInstruction (.csrRead c))

/-- The operation of a CSR word's f3[1:0]. -/
def csrOpOf (n : Nat) : Option CsrOp :=
  match n with
  | 1 => some .rw | 2 => some .rs | 3 => some .rc | _ => none

/-- OP-IMM words. -/
def decOpImm (w : IWord) (rd rs1 : BitVec 5) (f3 : Nat) : Option Scalar :=
  let imm := bitsAt w 20 12
  let sh := bitsAt w 20 6
  let top := (bitsAt w 26 6).toNat
  match f3 with
  | 0 => some (.opImm .addi rd rs1 imm)
  | 2 => some (.opImm .slti rd rs1 imm)
  | 3 => some (.opImm .sltiu rd rs1 imm)
  | 4 => some (.opImm .xori rd rs1 imm)
  | 6 => some (.opImm .ori rd rs1 imm)
  | 7 => some (.opImm .andi rd rs1 imm)
  | 1 =>
    if top = 0 then some (.shImm .slli rd rs1 sh)
    else match imm.toNat with
      | 0x600 => some (.unary .clz rd rs1)
      | 0x601 => some (.unary .ctz rd rs1)
      | 0x602 => some (.unary .cpop rd rs1)
      | 0x604 => some (.unary .sextB rd rs1)
      | 0x605 => some (.unary .sextH rd rs1)
      | _ => none
  | 5 =>
    if imm.toNat = 0x287 then some (.unary .orcB rd rs1)
    else if imm.toNat = 0x6B8 then some (.unary .rev8 rd rs1)
    else match top with
      | 0 => some (.shImm .srli rd rs1 sh)
      | 0x10 => some (.shImm .srai rd rs1 sh)
      | 0x18 => some (.shImm .rori rd rs1 sh)
      | _ => none
  | _ => none

/-- OP-IMM-32 words. -/
def decOpImmW (w : IWord) (rd rs1 : BitVec 5) (f3 : Nat) : Option Scalar :=
  let imm := bitsAt w 20 12
  let sh5 := bitsAt w 20 5
  let f7 := (bitsAt w 25 7).toNat
  match f3 with
  | 0 => some (.opImm .addiw rd rs1 imm)
  | 1 =>
    if f7 = 0 then some (.shImmW .slliw rd rs1 sh5)
    else if (bitsAt w 26 6).toNat = 2 then some (.shImm .slliUw rd rs1 (bitsAt w 20 6))
    else match imm.toNat with
      | 0x600 => some (.unary .clzw rd rs1)
      | 0x601 => some (.unary .ctzw rd rs1)
      | 0x602 => some (.unary .cpopw rd rs1)
      | _ => none
  | 5 =>
    match f7 with
    | 0 => some (.shImmW .srliw rd rs1 sh5)
    | 0x20 => some (.shImmW .sraiw rd rs1 sh5)
    | 0x30 => some (.shImmW .roriw rd rs1 sh5)
    | _ => none
  | _ => none

/-- AMO words: f3 2 or 3. -/
def decAmo (w : IWord) (rd rs1 rs2 : BitVec 5) (f3 : Nat) : Option Scalar :=
  let dbl := bitAt w 12
  let aq := bitAt w 26
  let rl := bitAt w 25
  let f5 := (bitsAt w 27 5).toNat
  if f3 = 2 ∨ f3 = 3 then
    if f5 = 2 then (if rs2 = 0 then some (.lr dbl aq rl rd rs1) else none)
    else if f5 = 3 then some (.sc dbl aq rl rd rs1 rs2)
    else (amoOf f5).map (fun o => .amo o dbl aq rl rd rs1 rs2)
  else none

/-- OP-FP words. -/
def decFp (w : IWord) (rd rs1 rs2 : BitVec 5) (f3 : Nat) : Option Scalar :=
  let dbl := bitAt w 25
  let rm := bitsAt w 12 3
  if bitAt w 26 then none
  else match (bitsAt w 27 5).toNat with
    | 0 => some (.farith .fadd dbl rm rd rs1 rs2)
    | 1 => some (.farith .fsub dbl rm rd rs1 rs2)
    | 2 => some (.farith .fmul dbl rm rd rs1 rs2)
    | 3 => some (.farith .fdiv dbl rm rd rs1 rs2)
    | 11 => if rs2 = 0 then some (.fsqrt dbl rm rd rs1) else none
    | 4 =>
      match f3 with
      | 0 => some (.fsgn .fsgnj dbl rd rs1 rs2)
      | 1 => some (.fsgn .fsgnjn dbl rd rs1 rs2)
      | 2 => some (.fsgn .fsgnjx dbl rd rs1 rs2)
      | _ => none
    | 5 =>
      match f3 with
      | 0 => some (.fminmax false dbl rd rs1 rs2)
      | 1 => some (.fminmax true dbl rd rs1 rs2)
      | _ => none
    | 20 =>
      match f3 with
      | 0 => some (.fcmp .fle dbl rd rs1 rs2)
      | 1 => some (.fcmp .flt dbl rd rs1 rs2)
      | 2 => some (.fcmp .feq dbl rd rs1 rs2)
      | _ => none
    | 28 =>
      if rs2 = 0 then
        match f3 with
        | 0 => some (.fmvToX dbl rd rs1)
        | 1 => some (.fclass dbl rd rs1)
        | _ => none
      else none
    | 8 => if rs2 = (if dbl then 0 else 1) then some (.fcvtFF dbl rm rd rs1) else none
    | 24 => (fintOf rs2.toNat).map (fun k => .fcvtToInt k dbl rm rd rs1)
    | 26 => (fintOf rs2.toNat).map (fun k => .fcvtFromInt k dbl rm rd rs1)
    | 30 => if rs2 = 0 ∧ f3 = 0 then some (.fmvFromX dbl rd rs1) else none
    | _ => none

/-- A fused word of the given operation. -/
def decFma (o : FmaOp) (w : IWord) (rd rs1 rs2 : BitVec 5) : Option Scalar :=
  if bitAt w 26 then none else some (.fma o (bitAt w 25) (bitsAt w 12 3) rd rs1 rs2 (bitsAt w 27 5))

/-- Words of the standard major opcodes (05 R109). -/
def decStandard (w : IWord) (op : Nat) : Option Instr :=
  let rd := bitsAt w 7 5
  let rs1 := bitsAt w 15 5
  let rs2 := bitsAt w 20 5
  let f3 := (bitsAt w 12 3).toNat
  let f7 := (bitsAt w 25 7).toNat
  let imm := bitsAt w 20 12
  let immS := bitsAt w 25 7 ++ bitsAt w 7 5
  match op with
  | 0x37 => sc? (some (.lui rd (bitsAt w 12 20)))
  | 0x17 => sc? (some (.auipc rd (bitsAt w 12 20)))
  | 0x6F => sc? (some (.jal rd (bitsAt w 31 1 ++ bitsAt w 12 8 ++ bitsAt w 20 1 ++ bitsAt w 21 10)))
  | 0x67 => if f3 = 0 then sc? (some (.jalr rd rs1 imm)) else none
  | 0x63 => sc? ((brOf f3).map (fun c =>
      .branch c rs1 rs2 (bitsAt w 31 1 ++ bitsAt w 7 1 ++ bitsAt w 25 6 ++ bitsAt w 8 4)))
  | 0x03 => sc? ((ldOf f3).map (fun k => .load k rd rs1 imm))
  | 0x23 => sc? ((stOf f3).map (fun k => .store k rs1 rs2 immS))
  | 0x13 => sc? (decOpImm w rd rs1 f3)
  | 0x1B => sc? (decOpImmW w rd rs1 f3)
  | 0x33 => sc? ((regOf f7 f3).map (fun o => .opReg o rd rs1 rs2))
  | 0x3B =>
    if f7 = 4 ∧ f3 = 4 ∧ rs2 = 0 then sc? (some (.unary .zextH rd rs1))
    else sc? ((regWOf f7 f3).map (fun o => .opReg o rd rs1 rs2))
  | 0x0F =>
    match f3 with
    | 0 => some (.fence (bitsAt w 28 4) (bitsAt w 24 4) (bitsAt w 20 4) rs1 rd)
    | 1 => some (.fenceI imm rs1 rd)
    | _ => none
  | 0x73 =>
    if w = 0x00000073 then some .ecall
    else if w = 0x00100073 then some .ebreak
    else match csrOpOf (bitsAt w 12 2).toNat with
      | some o => csrInstr { op := o, uimm := bitAt w 14, csr := imm, src := rs1, rd := rd }
      | none => none
  | 0x2F => sc? (decAmo w rd rs1 rs2 f3)
  | 0x07 => if f3 = 2 ∨ f3 = 3 then sc? (some (.fload (bitAt w 12) rd rs1 imm)) else none
  | 0x27 => if f3 = 2 ∨ f3 = 3 then sc? (some (.fstore (bitAt w 12) rs1 rs2 immS)) else none
  | 0x43 => sc? (decFma .fmadd w rd rs1 rs2)
  | 0x47 => sc? (decFma .fmsub w rd rs1 rs2)
  | 0x4B => sc? (decFma .fnmsub w rd rs1 rs2)
  | 0x4F => sc? (decFma .fnmadd w rd rs1 rs2)
  | 0x53 => sc? (decFp w rd rs1 rs2 f3)
  | _ => none

/-- Words of the four custom opcodes (05 R112, Table 5.2), before their field checks. -/
def decDevice (w : IWord) (op : Nat) : Option Instr :=
  let f3 := (bitsAt w 12 3).toNat
  let f7 := (bitsAt w 25 7).toNat
  match op with
  | 0x0B => slot0B (getSlot w).toNat (getV w)
  | 0x2B => slot2B (getSlot w).toNat (getV w)
  | 0x5B =>
    match f3 with
    | 5 => r5B5 f7 (getR w)
    | 6 => kMember (bitsAt w 28 4).toNat (getK w)
    | 7 => some (.vsetli (getI w))
    | _ => vmMember f3 (getVM w)
  | 0x7B =>
    match f3 with
    | 0 => r7B0 f7 (getR w)
    | 1 => r7B1 f7 (getR w)
    | 2 => r7B2 f7 (getR w)
    | 3 => some (.waitc (getI w))
    | 4 => r7B4 f7 (getR w)
    | 5 => some (.loop (getI w))
    | 6 => r7B6 f7 (getR w)
    | _ => none
  | _ => none

/-- The instruction unless it has a defect (05 R124). -/
def checked (i : Instr) : Except Reject Instr :=
  match i.defect with
  | none => .ok i
  | some r => .error r

/-- The word's low opcode is one of the four custom ones. -/
def isCustom (op : Nat) : Bool := op == 0x0B || op == 0x2B || op == 0x5B || op == 0x7B

/-- Decoding of a strand's instruction word (05 R108 to R124): an instruction, or why the word is none. -/
def decode (w : IWord) : Except Reject Instr :=
  let op := (bitsAt w 0 7).toNat
  if (bitsAt w 0 2) ≠ 3 then .error .parcel
  else if op = 0x1F ∨ op = 0x3F ∨ op = 0x7F then .error .longPrefix
  else if isCustom op then
    match decDevice w op with
    | some i => checked i
    | none => .error .unassigned
  else
    match decStandard w op with
    | some i => checked i
    | none => .error .standard

/-- Decoding of a bobbin word (10 R237 to R241). -/
def decodeBobbin (w : IWord) : Except Reject Instr :=
  let op := (bitsAt w 24 4).toNat
  let r :=
    match (bitsAt w 28 4).toNat with
    | 0 => bobbin0 op (getB w)
    | 1 => bobbin1 op (getB w)
    | 2 => bobbin2 op (getB w)
    | 3 => bobbin3 op (getB w)
    | 12 => bobbinC op (getB w)
    | _ => none
  match r with
  | some i => checked i
  | none => .error .unassigned

/-- The word of an instruction; none for the events, which have no word. -/
def encode (i : Instr) : Option IWord :=
  match i with
  | .vadd f => some (encV 0xb 0 f)
  | .vsub f => some (encV 0xb 1 f)
  | .vrsub f => some (encV 0xb 2 f)
  | .vmul f => some (encV 0xb 3 f)
  | .vmulh f => some (encV 0xb 4 f)
  | .vmulhu f => some (encV 0xb 5 f)
  | .vdiv f => some (encV 0xb 6 f)
  | .vdivu f => some (encV 0xb 7 f)
  | .vrem f => some (encV 0xb 8 f)
  | .vremu f => some (encV 0xb 9 f)
  | .vmin f => some (encV 0xb 10 f)
  | .vmax f => some (encV 0xb 11 f)
  | .vminu f => some (encV 0xb 12 f)
  | .vmaxu f => some (encV 0xb 13 f)
  | .vadds f => some (encV 0xb 14 f)
  | .vsubs f => some (encV 0xb 15 f)
  | .vaddsu f => some (encV 0xb 16 f)
  | .vsubsu f => some (encV 0xb 17 f)
  | .vand f => some (encV 0xb 18 f)
  | .vor f => some (encV 0xb 19 f)
  | .vxor f => some (encV 0xb 20 f)
  | .vsll f => some (encV 0xb 21 f)
  | .vsrl f => some (encV 0xb 22 f)
  | .vsra f => some (encV 0xb 23 f)
  | .vmerge f => some (encV 0xb 24 f)
  | .vmv f => some (encV 0xb 25 f)
  | .vcmpEq f => some (encV 0xb 26 f)
  | .vcmpNe f => some (encV 0xb 27 f)
  | .vcmpLt f => some (encV 0xb 28 f)
  | .vcmpLe f => some (encV 0xb 29 f)
  | .vcmpLtu f => some (encV 0xb 30 f)
  | .vcmpLeu f => some (encV 0xb 31 f)
  | .vfadd f => some (encV 0x2b 0 f)
  | .vfsub f => some (encV 0x2b 1 f)
  | .vfmul f => some (encV 0x2b 2 f)
  | .vfdiv f => some (encV 0x2b 3 f)
  | .vfma f => some (encV 0x2b 4 f)
  | .vfms f => some (encV 0x2b 5 f)
  | .vfnma f => some (encV 0x2b 6 f)
  | .vfnms f => some (encV 0x2b 7 f)
  | .vfmin f => some (encV 0x2b 8 f)
  | .vfmax f => some (encV 0x2b 9 f)
  | .vfsgnj f => some (encV 0x2b 10 f)
  | .vfsqrt f => some (encV 0x2b 11 f)
  | .vfexp2 f => some (encV 0x2b 12 f)
  | .vflog2 f => some (encV 0x2b 13 f)
  | .vcvt f => some (encV 0x2b 14 f)
  | .vfclass f => some (encV 0x2b 15 f)
  | .vfcmpEq f => some (encV 0x2b 16 f)
  | .vfcmpLt f => some (encV 0x2b 17 f)
  | .vfcmpLe f => some (encV 0x2b 18 f)
  | .vfcmpUn f => some (encV 0x2b 19 f)
  | .vscanAdd f => some (encV 0x2b 20 f)
  | .vscanMax f => some (encV 0x2b 21 f)
  | .vfscan f => some (encV 0x2b 22 f)
  | .vlrec f => some (encV 0x2b 23 f)
  | .vprev f => some (encV 0x2b 24 f)
  | .vrand f => some (encV 0x2b 25 f)
  | .vnms f => some (encV 0x2b 26 f)
  | .vnmst f => some (encV 0x2b 27 f)
  | .vred f => some (encV 0x2b 28 f)
  | .vfred f => some (encV 0x2b 29 f)
  | .vfredo f => some (encV 0x2b 30 f)
  | .vld f => some (encVM 0 f)
  | .vldx f => some (encVM 1 f)
  | .vst f => some (encVM 2 f)
  | .vstx f => some (encVM 3 f)
  | .vamox f => some (encVM 4 f)
  | .kand f => some (encK 0 f)
  | .kor f => some (encK 1 f)
  | .kxor f => some (encK 2 f)
  | .kandn f => some (encK 3 f)
  | .knot f => some (encK 4 f)
  | .kshl f => some (encK 5 f)
  | .kshr f => some (encK 6 f)
  | .vadc f => some (encK 7 f)
  | .vsbc f => some (encK 8 f)
  | .vaddk f => some (encK 9 f)
  | .vsetl f => some (encR 0x5b 5 0 f)
  | .vsetli f => some (encI 0x5b 7 f)
  | .vlq f => some (encR 0x5b 5 1 f)
  | .vforce f => some (encR 0x5b 5 2 f)
  | .voset f => some (encR 0x5b 5 3 f)
  | .voget f => some (encR 0x5b 5 4 f)
  | .vspill f => some (encR 0x5b 5 5 f)
  | .vfill f => some (encR 0x5b 5 6 f)
  | .vsavef f => some (encR 0x5b 5 7 f)
  | .vrestf f => some (encR 0x5b 5 8 f)
  | .vldsg f => some (encR 0x5b 5 9 f)
  | .vstsg f => some (encR 0x5b 5 10 f)
  | .vsldup f => some (encR 0x5b 5 11 f)
  | .vslddn f => some (encR 0x5b 5 12 f)
  | .vperm f => some (encR 0x5b 5 13 f)
  | .vcompr f => some (encR 0x5b 5 14 f)
  | .vexpnd f => some (encR 0x5b 5 15 f)
  | .vrev f => some (encR 0x5b 5 16 f)
  | .vclz f => some (encR 0x5b 5 17 f)
  | .vpopcnt f => some (encR 0x5b 5 18 f)
  | .vid f => some (encR 0x5b 5 19 f)
  | .kpopc f => some (encR 0x5b 5 20 f)
  | .kfirst f => some (encR 0x5b 5 21 f)
  | .klast f => some (encR 0x5b 5 22 f)
  | .kmv f => some (encR 0x5b 5 23 f)
  | .kset f => some (encR 0x5b 5 24 f)
  | .ktov f => some (encR 0x5b 5 25 f)
  | .vtroww f => some (encR 0x7b 0 0 f)
  | .vtrowr f => some (encR 0x7b 0 1 f)
  | .vtcolw f => some (encR 0x7b 0 2 f)
  | .vtcolr f => some (encR 0x7b 0 3 f)
  | .tzero f => some (encR 0x7b 0 4 f)
  | .hload f => some (encR 0x7b 0 5 f)
  | .hloads f => some (encR 0x7b 0 6 f)
  | .hswap f => some (encR 0x7b 0 7 f)
  | .hmul f => some (encR 0x7b 0 8 f)
  | .hmulp f => some (encR 0x7b 0 9 f)
  | .hmulf f => some (encR 0x7b 0 10 f)
  | .hacc f => some (encR 0x7b 0 11 f)
  | .hmov f => some (encR 0x7b 0 12 f)
  | .hq f => some (encR 0x7b 0 13 f)
  | .mnrmz f => some (encR 0x7b 1 0 f)
  | .mnorm f => some (encR 0x7b 1 1 f)
  | .matab f => some (encR 0x7b 1 2 f)
  | .msamp f => some (encR 0x7b 1 3 f)
  | .mscale f => some (encR 0x7b 1 4 f)
  | .cpy f => some (encR 0x7b 2 0 f)
  | .cpyf f => some (encR 0x7b 2 1 f)
  | .cpyb f => some (encR 0x7b 2 2 f)
  | .cpym f => some (encR 0x7b 2 3 f)
  | .twany f => some (encR 0x7b 2 4 f)
  | .twall f => some (encR 0x7b 2 5 f)
  | .tffr f => some (encR 0x7b 2 6 f)
  | .tclr f => some (encR 0x7b 2 7 f)
  | .waitc f => some (encI 0x7b 3 f)
  | .fencep f => some (encR 0x7b 4 0 f)
  | .wmset f => some (encR 0x7b 4 1 f)
  | .wmpub f => some (encR 0x7b 4 2 f)
  | .wmlnk f => some (encR 0x7b 4 3 f)
  | .wmget f => some (encR 0x7b 4 4 f)
  | .barc f => some (encR 0x7b 4 5 f)
  | .bara f => some (encR 0x7b 4 6 f)
  | .barw f => some (encR 0x7b 4 7 f)
  | .sig f => some (encR 0x7b 4 8 f)
  | .tend f => some (encR 0x7b 4 9 f)
  | .ramo f => some (encR 0x7b 4 10 f)
  | .ramoq f => some (encR 0x7b 4 11 f)
  | .loop f => some (encI 0x7b 5 f)
  | .fld f => some (encR 0x7b 6 0 f)
  | .frun f => some (encR 0x7b 6 1 f)
  | .ftok f => some (encR 0x7b 6 2 f)
  | .fstat f => some (encR 0x7b 6 3 f)
  | .lidx f => some (encR 0x7b 6 4 f)
  | .lbrk f => some (encR 0x7b 6 5 f)
  | .mpkw f => some (encR 0x7b 6 6 f)
  | .mpkr f => some (encR 0x7b 6 7 f)
  | .mpkp f => some (encR 0x7b 6 8 f)
  | .tret f => some (encR 0x7b 6 9 f)
  | .syield f => some (encR 0x7b 6 10 f)
  | .harnq f => some (encR 0x7b 6 11 f)
  | .bAdd f => some (encB 0 0 f)
  | .bSub f => some (encB 0 1 f)
  | .bMul f => some (encB 0 2 f)
  | .bAnd f => some (encB 0 3 f)
  | .bOr f => some (encB 0 4 f)
  | .bXor f => some (encB 0 5 f)
  | .bSll f => some (encB 0 6 f)
  | .bSrl f => some (encB 0 7 f)
  | .bSra f => some (encB 0 8 f)
  | .bMin f => some (encB 0 9 f)
  | .bMax f => some (encB 0 10 f)
  | .bMinu f => some (encB 0 11 f)
  | .bMaxu f => some (encB 0 12 f)
  | .bMov f => some (encB 0 13 f)
  | .bFadd f => some (encB 1 0 f)
  | .bFsub f => some (encB 1 1 f)
  | .bFmul f => some (encB 1 2 f)
  | .bFmin f => some (encB 1 3 f)
  | .bFmax f => some (encB 1 4 f)
  | .bFma f => some (encB 1 5 f)
  | .bCeq f => some (encB 2 0 f)
  | .bClt f => some (encB 2 1 f)
  | .bCltu f => some (encB 2 2 f)
  | .bFeq f => some (encB 2 3 f)
  | .bFlt f => some (encB 2 4 f)
  | .bFle f => some (encB 2 5 f)
  | .bSel f => some (encB 2 8 f)
  | .bJ f => some (encB 3 0 f)
  | .bBnz f => some (encB 3 1 f)
  | .bBz f => some (encB 3 2 f)
  | .bRet f => some (encB 12 0 f)
  | .bHalt f => some (encB 12 1 f)
  | .bCtx f => some (encB 12 2 f)
  | .bTfwd f => some (encB 12 3 f)
  | .bTget f => some (encB 12 4 f)
  | .ecall => some 0x00000073
  | .ebreak => some 0x00100073
  | .fence fm pred succ rs1 rd => some (fm ++ pred ++ succ ++ rs1 ++ (0 : BitVec 3) ++ rd ++ (0x0F : BitVec 7))
  | .fenceI imm rs1 rd => some (encRvI 0x0F 1 rd rs1 imm)
  | .scalarInstruction i => some (encScalar i)
  | .csrWrite c | .vfflagsWrite c | .vslipWrite c | .vmtWrite c | .tcfgWrite c | .sstatWrite c
  | .samplingStatsRead c => some (encCsr c)
  | .fabricRunEnd ..  | .fabricRunTimeout ..  | .dueForce ..  | .linkedStreamRelease ..
  | .linkedStreamTimeout ..  | .passEnd ..  | .passFault ..  | .impreciseTrapEntry ..  | .preEmptTrap ..
  | .copyComplete ..  | .copyFaultStop ..  | .followOnRun ..  | .cpymReplicaStop ..  | .hoopOpComplete ..
  | .engineFault ..  | .msampEnd ..  | .barrierPhasePass ..  | .barrierTimeout ..  | .packetAtBaseDie ..
  | .packetReplyArrival ..  | .ramoAtTarget ..  | .ramoResponse ..  | .launchLine0Write ..
  | .launchLine1Write ..  | .portWriteDiscard ..  | .taskPlacement ..  | .priorityAging ..
  | .preEmptionDecision ..  | .slotHold ..  | .slotArm ..  | .slotDisarm ..  | .slotFree ..
  | .bindRecordWrite ..  | .crewArmed ..  | .strandStart ..  | .lockedClockEntry ..  | .pageFaultDeadline ..
  | .preEmptionDeadline ..  | .killTaskComplete ..  | .completionRecordWrite ..  | .headerReread ..
  | .createContext ..  | .destroyContext ..  | .setQueue ..  | .killTask ..  | .shootdown ..
  | .shootdownComplete ..  | .granuleRegions ..  | .update ..  | .measurements ..  | .updateDrainTimeout ..
  | .updateSelfTestTimeout ..  | .faultRecordToHost ..  | .faultBufferStatusWrite ..  | .linkFlitResend ..
  | .linkDown ..  | .routeChange ..  | .responseTimeout ..  | .hostCxlMemAccess ..  | .peerRequest ..
  | .spdmRequest ..  | .hostLinkTraining ..  | .reset ..  | .coordinatorTakeover ..  | .calibration ..
  | .patrolScrub ..  | .undervoltStep ..  | .undervoltRecountEnd ..  | .domainSelfTest ..
  | .illegalInstruction ..  | .ramoqAnswer ..  | .updateComplete .. => none

/-- Whether an instruction is a bobbin word (10 R237). -/
def Instr.isBobbin (i : Instr) : Bool :=
  match encode i with
  | some w => (match decodeBobbin w with | .ok j => j == i | .error _ => false)
  | none => false

/-- The instruction of a table row's word (spec/opcode_table.json): one word of 32 bits, read as a strand's word, or
as a bobbin word where it is no strand word. -/
def decodeTableWord (nbits w : Nat) : Option Instr :=
  if nbits = 32 then
    match decode (BitVec.ofNat 32 w) with
    | .ok i => some i
    | .error _ =>
      match decodeBobbin (BitVec.ofNat 32 w) with
      | .ok i => some i
      | .error _ => none
  else none

end Sys2Proof
end

