-- ==== Sys2Proof/Config.lean ====
section
/-! DEFINITION. Config.lean: constants every DSL-T8 shares, and the free values: what the spec leaves open. A free
value has no body, so nothing can be proved of it; the machine applies it to State.tick, which every step advances
(log 7). -/

namespace Sys2Proof.Config

/-! Free values (log 7). -/

/-- Which of the events that may happen next does happen, and when (04 R107, 13 R320 and others leave the order open;
log 8). -/
opaque schedule : Nat → Nat

/-- Clock periods that pass in step n: of the package time base at 2n, of the strand's arithmetic clock at 2n + 1; the time
and cycle counters are sums of these (02 R49, 05 R110; log 7). -/
opaque gap : Nat → Nat

/-- How many of the writes a cache has not been made to observe it still hides (12 R304, 05 R111; log 10): step, line. -/
opaque staleDepth : Nat → Nat → Nat

/-- Which ASID's global entry, if any, serves an access (12 R304): step. -/
opaque globalPick : Nat → Nat

/-- Whether an element at or above the checkpoint was performed when its pass stopped (23 R399, R400, R406): step,
sink slot, element. -/
opaque doneMark : Nat → Nat → Nat → Bool

/-- Whether a byte was written by a copy that stopped (25 R439): step, byte index. -/
opaque copyMark : Nat → Nat → Bool

/-- Whether the strand's copies go on reading a line of a tile as it stood before a write that a hoop instruction or a tile move makes
(08 R202): step, line. -/
opaque lineLate : Nat → Nat → Bool

/-- Whether a lost or killed access was performed (25 R438, R445; 23 R411). -/
opaque lostDone : Nat → Bool

/-- How many element groups a pass in flight had performed when a kill stopped it (23 R411): step. -/
opaque killPoint : Nat → Nat

/-- Address and origin of the record of a task killed from outside, which no trap wrote (23 R411): step, 0 or 1. -/
opaque killWord : Nat → Nat → Word

/-- Whether a ready task has completed another full 10 ms unbound (14 R352): step, context handle, queue. -/
opaque aged : Nat → Nat → Nat → Bool

/-- Whether an SC whose line another path of the strand has written succeeds all the same (13 R330). -/
opaque scMay : Nat → Bool

/-- Which part of a page-straddling access was performed when the other part faulted (12 R303). -/
opaque splitDone : Nat → Bool

/-- Elements at or above VL after VFILL (04 R105): step, element register contents. -/
opaque fillTail : Nat → VReg

/-- Byte of a saved frame other than word 0 (07 R177): frame serial number, offset. -/
opaque frameByte : Nat → Nat → Byte

/-- Contents that a frame no VSAVEF wrote restores, where its check does not fail (07 R179). -/
opaque frameForeign : Nat → Nat → VReg

/-- Byte of a latch buffer's opaque image (12 R296): image serial number, offset. -/
opaque latchByte : Nat → Nat → Byte

/-- Weight, or none, of a latch buffer that a copy left unpredictable (12 R296): number of the write, latch index, column. -/
opaque latchForeign : Nat → Nat → Nat → Option (BitVec 64)

/-- A result of exp2, log2 or NORM whose rounding the evaluation below did not settle (log 20): operation, input. -/
opaque unsettled : Nat → Word → Nat → Word

/-- Status of a mailbox command that does not succeed, of which the spec only says that it is not 0 (14 R357): step. -/
opaque mailboxError : Nat → Nat

/-- Whether records that name one free half are armed in the same cycle (01 R21): step. -/
opaque sameCycle : Nat → Bool

/-- Where an error that the patrol finds lies: sub-channel of the granule and pin (24 R428): step. -/
opaque errorPin : Nat → Nat

/-- Which destination byte's write was lost, among those of a copy (25 R438, R439): step. -/
opaque lostPick : Nat → Nat

/-- Whether a run of errors beyond what a granule's code corrects is detected (12 R309): step. -/
opaque detected : Nat → Bool

/-- SHA-256 of a unit's firmware image (14 R360): unit, image number. -/
opaque imageDigest : Nat → Nat → BitVec 256

/-- A measurement register extended by a measurement (14 R360). -/
opaque extended : BitVec 256 → BitVec 256 → BitVec 256

/-- The signature of measurements by the module's device identity key (14 R360). -/
opaque signature : List (BitVec 256) → Nat

/-! Constants. -/

/-- Front ends of the package (01 R10). -/
abbrev frontEnds : Nat := 512

/-- Bytes of one scratchpad (12 R294). -/
abbrev scratchBytes : Nat := 393216

/-- Levels of the hardware loop stack (02 R36). -/
abbrev loopLevels : Nat := 6

/-- Nodes, load streams and sinks of the pricking (04 R82). -/
abbrev maxNodes : Nat := 64

/-- Load streams of the pricking (04 R82). -/
abbrev maxLoads : Nat := 16

/-- Sinks of the pricking (04 R82). -/
abbrev maxSinks : Nat := 8

/-- Entries of a record queue (14 R344). -/
abbrev recordQueue : Nat := 64

/-- Entries of a stack's fault buffer (25 R444). -/
abbrev faultBuffer : Nat := 1024

end Sys2Proof.Config
end

