-- ==== Sys2Proof/Machine/State.lean ====
section
/-! DEFINITION. Machine/State.lean: everything the spec gives the machine, as plain data, and the state right after
reset. Names are the spec's. Values at reset are those of the tables cited; where a table gives none the log entry
named in INVENTORY.md says which value stands. -/

namespace Sys2Proof.Machine

/-- A byte memory: (key, byte) pairs, keys strictly rising, no byte equal to what an unlisted key reads as, which is 0
(log 3). -/
abbrev Memory := List Host.Cell

/-! ## The strand -/

/-- One level of the hardware loop stack (02 R36, 11 R277): count, index, body start, body end E. -/
structure LoopLvl where
  count : Nat
  index : Nat
  start : Word
  stop  : Word
  deriving DecidableEq, Repr

/-- A trap to be taken: cause code, and what trap entry writes (11 R285, 23 R394). -/
structure TrapInfo where
  code  : BitVec 8
  stval : Word
  selem : Word
  sorig : Word
  deriving DecidableEq, Repr

/-- What a node does (04 Table 4.1). -/
inductive NOp where
  | add | sub | rsub | mul | mulh | mulhu | div | divu | rem | remu | min | max | minu | maxu
  | adds | subs | addsu | subsu | and | or | xor | sll | srl | sra | merge | mv
  | cmpEq | cmpNe | cmpLt | cmpLe | cmpLtu | cmpLeu
  | fadd | fsub | fmul | fdiv | fma | fms | fnma | fnms | fmin | fmax | fsgnj | fsqrt | fexp2 | flog2
  | cvt | fclass | fcmpEq | fcmpLt | fcmpLe | fcmpUn
  | scanAdd | scanMax | fscan | lrec | prev | rand | nms | nmst | red | fred | fredo
  | load | loadx | store | storex | amo
  | kand | kor | kxor | kandn | knot | kshl | kshr | kset | adc | sbc | addk | clz | popcnt | vid | ktov
  deriving DecidableEq, Repr

/-- An operand of a node as captured at noting (04 R79). part 1 is a node's second result: the v[d+1] of VNMS and
VNMST, or the carry mask of VADC, VSBC and VADDK. -/
inductive Src where
  /-- Every element zero, or every bit clear. -/
  | zero
  /-- The captured value of an x or o register, or an immediate. -/
  | scalar (w : Word)
  | node (slot part : Nat)
  | vreg (n : Nat)
  | kreg (n : Nat)
  /-- An o register as the passes ahead of the node's in the command queue will leave it: captured once they have ended. -/
  | oreg (n : Nat)
  deriving DecidableEq, Repr

/-- A node of the pricking (04 R79). -/
structure Node where
  slot   : Nat
  op     : NOp
  a      : Src
  b      : Src
  c      : Src
  /-- The prior binding of the destination, and of the second destination. -/
  under  : Src
  under2 : Src
  /-- k0's binding when m = 1. -/
  mask   : Option Src
  vl     : Nat
  vtype  : Word
  vmt    : Word
  pc     : Word
  /-- Selector, VAMOX operation, or the o register a reduction targets. -/
  sel    : Nat
  dst    : Nat
  /-- Seed o0 of scans; vkey and vctr of VRAND in seed and seed2; element count of KSHL and KSHR. -/
  seed   : Word
  seed2  : Word
  /-- The o register that the seed is captured from once the passes ahead in the command queue have ended. -/
  seedO  : Option Nat
  /-- Memory streams: base, byte stride, memory format, scaled indices. -/
  base   : Word
  stride : Word
  mf     : Nat
  scaled : Bool
  /-- Watermark attachment (11 R267): object and base position. -/
  wm     : Option (Nat × Nat)
  /-- Whether ctrs counts the node's stream (02 R48, 04 R88). -/
  counted : Bool
  deriving DecidableEq, Repr

/-- The pricking, the bindings and the pending watermark attachments (04 R82; 11 R267). -/
structure Pricking where
  /-- In noting order. -/
  nodes : List Node
  /-- Pending bindings of v0 to v31 and k0 to k7: node slot and part; none is resident. -/
  vb    : Vector (Option (Nat × Nat)) 32
  kb    : Vector (Option (Nat × Nat)) 8
  /-- The node last refers to; none is void. -/
  last  : Option Nat
  due   : Bool
  /-- Instructions issued from the sink that made the pricking due on, that sink included. -/
  count : Nat
  pub   : Option (Nat × Nat)
  lnk   : Option (Nat × Nat)
  deriving DecidableEq, Repr

/-- Values of one load node that a stopped pass has read and will not read again (23 R399, R400): those of the elements
below the checkpoint, and those of elements whose every sink is performed. -/
structure Kept where
  slot  : Nat
  below : List Nat
  above : List (Nat × Nat)
  deriving DecidableEq, Repr

/-- A hardware error that a pass meets: node, element and kind (24 R423, R425; 25 R438). -/
structure PassErr where
  slot : Nat
  elem : Nat
  kind : Nat
  deriving DecidableEq, Repr

/-- A byte that the scalar path has overwritten, as a pass forced before sees it: its key, the serial number that the store came before in
the order of the strand's engines, and the byte (04 R94; 11 R265). -/
structure Shade where
  key  : Nat
  at_  : Nat
  byte : Byte
  deriving DecidableEq, Repr

/-- A pass in flight (04 R87, R88; 23 R399). -/
structure Pass where
  /-- The pricking and the resident registers at the force point (04 R79; 23 R407). -/
  pk    : Pricking
  v     : Vector VReg 32
  k     : Vector KReg 8
  /-- Started in stream mode (04 R90). -/
  stream : Bool
  /-- The k name whose recipe a mask-to-scalar instruction reads (06 R152). -/
  want  : Option Nat
  slip  : Nat
  /-- First element of the checkpoint's group. -/
  chk   : Nat
  kept  : List Kept
  /-- Done-window: (sink slot, element) of the words performed at or above the checkpoint, with the leaf of a reduction that is present. -/
  done  : List (Nat × Nat × Option Nat)
  /-- Bytes that stores of the done-window have written: sink slot, first element, keys (04 R97; 07 R162, R165). -/
  wrote : List (Nat × Nat × List Nat)
  /-- Flags of what has been performed so far. -/
  fl    : BitVec 5
  /-- What the scalar path overwrote after the force point, as the pass sees it (04 R94). -/
  shadow : List Shade
  /-- Hardware errors yet to be met; and results that a soft error has changed unnoticed: node, element, bits (24 R432). -/
  errs  : List PassErr
  flips : List (Nat × Nat × Nat)
  held  : Bool
  /-- Mode at the force point: true supervisor. -/
  sup   : Bool
  /-- Place in the order in which the strand's engines were given work (11 R265). -/
  serial : Nat
  deriving DecidableEq, Repr

/-- The permutations between registers (07 R180). -/
inductive PermOp where
  | sldup | slddn | perm | compr | expnd | rev
  deriving DecidableEq, Repr

/-- A permutation with what it takes at issue: its registers, x[rs2], the width and VL, and its address. -/
structure Perm where
  op  : PermOp
  rd  : BitVec 5
  rs1 : BitVec 5
  rs2 : BitVec 5
  n   : Nat
  w   : Nat
  vl  : Nat
  pc  : Word
  deriving DecidableEq, Repr

/-- What the vector command queue does to registers when it comes to an entry. -/
inductive Act where
  /-- Names whose recipes a set-length releases hold zero (06 R154). -/
  | zero (vs ks : List Nat)
  /-- A permutation behind the passes in front of it (04 R87). -/
  | permute (p : Perm)
  /-- VOSET behind a reduction that targets its register (04 Table 4.2). -/
  | setO (o : Fin 8) (w : Word)
  deriving DecidableEq, Repr

/-- A pricking that instructions in the vector command queue fill while a pass is in flight (02 R35, 04 R87): a force point
among them closes it, with its serial number and mode. -/
structure Ahead where
  /-- What executed instructions that wait in front of it do, in order, once the passes before them have ended. -/
  acts  : List Act
  pk    : Pricking
  /-- Instructions that wait in the queue for it. -/
  count : Nat
  force : Option (Nat × Bool)
  /-- Whether it is closed in stream mode, and what the scalar path has overwritten since it was closed (04 R90, R94). -/
  stream : Bool
  shadow : List Shade
  deriving DecidableEq, Repr

/-- A 64-bit word of a half's register slices that fails its parity (24 R416): half of the harness, lane (16 is the XOR
lane), register, word position; and whether it fails again after it is rebuilt (24 R414). -/
structure BadWord where
  half : Nat
  lane : Nat
  reg  : Nat
  pos  : Nat
  lasting : Bool
  deriving DecidableEq, Repr

/-- Vector state (02 Table 2.3, covered by vs) but for the fabric. -/
structure Vec where
  v  : Vector VReg 32
  k  : Vector KReg 8
  o  : Vector Word 8
  pk : Pricking
  pass : Option Pass
  /-- Prickings behind the pass in flight, oldest first; all but the last are closed. -/
  ahead : List Ahead
  /-- A recipe mask a pass has computed for the instruction that waits for it: k name, bits below VL (06 R152). -/
  answer : Option (Nat × Nat)
  /-- x registers of VLQs and set-lengths that wait for the passes before them, with their program positions; 32 stands for vl, vtype and
  vstart (06 R153, R155). -/
  asked : List (Nat × Nat)
  /-- A squash has restored the pricking: neither trap entry nor VSAVEF runs it again (23 R407). -/
  squashed : Bool
  /-- Whether the first set-length of 02 R39 has been executed. -/
  first : Bool
  vl    : Nat
  vtype : Word
  vstart : Word
  /-- Register words that fail parity (24 R416, R417). -/
  bad : List BadWord
  deriving DecidableEq, Repr

/-- An entry of a fabric queue: data, or a token of kind and payload (10 R231, R234). -/
inductive QEntry where
  | data (w : Word)
  | tok (kind payload : Nat)
  deriving DecidableEq, Repr

/-- A bobbin (10 R229, R231): registers with the cycle each can next be read, input queues, and the two neighbour
queues that arrive here, each entry with the cycle it can be taken. -/
structure Bobbin where
  b     : Vector Word 8
  ready : Vector Nat 8
  tok   : BitVec 16
  pc    : Nat
  ret   : Nat
  ctx   : Nat
  halted : Bool
  /-- Words retired. -/
  count : Nat
  qi    : Vector (List QEntry) 4
  /-- Entries taken from the previous bobbin (qr) and from the next bobbin (ql). -/
  qr    : List (QEntry × Nat)
  ql    : List (QEntry × Nat)
  /-- Values pushed into qo0 and qo1 so far. -/
  out0  : Nat
  out1  : Nat
  deriving DecidableEq, Repr

/-- A fabric run in flight (10 R242, R243, R247). -/
structure Run where
  bobbins : List Bobbin
  /-- The bobbin whose turn it is in the current cycle, and the state at the cycle's start. -/
  turn  : Nat
  start : List Bobbin
  cycle : Nat
  /-- The cycle after the one in which a word last retired. -/
  moved : Nat
  lastHalt : Nat
  /-- Bound output names, and their registers being written. -/
  qo0   : Option Nat
  qo1   : Option Nat
  w0    : VReg
  w1    : VReg
  vl    : Nat
  vtype : Word
  flags : BitVec 5
  drop  : Bool
  /-- Output elements that a soft error changes unnoticed: second queue, element, bits (24 R432). -/
  flips : List (Bool × Nat × Nat)
  pc    : Word
  serial : Nat
  deriving DecidableEq, Repr

/-- The fabric's state (10 R230, R246, R248). -/
structure Fabric where
  ctx0 : Vector IWord 32
  ctx1 : Vector IWord 32
  /-- Pending tokens: element position, kind, payload. -/
  pending : List (Nat × Nat × Nat)
  run  : Option Run
  cyc  : Nat
  fault : Bool
  left : Bool
  drop : Bool
  deriving DecidableEq, Repr

/-- A weight-latch buffer (08 R187): format, 0 when empty; kind; T; output columns n; and its weights. -/
structure Latch where
  fmt  : Nat
  kind : Nat
  t    : Bool
  n    : Nat
  /-- The present weights: latch index k, column j, and the value, an integer under i8, else an fp64 pattern. -/
  w    : List (Nat × Nat × Word)
  /-- Where a copy left the weights unpredictable, the number of that write, and the ranges of latch indices loaded since (12 R296). -/
  foreign : Option Nat
  loaded  : List (Nat × Nat)
  deriving DecidableEq, Repr

/-- A tile, hoop or sampling instruction issued and not yet performed (08 R204, 09 R224), with what it captured. -/
structure MatOp where
  i     : Instr
  x1    : Word
  x2    : Word
  tcfg  : Vector Word 8
  vtype : Word
  smode : Word
  smin  : Word
  stau  : Word
  skey  : Word
  sbase : Word
  pc    : Word
  /-- Serial number of the CPYF whose copy a follow-on waits for. -/
  after : Option Nat
  /-- Mode at issue: true supervisor. -/
  sup   : Bool
  /-- MSAMP's descriptor, read at issue (09 R216). -/
  desc  : List Byte
  /-- Lines of memory read before the instruction is performed: the reading (MSAMP's sample, else 0), the line's key divided by 64, and
  its bytes (08 R203, 09 R225). -/
  seen  : List (Nat × Nat × List Byte)
  /-- Result words that a soft error has changed unnoticed: offset in the tile space, bits (24 R432). -/
  flips : List (Nat × Nat)
  serial : Nat
  deriving DecidableEq, Repr

/-- Latch buffers as they stood before a copy that has changed them, for the instructions that use what stood at their issue (08 R190):
their serial numbers and the buffers. -/
structure HeldLatch where
  ops    : List Nat
  latch0 : Latch
  latch1 : Latch
  active : Bool
  deriving DecidableEq, Repr

/-- Tile, hoop and sampling state (02 Table 2.3, covered by ts). -/
structure Mat where
  /-- Tiles, sampling state and accumulators by tile-space offset (12 Table 12.3, 09 Table 9.2). -/
  bytes : Memory
  /-- Poisoned words of the tile space: offset, length. -/
  poison : List (Nat × Nat)
  latch0 : Latch
  latch1 : Latch
  active : Bool
  tcfg  : Vector Word 8
  scount : Word
  smean : Word
  svar  : Word
  queue : List MatOp
  held  : List HeldLatch
  deriving DecidableEq, Repr

/-- A copy command's fields (11 Table 11.1). -/
structure CopyCmd where
  sa   : Word
  da   : Word
  dsp  : Bool
  ssp  : Bool
  tag  : Nat
  rows : Nat
  rowb : Nat
  dstr : BitVec 32
  sstr : BitVec 32
  rsvd : Bool
  deriving DecidableEq, Repr

/-- A copy in flight (11 R256 to R260). -/
structure Copy where
  serial : Nat
  cmd   : CopyCmd
  /-- CPYM: the stacks of its replicas still running; none for path C. -/
  reps  : Option (List Nat)
  pc    : Word
  /-- A replica has stopped on an error. -/
  err   : Bool
  /-- Mode at issue: true supervisor. -/
  sup   : Bool
  /-- Bytes performed before the copy ends (13 R328, R333): replica (0 for path C), index in loop order, value. -/
  done  : List (Nat × Nat × Byte)
  /-- Hardware errors yet to be met (24 R425, 25 R438): replica, index, unit, kind. -/
  errs  : List (Nat × Nat × Nat × Nat)
  /-- Path classes of the strand that will not observe the copy at its end (11 R262). -/
  late  : List Nat
  deriving DecidableEq, Repr

/-- Bytes that a path of the strand does not observe yet, as they stood before a copy that has completed, or before a tile write as
the copies see it: the path's class, the class and serial number of the work, and the bytes, those of the tile space by `tileKey` (08
R202; 11 R262); and the classes whose later accesses come after the work, by its own fences and those that follow on them (13 R332). -/
structure Unseen where
  cls   : Nat
  by_   : Nat
  serial : Nat
  cells : List Host.Cell
  reach : List Nat
  deriving DecidableEq, Repr

/-- A memory packet sent and not performed (11 R282). -/
structure Packet where
  tag  : Nat
  addr : Word
  isRead : Bool
  data : BitVec 512
  mask : BitVec 64
  serial : Nat
  deriving DecidableEq, Repr

/-- A packet reply (11 Table 11.7). -/
structure Reply where
  tag  : Nat
  addr : Word
  isRead : Bool
  cls  : Nat
  cause : BitVec 8
  data : BitVec 512
  deriving DecidableEq, Repr

/-- A remote atomic in flight (11 R274), with its result once performed at its target. -/
structure Ramo where
  rd   : Nat
  addr : Word
  operand : Word
  ident : Nat
  op   : Nat
  is32 : Bool
  pc   : Word
  res  : Option Word
  serial : Nat
  /-- Mode at issue: true supervisor. -/
  sup  : Bool
  /-- The step in which it was sent (11 R275). -/
  sent : Nat
  deriving DecidableEq, Repr

/-- A barrier arrival not yet waited on (11 R271): its phase, whether BARC made it, and the pc of the BARW or BARC that
waits. -/
structure Arrival where
  phase : Nat
  barc : Bool
  waitPc : Option Word
  deriving DecidableEq, Repr

/-- A FENCEP whose later path is not S (11 R265): path a's work given before serial is performed before path b's work
given from serial on. -/
structure Fence where
  a : Nat
  b : Nat
  serial : Nat
  deriving DecidableEq, Repr

/-- A hardware error that the next access of a path meets: source nibble, kind and element (24 R417, R423; 25 R438). -/
structure Trip where
  src : Nat
  kind : Nat
  elem : Nat
  /-- A mismatch that comes again when the work is done once more (24 R423). -/
  again : Bool
  deriving DecidableEq, Repr

/-- The engines of the front end other than the vector and matrix units (11). -/
structure Eng where
  copies : List Copy
  tagset : Word
  tagerr : Word
  serial : Nat
  /-- Packets sent; performed with replies under way; replies arrived and not popped. -/
  pkts   : List Packet
  flight : List Reply
  replies : List Reply
  ramos  : List Ramo
  /-- RAMOQ awaiting its answer: rd and identifier. -/
  query  : Option (Nat × Nat)
  /-- x registers an MSAMP or RAMO has yet to write (09 R222, 11 R274). -/
  pendX  : List Nat
  arrival : Option Arrival
  /-- The pc of a BARC that waits for the strand's earlier accesses before its arrival (02 R55). -/
  barcAt : Option Word
  /-- The pc of a straddling store that waits with one part performed, and whether that is the first (13 R325). -/
  half   : Option (Word × Bool)
  fences : List Fence
  trips : List Trip
  unseen : List Unseen
  deriving DecidableEq, Repr

/-- Custom CSRs without a structure of their own (02 Table 2.4). -/
structure Csrs where
  vmt : Word
  vslip : Word
  vfflags : BitVec 5
  vkey : Word
  vctr : Word
  skey : Word
  sbase : Word
  smin : Word
  stau : Word
  smode : Word
  scause : Word
  sepc : Word
  stval : Word
  selem : Word
  sorig : Word
  stvec : Word
  sscratch : Word
  sresume : Word
  deriving DecidableEq, Repr

/-- sstat (02 Table 2.11): pre-emption pending, pmode, mode (true supervisor), ts and vs; prot and lc stand in the
bind record. -/
structure SStat where
  pp : Bool
  pmode : Bool
  mode : Bool
  ts : BitVec 2
  vs : BitVec 2
  deriving DecidableEq, Repr

/-- A bind record (14 Table 14.4). -/
structure BindRec where
  ctx : Nat
  g : Nat
  pri : Nat
  lent : Bool
  res : Bool
  prot : Bool
  scrub : Bool
  lc : Bool
  pre : Bool
  root : Nat
  asid : Nat
  cnum : Nat
  csize : Nat
  sidx : Nat
  task : BitVec 32
  vec : Word
  halves : Vector (BitVec 16) 8
  tvec : Word
  scr : Word
  deriving DecidableEq, Repr

/-- Whether a strand runs: unbound; bound; stopped by a kill at its boundary (23 R411). -/
inductive RunState where
  | unbound | bound | stopped
  deriving DecidableEq, Repr

/-- A strand with the state it holds (02 Table 2.3), and who it is. -/
structure Strand where
  run : RunState
  /-- Leader front end, active lanes L (01 R18), bind record. -/
  fe : Nat
  lanes : Nat
  /-- Lanes of each half of the harness that are active (01 R13, R18), and lanes that have become degraded: half, lane
  (24 R418). -/
  act : Vector (BitVec 16) 8
  degraded : List (Nat × Nat)
  br : BindRec
  /-- Step at which it was bound (02 R49). -/
  boundAt : Nat
  pc : Word
  x : Vector Word 32
  f : Vector Word 32
  frm : BitVec 3
  fflags : BitVec 5
  loops : List LoopLvl
  /-- A back-edge has just occurred (02 R55). -/
  backEdge : Bool
  /-- LR reservation: number of the 64-byte line, and whether another path of the strand has written it (13 R330). -/
  resv : Option (Nat × Bool)
  instret : Word
  sstat : SStat
  csr : Csrs
  vec : Vec
  fab : Fabric
  mat : Mat
  eng : Eng
  /-- Imprecise faults raised and not delivered, oldest first (23 R395, R396). -/
  held : List TrapInfo
  /-- Length of the memory log when the instruction cache was last invalidated; and, by path class with 0 for other agents, at the last
  FENCEP that orders the class before S, now and as the last FENCE.I found it (05 R111). -/
  icMark : Nat
  icFence : Vector Nat 8
  icSeen : Vector Nat 8
  deriving DecidableEq, Repr

/-! ## The package -/

/-- A launch packet (14 Table 14.1). -/
structure Launch where
  entry : Word
  crew : Nat
  hold : Bool
  lc : Bool
  prot : Bool
  g : Nat
  n : Nat
  ctx : Nat
  cq : Word
  pre0 : Nat
  task : Nat
  thr : Nat
  wen : Bool
  wobj : Nat
  pre1 : Nat
  args : Vector Word 10
  deriving DecidableEq, Repr

/-- A launch waiting in a queue. Once placed it carries its crew number and keeps its place until the crew is bound; a pre-empted
crew waits again under its number (01 R25; 14 R343, R353). -/
structure Waiting where
  pkt : Launch
  /-- Full 10 ms periods it has been ready and unbound (14 R352). -/
  age : Nat
  cnum : Option Nat
  /-- The step in which it came to wait, which tells it from every other that its queue has held. -/
  at_ : Nat
  deriving DecidableEq, Repr

/-- A queue and its launch port (14 R341, R342). -/
structure Queue where
  pri : Nat
  waiting : List Waiting
  half : Option (BitVec 512)
  refused : Nat
  deriving DecidableEq, Repr

/-- A context (02 R34; 12 R297, R311; 14 R341 to R343, R357). -/
structure Context where
  handle : Nat
  asid : Nat
  root : Nat
  tvec : Word
  /-- Pool space on each stack, in bytes. -/
  pool : Vector Nat 8
  keep : Bool
  /-- Being destroyed: its tasks are being killed (14 R357). -/
  dying : Bool
  /-- Queues that differ from a queue just created. -/
  queues : List (Nat × Queue)
  /-- The 64 watermark objects (11 R266). -/
  wm : Vector Word 64
  /-- Published positions performed beyond the frontier (11 R268): object, first position, end. -/
  wmDone : List (Nat × Nat × Nat)
  /-- Completion slots: low 16 bits of the identifier, identifier (14 R343). -/
  done : List (Nat × Nat)
  deriving DecidableEq, Repr

/-- Dispatch states of a slot (14 Table 14.5). -/
inductive SlotState where
  | free | held | armed | starting | bound
  deriving DecidableEq, Repr

/-- What the last strand left on a front end (14 R348): ASID, g, leader, halves, and its tile state. -/
structure Left where
  asid : Nat
  g : Nat
  leader : Nat
  halves : Vector (BitVec 16) 8
  mat : Option Mat
  deriving DecidableEq, Repr

/-- A slot of the slot table (14 R346, R347). -/
structure Slot where
  state : SlotState
  br : BindRec
  left : Option Left
  deriving DecidableEq, Repr

/-- A completion record (11 Table 11.8) with where it is to go. -/
structure Rec where
  w0 : Word
  w1 : Word
  w2 : Word
  w3 : Word
  ctx : Nat
  cq : Word
  /-- A task record: it follows every other record of its task (11 R290). -/
  isTask : Bool
  /-- An event of SIG: the crew number and the index of its strand, whose events keep their order (11 R272). -/
  ev : Option (Nat × Nat)
  /-- Of a report of a lost request, the crew number and the index of the strand that sent it: it follows the events which that strand
  posted before (25 R450). -/
  lost : Option (Nat × Nat)
  deriving DecidableEq, Repr

/-- What a yielded strand needs again at its next bind (02 R39, R55; 11 R287): its strand index, its record with resume vector and
sscratch, tagset, tagerr, and an arrival not yet waited on. -/
structure Saved where
  sidx : Nat
  br : BindRec
  tagset : Word
  tagerr : Word
  arrival : Option Arrival
  /-- Whether the first set-length of 02 R39 has been executed. -/
  first : Bool
  /-- stval, and the origin offset of the last trap (23 R411). -/
  stval : Word
  orig  : Word
  deriving DecidableEq, Repr

/-- A crew of a task that has been placed (02 R32, R33). -/
structure Crew where
  cnum : Nat
  pkt : Launch
  queue : Nat
  pri : Nat
  /-- Leaders of its strands by strand index; those that its placement gave; and the L each strand was bound with. -/
  leaders : List Nat
  placed  : List Nat
  lanes : List Nat
  /-- Strands that ended, and that yielded. -/
  ended : List Nat
  yielded : List Nat
  saved : List Saved
  /-- Latest phase each strand has arrived in (11 R271). -/
  arrived : List (Nat × Nat)
  /-- First copy record of class 1 or 3: words 0 to 2 (25 R446). -/
  copyErr : Option (Word × Word × Word)
  /-- Objects its WMPUB attachments named (11 R270). -/
  pubs : List Nat
  /-- Step at which it was placed, or, once a strand of it is bound, at which the last was; whether it is being pre-empted. -/
  at_ : Nat
  pp : Bool
  /-- Draining stacks that it was pre-empted for: it is bound again only after they answer (25 R449). -/
  away : List Nat
  /-- A kill under way: cause, stval, elem, orig. -/
  kill : Option (BitVec 8 × Word × Word × Word)
  deriving DecidableEq, Repr

/-- A fault-buffer record's engine wait (23 R401, 25 R442): front end, ASID, 64 KiB page, source nibble, serial
number of the access among those of its path (0 where it has one at a time), use, task, address; whether it has been answered with give up; whether it waits on a migrating page, without a record (12 R314). -/
structure PfWait where
  fe : Nat
  asid : Nat
  page : Nat
  src : Nat
  who : Nat
  use : Nat
  task : BitVec 32
  va : Word
  gaveUp : Bool
  mig : Bool
  deriving DecidableEq, Repr

/-- A fault-buffer record (25 Table 25.3). -/
structure FbRec where
  w0 : Word
  w1 : Word
  w2 : Word
  w3 : Word
  deriving DecidableEq, Repr

/-- One stack's fault buffer, its held records and its status word (25 R444, Table 25.4). -/
structure FaultBuf where
  recs : List FbRec
  held : List FbRec
  ovf : Bool
  heldn : Nat
  seq : Nat
  deriving DecidableEq, Repr

/-- What reaches the host or a peer (14 R345, R347, R358, R360; 24 R415; 25 R442), oldest first. -/
inductive HostEvent where
  | record (r : Rec)
  | pageFault (stack : Nat) (r : FbRec) (status : Option Word)
  | errorLog (stack : Nat) (w0 w1 w2 w3 : Word)
  /-- A CXL general-media event: physical address of the granule, class. -/
  | media (stack place cls : Nat)
  /-- Measurements in answer to an SPDM request, and their signature. -/
  | spdm (stack : Nat) (values : List (BitVec 256)) (signature : Nat)
  /-- A word of a launch port, of the mailbox's registers, or a fault-buffer status word that has been read. -/
  | portWord (asid queue off : Nat) (w : Word)
  | mailbox (off : Nat) (w : Word)
  | bufferStatus (stack : Nat) (w : Word)
  | read (key : Nat) (data : List Byte) (poisoned : Bool)
  | interrupt (stack : Nat) (fe : Nat)
  deriving DecidableEq, Repr

/-- A shootdown command not yet complete (12 R304, 25 R443). -/
structure Shoot where
  asid : Nat
  scope : Nat
  first : Nat
  pages : Nat
  giveUp : Bool
  deriving DecidableEq, Repr

/-- Bytes of an aligned word as a write found them, and the writer: 0 another agent, else the front end's number times 8, plus the path
class, plus 1 (logs 10 and 85). -/
structure Overwrite where
  by_ : Nat
  cells : List Host.Cell
  deriving DecidableEq, Repr

/-- A completed shootdown: what it covered, and the memory log's length then (12 R304). -/
structure Shot where
  asid : Nat
  scope : Nat
  first : Nat
  pages : Nat
  mark : Nat
  deriving DecidableEq, Repr

/-- An ASID freed with its root, and the lengths of the memory log and of the list of completed shootdowns then (12 R304). -/
structure OldRoot where
  asid : Nat
  root : Nat
  len  : Nat
  shots : Nat
  deriving DecidableEq, Repr

/-- A target's window for one requester (11 R275): target, front end, ASID, and identifiers, each with the step it was sent in and its
result, in the order of sending, newest first. -/
structure Window where
  target : Nat
  fe : Nat
  asid : Nat
  ids : List (Nat × Nat × Word)
  deriving DecidableEq, Repr

/-- A half's harness record (01 R22, 24 R419): retired as a whole, and its retired lanes. -/
structure HalfRec where
  retired : Bool
  lanes : BitVec 16
  deriving DecidableEq, Repr

/-- The single slot reservation (14 R352): the ready task's context and queue, and the step in which it came to wait. -/
structure Reservation where
  ctx : Nat
  queue : Nat
  at_ : Nat
  eff : Nat
  /-- Slots that have freed since. -/
  held : List Nat
  deriving DecidableEq, Repr

/-- A unit's firmware (14 R359, R360; 25 R448, R449): active image, image numbers, validity of A and B, an update in
progress. -/
structure Image where
  active : Bool
  a : Nat
  b : Nat
  validA : Bool
  validB : Bool
  /-- The new image of an update in progress. -/
  pending : Nat
  busy : Bool
  draining : Bool
  deriving DecidableEq, Repr

/-- An undervolting domain (24 R433): corrected and transient events of the second under way and when it began, steps raised, a
second count under way, self-test scheduled. -/
structure Domain where
  events : Nat
  second : Nat
  steps : Nat
  floor : Nat
  recount : Bool
  test : Bool
  deriving DecidableEq, Repr

/-- Management firmware and coordinator (01 R29, 14 R352 to R360). -/
structure Firmware where
  coordinator : Nat
  /-- Management cores that answer. -/
  answering : List Nat
  reservation : Option Reservation
  /-- The queue last served at each priority level: level, context, queue. -/
  served : List (Nat × Nat × Nat)
  /-- Contexts by handle, and the next handle. -/
  contexts : List Context
  nextHandle : Nat
  crews : List Crew
  /-- Stacks emptying for a locked-clock task, and stacks whose clock is fixed (14 R355). -/
  locking : List Nat
  locked : List Nat
  /-- The locked-clock task that stacks are emptied for: context, queue, and the step in which it came to wait. -/
  lockFor : Option (Nat × Nat × Nat)
  /-- The mailbox's registers (14 R357): the command code at 0x00, the status at 0x08 with done in bit 63, the argument words from
  0x40 on; whether a command is under way; and what the last one returned. -/
  code : Word
  status : Nat
  args : Vector Word 8
  cmd : Bool
  results : List Word
  /-- Firmware images by unit; and measurement registers by unit, where an image has been run since reset besides the one that ran
  from reset (14 R360). -/
  images : List (Nat × Image)
  measures : List (Nat × BitVec 256)
  /-- Whether CXL is trained: width and rate in GT/s. -/
  link : Option (Nat × Nat)
  deriving DecidableEq, Repr

/-- What a frame carries (07 R177, R178; log 9): serial number behind its opaque bytes, context, word 0, loop stack, and
with vec = 1 the vector state and the fabric's contexts and tokens. -/
structure Frame where
  serial : Nat
  ctx    : Nat
  word0  : Word
  loops  : List LoopLvl
  vec    : Option (Vec × Fabric)
  deriving DecidableEq, Repr

/-- A latch buffer imaged by a copy (12 R296): serial number behind its opaque bytes, the halves of the harness, and the buffer. -/
structure LatchImage where
  serial : Nat
  halves : Vector (BitVec 16) 8
  latch  : Latch
  deriving DecidableEq, Repr

/-- A hardware error that no row of the opcode table brings about (24 R416 to R434; 25 R438). `lasting` says whether it is there again
when the operation is performed once more (24 R414). -/
inductive Upset where
  /-- A word or granule of memory that cannot be corrected. -/
  | word (key : Nat)
  /-- A read of an HBM granule meets wrong bits: sub-channel of the granule, pin (32 to 35 are check pins), beat (24 R428). -/
  | granule (key : Nat) (bits : List (Nat × Nat × Nat)) (lasting : Bool)
  /-- A read of a scratchpad or pool word meets an error that its code corrects; of a word of the memory-side cache, corrected, or its clean
  block fetched again (24 R425). -/
  | sram (key : Nat) (lasting : Bool)
  | cached (key : Nat) (lasting : Bool)
  /-- A word of a front end's tile space that cannot be corrected, or that its code corrects. -/
  | tile (fe off : Nat)
  | tileFixed (fe off : Nat) (lasting : Bool)
  /-- A register word that fails its parity: half of the harness, lane (16 the XOR lane), register, position (24 R416). -/
  | reg (fe half lane r pos : Nat) (lasting : Bool)
  /-- The next access of a path meets an error: a write that is lost, or a mismatch. -/
  | path (fe : Nat) (t : Trip)
  /-- The pass meets an error of a kind at a node and element; a soft error in what a node computes, which comes again or not; in a
  result word of the hoop or sampling instruction at the head; in an output of the fabric run (24 R422, R425, R432). -/
  | pass (fe kind slot elem : Nat)
  | passSoft (fe slot elem mask : Nat) (again : Bool)
  | matSoft (fe off mask : Nat)
  | runSoft (fe : Nat) (second : Bool) (elem mask : Nat) (again : Bool)
  /-- A soft error in an instruction executed on registers: 64-bit word j of v[r] (24 R432). -/
  | regSoft (fe r j mask : Nat)
  /-- A parity error in a cache of a front end: the line is fetched or walked again (24 R425). -/
  | cache (fe : Nat)
  /-- A copy, by serial number, meets a staging entry that fails parity (unit 11) or loses a write of a replica (unit 12), at an index. -/
  | copy (fe serial rep index unit : Nat)
  /-- A lasting event of a half, in one of its data lanes or elsewhere in it (24 R419). -/
  | lasting (half : BitVec 16) (lane : Option (Fin 16))
  /-- Bits of a memory byte that change with no check noticing. -/
  | silent (key : Nat) (mask : Byte)
  deriving DecidableEq, Repr

/-- A unit whose error events are counted (24 Table 24.1): a half; a pair of a protected harness, by its two halves, one of which is at fault
(24 R423); a front end; the pool space of a stack; a sub-channel, by HBM stack and sub-channel; a link. -/
inductive ErrUnit where
  | half (h : Nat)
  | pair (first mirror : Nat)
  | frontEnd (fe : Nat)
  | pool (stack : Nat)
  | channel (hbm sub : Nat)
  | link (l : Nat)
  deriving DecidableEq, Repr

/-- What the outside world and the physics of the part do to the machine. -/
inductive Input where
  /-- An event, at the strand that a front end leads where it concerns a strand. -/
  | event (fe : Nat) (i : Instr)
  | upset (u : Upset)
  /-- The host writes its own memory. -/
  | host (key : Nat) (data : List Byte)
  /-- Part of what an engine of a strand has under way is performed ahead of the rest (13 R333, R334; 08 R203): element groups of the
  pass; bytes of a copy's replica; a line of memory that a hoop or sampling instruction reads. -/
  | passPart (fe groups : Nat)
  | copyPart (fe serial rep lo hi : Nat)
  | matLine (fe reading line : Nat)
  /-- A path of a strand will not observe a copy at its end; a path observes what completed copies have performed (11 R262). -/
  | late (fe serial cls : Nat)
  | observe (fe cls : Nat)
  /-- Reads of a launch port's word, and reads and writes of the mailbox's registers by the host; a read of a fault buffer's status word
  by the firmware (14 R341, R357; 25 R444). -/
  | portRead (asid queue off : Nat)
  | barWrite (off : Nat) (w : Word)
  | barRead (off : Nat)
  | bufferRead (stack : Nat)
  deriving DecidableEq, Repr

/-- The machine. -/
structure State where
  /-- The strand whose turn it is, and the other strands of the package. -/
  st : Strand
  others : List Strand
  /-- Package memory by key: HBM and host memory by physical address, scratchpads and pool space above them
  (12 R292, R294, R311). -/
  mem : Memory
  /-- Aligned words overwritten, newest first (log 10). -/
  wlog : List Overwrite
  /-- Poisoned granules and words: key, length (24 R426, R429). -/
  poison : List (Nat × Nat)
  /-- Granule regions that do not hold G64: region, gran code (12 R306), and the reserved regions. -/
  grans : List (Nat × Nat)
  reserved : List Nat
  /-- Slots that differ from a free slot with a zero record. -/
  slots : List (Nat × Slot)
  /-- The leader whose record was armed last, and in which step (01 R21). -/
  lastArm : Option (Nat × Nat)
  halves : List (Nat × HalfRec)
  feRetired : List Nat
  fw : Firmware
  /-- Record queues by front end; 512 + s is the firmware's of stack s (11 R290, 14 R340). -/
  recq : List (Nat × Rec)
  pfWaits : List PfWait
  faultBufs : List (Nat × FaultBuf)
  shoots : List Shoot
  shots : List Shot
  /-- ASIDs freed with their roots: what caches hold of them goes on until a shootdown (12 R304). -/
  oldRoots : List OldRoot
  windows : List Window
  /-- By front end, in the order of sending, newest first: identifiers of its last 64 RAMOs, and their targets once known (11 R276). -/
  idents : List (Nat × List (Nat × Option Nat))
  /-- Error events counted by unit and class (24 R415). -/
  errCounts : List (ErrUnit × Nat × Nat)
  /-- Pins with counted lasting errors: HBM sub-channel of the package, pin; and failed sub-channels (24 R428). -/
  pins : List (Nat × Nat)
  failed : List Nat
  domains : List (Nat × Domain)
  /-- Links that are down (25 R436): number of the link. -/
  down : List Nat
  /-- Frames saved by VSAVEF, newest first, behind the opaque frame bytes (log 9). -/
  frames : List Frame
  /-- Latch buffers imaged by copies, newest first, behind the opaque image bytes (log 9). -/
  images : List LatchImage
  host : List HostEvent
  /-- What the outside world and hardware errors do next, oldest first (log 8). -/
  inbox : List Input
  tick : Nat
  deriving DecidableEq, Repr

/-- Reasons the machine stops. -/
inductive Fault where
  /-- An event of the outside world named a front end, stack, link or unit that the package does not have (01 R10). It is
  raised by the events that carry a unit number, never by a strand's word; safe: the hardware has no such unit. -/
  | noSuchUnit (n : Nat)
  deriving DecidableEq, Repr

/-- Reasons the model gives no meaning. -/
inductive Refusal where
  /-- The instruction has no meaning yet; raised by exec's refused arms only; safe. -/
  | notModelled (mnemonic : String)
  deriving DecidableEq, Repr

/-! ## Reset -/

/-- HALT, the word of an empty fabric context (10 R230). -/
abbrev haltWord : IWord := 0xC1FFF000

/-- An empty pricking with every name resident (14 R350). -/
def Pricking.empty : Pricking :=
  { nodes := [], vb := Vector.replicate 32 none, kb := Vector.replicate 8 none, last := none, due := false, count := 0,
    pub := none, lnk := none }

/-- Vector state at a bind (14 R350). -/
def Vec.reset : Vec :=
  { v := Vector.replicate 32 0, k := Vector.replicate 8 0, o := Vector.replicate 8 0, pk := Pricking.empty, pass := none,
    ahead := [], answer := none, asked := [], squashed := false, first := false, vl := 0, vtype := 0x8000000000000000, vstart := 0, bad := [] }

/-- Fabric state at a bind (10 R230, Table 10.8). -/
def Fabric.reset : Fabric :=
  { ctx0 := Vector.replicate 32 haltWord, ctx1 := Vector.replicate 32 haltWord, pending := [], run := none, cyc := 0,
    fault := false, left := false, drop := false }

/-- An empty latch buffer (08 R187). -/
def Latch.empty : Latch := { fmt := 0, kind := 0, t := false, n := 0, w := [], foreign := none, loaded := [] }

/-- Tile, hoop and sampling state after a scrub (14 R348, 09 R208). -/
def Mat.reset : Mat :=
  { bytes := [], poison := [], latch0 := Latch.empty, latch1 := Latch.empty, active := false,
    tcfg := Vector.replicate 8 0, scount := 0, smean := 0, svar := 0, queue := [], held := [] }

/-- Engines with nothing under way. -/
def Eng.reset : Eng :=
  { copies := [], tagset := 0, tagerr := 0, serial := 0, pkts := [], flight := [], replies := [], ramos := [],
    query := none, pendX := [], arrival := none, barcAt := none, half := none, fences := [], trips := [], unseen := [] }

/-- Start values of Table 2.4. -/
def Csrs.reset : Csrs :=
  { vmt := 0, vslip := 4, vfflags := 0, vkey := 0, vctr := 0, skey := 0, sbase := 0, smin := 0, stau := 0, smode := 0,
    scause := 0, sepc := 0, stval := 0, selem := 0, sorig := 0, stvec := 0, sscratch := 0, sresume := 0 }

/-- sstat at a first bind (Table 2.11). -/
def SStat.reset : SStat := { pp := false, pmode := false, mode := false, ts := 1, vs := 1 }

/-- A bind record of zeros, its half identifiers 0xFFFF (Table 14.4). -/
def BindRec.zero : BindRec :=
  { ctx := 0, g := 0, pri := 0, lent := false, res := false, prot := false, scrub := false, lc := false, pre := false,
    root := 0, asid := 0, cnum := 0, csize := 0, sidx := 0, task := 0, vec := 0, halves := Vector.replicate 8 0xFFFF,
    tvec := 0, scr := 0 }

/-- A strand with every register at its start value and no bind (logs 1 and 2). -/
def Strand.reset : Strand :=
  { run := .unbound, fe := 0, lanes := 0, act := Vector.replicate 8 0, degraded := [], br := BindRec.zero, boundAt := 0, pc := 0, x := Vector.replicate 32 0,
    f := Vector.replicate 32 0, frm := 0, fflags := 0, loops := [], backEdge := false, resv := none, instret := 0,
    sstat := SStat.reset, csr := Csrs.reset, vec := Vec.reset, fab := Fabric.reset, mat := Mat.reset, eng := Eng.reset,
    held := [], icMark := 0, icFence := Vector.replicate 8 0, icSeen := Vector.replicate 8 0 }

/-- The firmware after reset (01 R29, 14 R352; logs 2 and 6). -/
def Firmware.reset : Firmware :=
  { coordinator := 0, answering := [0, 1, 2, 3, 4, 5, 6, 7], reservation := none, served := [], contexts := [],
    nextHandle := 1, crews := [], locking := [], locked := [], lockFor := none, code := 0, status := 0, args := Vector.replicate 8 0,
    cmd := false, results := [], images := [], measures := [],
    link := none }

/-- The machine right after reset: no strand bound, every granule region G64 (12 R306), nothing under way. -/
def State.reset : State :=
  { st := Strand.reset, others := [], mem := [], wlog := [], poison := [], grans := [], reserved := [], slots := [], lastArm := none,
    halves := [], feRetired := [], fw := Firmware.reset, recq := [], pfWaits := [], faultBufs := [], shoots := [],
    shots := [], oldRoots := [], windows := [], idents := [], errCounts := [], pins := [], failed := [], domains := [], down := [], frames := [],
    images := [], host := [], inbox := [], tick := 0 }

end Sys2Proof.Machine
end

