-- ==== Sys2Proof/Machine/Ops.lean ====
section
/-! DEFINITION. Machine/Ops.lean: the shared operations over registers and memory, the force (04 R81 to R88, R96),
taking an exception and returning from one (11 R285, R286; 23 R393 to R396), and completing an instruction (11 R278,
R279). -/

namespace Sys2Proof.Machine

/-- One outcome of a step. -/
abbrev Out := Host.Outcome State Fault Refusal

/-- The next state; every step advances the counter behind the free values (log 7). -/
def ok (s : State) : Out := .next { s with tick := s.tick + 1 }

/-! ## Byte memories -/

/-- The byte at a key; an unlisted key reads 0 (log 3). -/
def Memory.get (m : Memory) (a : Nat) : Byte :=
  match m with
  | [] => 0
  | (k, b) :: t => if k = a then b else if a < k then 0 else Memory.get t a

/-- Writes one byte and keeps the canonical form. -/
def Memory.put (m : Memory) (a : Nat) (v : Byte) : Memory :=
  match m with
  | [] => if v = 0 then [] else [(a, v)]
  | (k, b) :: t =>
    if a < k then (if v = 0 then (k, b) :: t else (a, v) :: (k, b) :: t)
    else if k = a then (if v = 0 then t else (a, v) :: t)
    else (k, b) :: Memory.put t a v

/-- The canonical form: keys strictly rising from above lo, no zero byte. -/
def Memory.wfFrom (lo : Nat) (m : Memory) : Bool :=
  match m with
  | [] => true
  | (k, b) :: t => decide (lo ≤ k) && b != 0 && Memory.wfFrom (k + 1) t

/-- The canonical form of a memory. -/
def Memory.wf (m : Memory) : Bool := Memory.wfFrom 0 m

/-- The memory with the keys from lo up to hi (hi excluded) reading 0. -/
def Memory.clear (m : Memory) (lo hi : Nat) : Memory := m.filter (fun c => decide (c.1 < lo) || decide (hi ≤ c.1))

/-- The bytes at n successive keys. -/
def Memory.bytes (m : Memory) (a n : Nat) : List Byte := (List.range n).map (fun i => m.get (a + i))

/-- The value of bytes, the first the lowest (00 R3: little-endian). -/
def leNat (bs : List Byte) : Nat := bs.foldr (fun b acc => b.toNat + 256 * acc) 0

/-- The n bytes of a value, the lowest first (00 R3). -/
def leBytes (n v : Nat) : List Byte := (List.range n).map (fun i => BitVec.ofNat 8 (v / 256 ^ i))

/-- The value of n bytes at a key. -/
def Memory.val (m : Memory) (a n : Nat) : Nat := leNat (m.bytes a n)

/-! ## Numbers and bits -/

/-- The signed value of the low w bits of n. -/
def sgn (w n : Nat) : Int :=
  let r := n % 2 ^ w
  if r < 2 ^ (w - 1) then (r : Int) else (r : Int) - (2 : Int) ^ w

/-- The low w bits of an integer. -/
def wrap (w : Nat) (i : Int) : Nat := (i % ((2 : Int) ^ w)).toNat

/-- A 64-bit word of an integer. -/
def wordOf (i : Int) : Word := BitVec.ofInt 64 i

/-- Bits [lo + n − 1 : lo] of a number. -/
def fieldOf (w : Word) (lo n : Nat) : Nat := w.toNat / 2 ^ lo % 2 ^ n

/-- Rounds up to a whole number of parts. -/
def ceilDiv (a b : Nat) : Nat := (a + b - 1) / b

/-- An entry of an association list. -/
def lookup {α : Type} (l : List (Nat × α)) (k : Nat) : Option α :=
  match l with
  | [] => none
  | (j, a) :: t => if j = k then some a else lookup t k

/-- Sets an entry of an association list. -/
def insert {α : Type} (l : List (Nat × α)) (k : Nat) (a : α) : List (Nat × α) :=
  match l with
  | [] => [(k, a)]
  | (j, b) :: t => if j = k then (k, a) :: t else (j, b) :: insert t k a

/-- Element i of width w of a register (04 R101). -/
def elemOf (r : VReg) (w i : Nat) : Nat := r.toNat / 2 ^ (w * i) % 2 ^ w

/-- A register with element i of width w replaced. -/
def setElem (r : VReg) (w i v : Nat) : VReg :=
  BitVec.ofNat 65536 (r.toNat - elemOf r w i * 2 ^ (w * i) + v % 2 ^ w * 2 ^ (w * i))

/-! ## Registers -/

/-- x[r]; x0 reads zero. -/
def State.x (s : State) (r : BitVec 5) : Word := if r = 0 then 0 else s.st.x[r.toNat]'r.isLt

/-- Writes x[r]; x0 discards. -/
def State.setX (s : State) (r : BitVec 5) (v : Word) : State :=
  if r = 0 then s else { s with st := { s.st with x := s.st.x.set r.toNat v r.isLt } }

/-- f[r], 64 bits. -/
def State.f (s : State) (r : BitVec 5) : Word := s.st.f[r.toNat]'r.isLt

/-- Writes f[r]. -/
def State.setF (s : State) (r : BitVec 5) (v : Word) : State :=
  { s with st := { s.st with f := s.st.f.set r.toNat v r.isLt } }

/-- The register number 0 to 7 in a field's low bits. -/
def low3 (r : BitVec 5) : Fin 8 := ⟨r.toNat % 8, Nat.mod_lt _ (by decide)⟩

/-- o[i]. -/
def State.o (s : State) (i : Fin 8) : Word := s.st.vec.o[i]

/-- Writes o[i]. -/
def State.setO (s : State) (i : Fin 8) (v : Word) : State :=
  { s with st := { s.st with vec := { s.st.vec with o := s.st.vec.o.set i v } } }

/-- The state with another pc. -/
def State.setPc (s : State) (p : Word) : State := { s with st := { s.st with pc := p } }

/-- The state with another vector state. -/
def State.setVec (s : State) (v : Vec) : State := { s with st := { s.st with vec := v } }

/-- The state with another pricking. -/
def State.setPk (s : State) (p : Pricking) : State := s.setVec { s.st.vec with pk := p }

/-- The state with another pass. -/
def State.setPass (s : State) (p : Option Pass) : State := s.setVec { s.st.vec with pass := p }

/-- The state with other tile, hoop and sampling state. -/
def State.setMat (s : State) (m : Mat) : State := { s with st := { s.st with mat := m } }

/-- The state with other engines. -/
def State.setEng (s : State) (e : Eng) : State := { s with st := { s.st with eng := e } }

/-- The state with another fabric. -/
def State.setFab (s : State) (f : Fabric) : State := { s with st := { s.st with fab := f } }

/-- The state with other custom CSRs. -/
def State.setCsr (s : State) (c : Csrs) : State := { s with st := { s.st with csr := c } }

/-- The state with another sstat. -/
def State.setSStat (s : State) (c : SStat) : State := { s with st := { s.st with sstat := c } }

/-- The strand runs in supervisor mode (02 R50). -/
def State.sup (s : State) : Bool := s.st.sstat.mode

/-- Vector state changes: an initial or clean vs becomes dirty (02 R54). -/
def State.dirtyVs (s : State) : State :=
  if s.st.sstat.vs = 1 ∨ s.st.sstat.vs = 2 then s.setSStat { s.st.sstat with vs := 3 } else s

/-- Tile, hoop or sampling state changes: an initial or clean ts becomes dirty (02 R54). -/
def State.dirtyTs (s : State) : State :=
  if s.st.sstat.ts = 1 ∨ s.st.sstat.ts = 2 then s.setSStat { s.st.sstat with ts := 3 } else s

/-- The vector state that vs covers (02 Table 2.3). -/
def Vec.shown (v : Vec) : Vec := { v with first := false, answer := none, asked := [], squashed := false }

/-- The state after an instruction that writes vector state: vs becomes dirty where that changes it (02 R54; log 69). -/
def State.dirtyIf (s t : State) : State := if t.st.vec.shown = s.st.vec.shown ∧ t.st.fab = s.st.fab then t else t.dirtyVs

/-! ## vtype (02 Table 2.5) -/

/-- vill. -/
def vtVill (t : Word) : Bool := t.getLsbD 63

/-- et. -/
def vtEt (t : Word) : Nat := fieldOf t 0 4

/-- sm: stream mode. -/
def vtSm (t : Word) : Bool := t.getLsbD 4

/-- pm: protected mode. -/
def vtPm (t : Word) : Bool := t.getLsbD 5

/-- rm. -/
def vtRm (t : Word) : Nat := fieldOf t 6 3

/-- sl. -/
def vtSl (t : Word) : Nat := fieldOf t 9 3

/-- sat. -/
def vtSat (t : Word) : Bool := t.getLsbD 12

/-- Width in bits of an element type (02 Table 2.5). -/
def etWidth (et : Nat) : Nat :=
  match et with
  | 1 => 8 | 2 => 16 | 3 => 32 | 4 => 64 | 5 => 16 | 6 => 16 | 7 => 32 | 8 => 64 | _ => 8

/-- et is a floating-point type. -/
def etFloat (et : Nat) : Bool := decide (5 ≤ et) && decide (et ≤ 8)

/-- A legal vtype (02 R40); prot is harn.prot. -/
def vtLegal (t : Word) (prot : Bool) : Bool :=
  !vtVill t && decide (1 ≤ vtEt t) && decide (vtEt t ≤ 8) && decide (vtRm t ≤ 4) && (vtPm t == prot) &&
    fieldOf t 13 50 == 0

/-- VLMAX in resident mode: L × 512 / w (01 R19). -/
def vlMax (lanes et : Nat) : Nat := lanes * 512 / etWidth et

/-! ## The pricking (04 R79 to R84) -/

/-- Whether a node is a sink: stores, scatters, atomics and reductions (Table 4.1). -/
def NOp.isSink (o : NOp) : Bool :=
  match o with
  | .store | .storex | .amo | .red | .fred | .fredo => true
  | _ => false

/-- Whether a node is a load stream (04 R82). -/
def NOp.isLoad (o : NOp) : Bool :=
  match o with
  | .load | .loadx => true
  | _ => false

/-- Whether a node is a reduction. -/
def NOp.isRed (o : NOp) : Bool :=
  match o with
  | .red | .fred | .fredo => true
  | _ => false

/-- Whether a node's first result is a mask (Table 4.1). -/
def NOp.isMask (o : NOp) : Bool :=
  match o with
  | .cmpEq | .cmpNe | .cmpLt | .cmpLe | .cmpLtu | .cmpLeu | .fcmpEq | .fcmpLt | .fcmpLe | .fcmpUn
  | .kand | .kor | .kxor | .kandn | .knot | .kshl | .kshr | .kset => true
  | _ => false

/-- The slot a source refers to. -/
def Src.slot? (x : Src) : Option Nat :=
  match x with
  | .node n _ => some n
  | _ => none

/-- The slots a node reads. -/
def Node.refs (n : Node) : List Nat :=
  [n.a, n.b, n.c, n.under, n.under2, n.mask.getD .zero].filterMap Src.slot?

/-- A node by slot. -/
def Pricking.node? (p : Pricking) (slot : Nat) : Option Node := p.nodes.find? (fun n => n.slot == slot)

/-- Slots bound to v or k names. -/
def Pricking.bound (p : Pricking) : List Nat := (p.vb.toList ++ p.kb.toList).filterMap (fun b => b.map Prod.fst)

/-- The live slots: reachable from a bound name, a sink or last (04 R83). A node reads earlier nodes only. -/
def Pricking.live (p : Pricking) : List Nat :=
  p.nodes.foldr (fun n acc => if acc.contains n.slot || n.op.isSink then n.slot :: (n.refs ++ acc) else acc)
    (p.bound ++ p.last.toList)

/-- Frees every node that is not live (04 R83). -/
def Pricking.gc (p : Pricking) : Pricking :=
  let l := p.live
  { p with nodes := p.nodes.filter (fun n => l.contains n.slot) }

/-- The lowest free slot (04 R83). -/
def Pricking.freeSlot (p : Pricking) : Nat :=
  ((List.range Config.maxNodes).find? (fun i => !(p.nodes.any (fun n => n.slot == i)))).getD 0

/-- Whether a pending reduction targets o[i] (Table 4.2). -/
def Pricking.redTargets (p : Pricking) (i : Nat) : Bool := p.nodes.any (fun n => n.op.isRed && n.dst == i)

/-- Whether a pending reduction targets any o register. -/
def Pricking.anyRed (p : Pricking) : Bool := p.nodes.any (fun n => n.op.isRed)

/-! ## Stream extents and the alias rule (04 R96, 07 R168) -/

/-- Element size of a memory format; mf 0 is the format of et (07 R158). -/
def mfOf (mf et : Nat) : Nat := if mf = 0 then et else mf

/-- s of a memory format, in bytes (07 R158). -/
def mfSize (mf : Nat) : Nat :=
  match mf with
  | 1 => 1 | 12 => 1 | 2 => 2 | 5 => 2 | 6 => 2 | 13 => 2 | 3 => 4 | 7 => 4 | 14 => 4 | 4 => 8 | 8 => 8 | _ => 1

/-- Whether a memory format is PB3, PB5 or PB8. -/
def mfIsPb (mf : Nat) : Bool := decide (9 ≤ mf) && decide (mf ≤ 11)

/-- Bytes of a PB block (03 R65). -/
def pbBytes (mf : Nat) : Nat :=
  match mf with
  | 9 => 8 | 10 => 12 | _ => 18

/-- Pieces of an interval of exact addresses reduced modulo 2^64 (07 R168). -/
def pieces (lo hi : Int) : List (Nat × Nat) :=
  let m : Int := 2 ^ 64
  if hi - lo + 1 ≥ m then [(0, 2 ^ 64 - 1)]
  else
    let a := (lo % m).toNat
    let b := (hi % m).toNat
    if a ≤ b then [(a, b)] else [(a, 2 ^ 64 - 1), (0, b)]

/-- The memory format of a stream node. -/
def Node.fmt (n : Node) : Nat := mfOf n.mf (vtEt n.vtype)

/-- The extent of a unit or strided stream (07 R168); gathers, scatters and atomics have none. -/
def Node.extent (n : Node) : List (Nat × Nat) :=
  if n.vl = 0 then []
  else if n.op = .load ∨ n.op = .store then
    if mfIsPb n.fmt then
      pieces n.base.toNat (n.base.toNat + ceilDiv n.vl 16 * pbBytes n.fmt - 1)
    else
      let b : Int := n.base.toNat
      let e : Int := b + (n.vl - 1 : Nat) * n.stride.toInt
      pieces (min b e) (max b e + mfSize n.fmt - 1)
  else []

/-- Whether two lists of pieces meet. -/
def meets (a b : List (Nat × Nat)) : Bool := a.any (fun p => b.any (fun q => decide (p.1 ≤ q.2) && decide (q.1 ≤ p.2)))

/-- An identical mapping (04 R96): same space, base, stride, memory format and VL. -/
def Node.sameMap (n m : Node) : Bool :=
  n.vmt == m.vmt && n.base == m.base && n.stride == m.stride && n.fmt == m.fmt && n.vl == m.vl

/-- The slots that some slots reach in a pricking. -/
def Pricking.reach (p : Pricking) (from_ : List Nat) : List Nat :=
  p.nodes.foldr (fun n acc => if acc.contains n.slot then n.refs ++ acc else acc) from_

/-- The nodes of a pass: all of the pricking in resident mode; in stream mode those that the sinks and a recipe mask to be
read reach (04 R86, R90; 06 R152). -/
def Pricking.passNodes (p : Pricking) (stream : Bool) (want : Option Nat) : List Node :=
  if stream then
    let extra := match want with
      | some k => ((p.kb.toList.getD k none).map Prod.fst).toList
      | none => []
    let l := p.reach ((p.nodes.filter (fun n => n.op.isSink)).map Node.slot ++ extra)
    p.nodes.filter (fun n => l.contains n.slot)
  else p.nodes

/-- The blamed store of a refused pass: the first noted store stream whose extent overlaps the extent of a load stream
or of another store stream without an identical mapping (04 R96, 23 R405). -/
def refusedStore (ns : List Node) : Option Node :=
  ns.find? (fun n => n.op == .store && ns.any (fun m =>
    m.slot != n.slot && (m.op == .load || m.op == .store) && m.vmt == n.vmt && meets n.extent m.extent && !n.sameMap m))

/-! ## Force (04 R81 to R88) -/

/-- Whether a force point starts a pass of a pricking: a sink, in resident mode a pending name (04 R86), or a recipe mask to be
read (06 R152). -/
def Pricking.needsPass (p : Pricking) (stream : Bool) (want : Option Nat) : Bool :=
  p.nodes.any (fun n => n.op.isSink) || (!stream && !p.bound.isEmpty) || want.isSome

/-- Whether a force point of the strand starts a pass. -/
def State.needsPass (s : State) (want : Option Nat) : Bool := s.st.vec.pk.needsPass (vtSm s.st.vec.vtype) want

/-- Source nibbles of a pass's own faults: one of them held means the pass holds its fault (23 R396). -/
def TrapInfo.ofPass (t : TrapInfo) : Bool :=
  let n := t.code.toNat % 16
  decide (2 ≤ n) && decide (n ≤ 6)

/-- The pricking after any force: last is void and nothing is due (04 R81, R85). -/
def Pricking.forced (p : Pricking) : Pricking := { p with last := none, due := false, count := 0 }

/-- Streams the pass will perform count in ctrs from its force point (04 R88). -/
def Pricking.recount (p : Pricking) (slots : List Nat) : Pricking :=
  { p with nodes := p.nodes.map (fun n => if slots.contains n.slot then { n with counted := true } else n) }

/-- What a stream-mode pass leaves (04 R83, R90): its sinks are freed; recipes stay, and the streams it read no longer count
(04 R88). -/
def Pricking.afterStream (pk : Pricking) (read : List Nat) : Pricking :=
  let done := fun n : Node => if read.contains n.slot then { n with counted := false } else n
  ({ pk with nodes := (pk.nodes.filter (fun n => !n.op.isSink)).map done } : Pricking).gc

/-- The pricking as a pass of it leaves it (04 R89, R90). -/
def Pricking.next (pk : Pricking) (stream : Bool) (want : Option Nat) : Pricking :=
  if stream then pk.afterStream ((pk.passNodes stream want).map Node.slot)
  else { Pricking.empty with pub := pk.pub, lnk := pk.lnk }

/-- The pricking that the next noting joins: the strand's, or, while a pass is in flight, that of the instructions that wait in
the vector command queue (02 R35, 04 R87). -/
def Vec.newest (v : Vec) : Pricking :=
  match v.pass with
  | none => v.pk
  | some p =>
    match v.ahead.getLast? with
    | none => v.pk.next p.stream p.want
    | some a => if a.force.isSome then a.pk.next a.stream none else a.pk

/-- An open entry of the command queue that fills a pricking, for so many instructions. -/
def Ahead.new (pk : Pricking) (count : Nat) : Ahead :=
  { acts := [], pk := pk, count := count, force := none, stream := false, shadow := [] }

/-- The entry of the command queue that is being filled: the last, or a new one behind a closed one. -/
def Vec.filling (v : Vec) : Ahead :=
  match v.ahead.getLast? with
  | some a => if a.force.isSome then Ahead.new v.newest 0 else a
  | none => Ahead.new v.newest 0

/-- The vector state with that entry replaced. -/
def Vec.refill (v : Vec) (a : Ahead) : Vec :=
  match v.ahead.getLast? with
  | some b => if b.force.isSome then { v with ahead := v.ahead ++ [a] } else { v with ahead := v.ahead.dropLast ++ [a] }
  | none => { v with ahead := [a] }

/-- The vector state after an instruction that joins the command queue and leaves the newest pricking so. -/
def Vec.setNewest (v : Vec) (pk : Pricking) : Vec :=
  match v.pass with
  | none => { v with pk := pk }
  | some _ => v.refill { v.filling with pk := pk, count := v.filling.count + 1 }

/-- The vector state after an executed instruction that joins the command queue. -/
def Vec.acting (v : Vec) (a : Act) : Vec :=
  let f := v.filling
  v.refill { f with acts := f.acts ++ [a], count := f.count + 1 }

/-- Whether a VOSET waits in an entry of the command queue. -/
def Ahead.setsAny (a : Ahead) : Bool := a.acts.any (fun x => match x with | .setO _ _ => true | _ => false)

/-- What the last VOSET that waits in an entry of the command queue writes to an o register. -/
def Ahead.setsO (a : Ahead) (o : Nat) : Option Word :=
  a.acts.foldl (fun r x => match x with | .setO d w => if d.val = o then some w else r | _ => r) none

/-- What an o register will hold for an instruction that joins the command queue now, where that is not what it holds: the value of a VOSET
that waits there, or none that is known yet, a reduction of the pass in flight or of one that starts after it being the last to
write it (04 R79, R87). -/
def Vec.oAhead (v : Vec) (o : Nat) : Option (Option Word) :=
  match v.pass with
  | none => none
  | some p =>
    v.ahead.foldl (fun r a =>
      if a.force.isSome && a.pk.redTargets o then some none
      else match a.setsO o with
        | some w => some (some w)
        | none => r) (if p.pk.redTargets o then some none else none)

/-- Adds an imprecise fault to those not yet delivered (23 R395, R396). -/
def State.raise (s : State) (t : TrapInfo) : State := { s with st := { s.st with held := s.st.held ++ [t] } }

/-- Raises an engine's imprecise fault; each engine holds at most one undelivered fault (23 R396). -/
def State.raiseOnce (s : State) (t : TrapInfo) : State :=
  if s.st.held.any (fun u => u.code.toNat % 16 == t.code.toNat % 16) then s else s.raise t

/-- A pass starts from the strand's pricking, in stream mode or not, seeing what the scalar path has overwritten since its force point
as it stood, with its serial number and mode; or it is refused under the alias rule (04 R94, R96). -/
def State.startPass (s : State) (want : Option Nat) (stream : Bool) (shadow : List Shade) (serial : Nat) (mode : Bool) : State :=
  let p := s.st.vec.pk
  let ns := p.passNodes stream want
  match refusedStore ns with
  | some n =>
    let s' := s.dirtyIf (s.setPk p.forced)
    if s.st.held.any TrapInfo.ofPass then s'
    else s'.raise { code := 0x64, stval := BitVec.ofNat 64 ((n.extent.map Prod.fst).headD 0),
                    selem := 0, sorig := n.pc }
  | none =>
    let c := p.recount (ns.map Node.slot)
    ((s.dirtyVs.setEng { s.st.eng with serial := max s.st.eng.serial (serial + 1) }).setPk c.forced).setPass
      (some { pk := c, v := s.st.vec.v, k := s.st.vec.k, stream := stream, want := want,
              slip := s.st.csr.vslip.toNat, chk := 0, kept := [], done := [], wrote := [], fl := 0, shadow := shadow, errs := [], flips := [],
              held := false, sup := mode, serial := serial })

/-- A force point that finds a pass in flight closes the pricking behind it, where that has something to do (04 R87). -/
def State.forceAhead (s : State) : State :=
  let v := s.st.vec
  s.dirtyIf (
    match v.ahead.getLast? with
    | none => s.setPk v.pk.forced
    | some a =>
      if a.force.isSome then s
      else
        let stream := vtSm v.vtype
        if a.pk.needsPass stream none then
          let c := (a.pk.recount ((a.pk.passNodes stream none).map Node.slot)).forced
          (s.setEng { s.st.eng with serial := s.st.eng.serial + 1 }).setVec
            (v.refill { a with pk := c, force := some (s.st.eng.serial, s.sup), stream := stream })
        else s.setVec (v.refill { a with pk := a.pk.forced.gc }))

/-- A force point (04 R86) that may want a recipe mask: starts a pass where there is something to do and none is in
flight, refuses it under the alias rule, or starts none. last becomes void in every case. -/
def forceFor (want : Option Nat) (s : State) : State :=
  match s.st.vec.pass with
  | some _ => s.forceAhead
  | none =>
    if s.needsPass want then s.startPass want (vtSm s.st.vec.vtype) [] s.st.eng.serial s.sup
    else s.dirtyIf (s.setPk s.st.vec.pk.forced.gc)

/-- What a node was to capture of o registers once the passes ahead of it had ended (04 R79). -/
def Node.capture (o : Vector Word 8) (n : Node) : Node :=
  let at_ := fun i : Nat => o.toList.getD i 0
  let b := match n.b with | .oreg i => .scalar (at_ i) | x => x
  match n.seedO with
  | some i => { n with b := b, seed := at_ i, seedO := none }
  | none => { n with b := b }

/-- Names that a set-length releases hold zero (06 R154). -/
def Vec.zeroed (v : Vec) (vs ks : List Nat) : Vec :=
  { v with
    v := Vector.ofFn (fun i : Fin 32 => if vs.contains i.val then 0 else v.v[i])
    k := Vector.ofFn (fun i : Fin 8 => if ks.contains i.val then 0 else v.k[i])
    bad := v.bad.filter (fun b => !vs.contains b.reg) }

/-- The nodes of an entry of the command queue capture what the passes ahead of them left in o registers (04 R79). -/
def Ahead.capture (a : Ahead) (o : Vector Word 8) : Ahead := { a with pk := { a.pk with nodes := a.pk.nodes.map (Node.capture o) } }

/-- A force point (04 R86). -/
def force (s : State) : State := forceFor none s

/-! ## Taking an exception (11 R285; 23 R393, R394) -/

/-- A fatal trap (23 R393): kinds 7, 8, A and B but for 0xBE, and imprecise traps of the hoop, sampling and fabric. -/
def fatal (code : BitVec 8) (imp : Bool) : Bool :=
  let k := code.toNat / 16
  let n := code.toNat % 16
  k == 7 || k == 8 || k == 10 || (k == 11 && code != 0xBE) || (imp && (n == 8 || n == 9 || n == 10))

/-- scause as trap entry writes it (02 Table 2.10). -/
def causeWord (code : BitVec 8) (imp kp : Bool) : Word :=
  BitVec.ofNat 64 (code.toNat + (if imp then 256 else 0) + (if kp then 512 else 0))

/-- Offset of an origin PC from the entry, in instructions (11 Table 11.8). -/
def origOf (pc entry : Word) : Word :=
  let d : Int := (pc.toNat : Int) - entry.toNat
  if 0 ≤ d ∧ d < 4 * 0x7FFFFF then BitVec.ofNat 64 (d.toNat / 4) else 0x7FFFFF

/-- The crew of a strand. -/
def State.crewOf? (s : State) (t : Strand) : Option Crew :=
  s.fw.crews.find? (fun c => c.cnum == t.br.cnum && c.pkt.ctx == t.br.ctx)

/-- The state with the crews mapped. -/
def State.mapCrews (s : State) (g : Crew → Crew) : State := { s with fw := { s.fw with crews := s.fw.crews.map g } }

/-- Whether a strand belongs to a crew. -/
def Strand.ofCrew (t : Strand) (c : Crew) : Bool := t.br.cnum == c.cnum && t.br.ctx == c.pkt.ctx

/-- A strand stopped by a kill: its held faults are dropped (23 R411 step 1). What its engines had under way is settled when
the kill completes. -/
def Strand.stop (t : Strand) : Strand := { t with run := (if t.run = .unbound then .unbound else .stopped), held := [] }

/-- Begins the kill of a crew (23 R411): its strands stop, and the record's cause is kept until every access is done. -/
def State.killCrew (s : State) (c : Crew) (k : BitVec 8 × Word × Word × Word) : State :=
  let stopIf := fun t : Strand => if t.ofCrew c then t.stop else t
  ({ s with st := stopIf s.st, others := s.others.map stopIf }).mapCrews
    (fun d => if d.cnum == c.cnum && d.pkt.ctx == c.pkt.ctx && d.kill.isNone then { d with kill := some k } else d)

/-- The strand's task is killed (02 R51, 23 R411): every strand of its crew stops at its instruction boundary. -/
def State.killTask (s : State) (k : BitVec 8 × Word × Word × Word) : State :=
  match s.crewOf? s.st with
  | some c => s.killCrew c k
  | none => { s with st := s.st.stop }

/-- The entry address of the strand's task, from which origin offsets count. -/
def State.entryOf (s : State) : Word :=
  match s.crewOf? s.st with
  | some c => c.pkt.entry
  | none => s.st.br.vec

/-- A trap that escalates (02 R51): the task is killed with the trap's own cause, address and element (23 R411). -/
def escalate (s : State) (t : TrapInfo) (imp : Bool) (pc : Word) : State :=
  s.killTask (t.code, t.stval, t.selem, origOf (if imp then t.sorig else pc) s.entryOf)

/-- The force of a trap entry, which does not wait; a pricking that a squash restored is not run again (23 R407). -/
def trapForce (s : State) : State := if s.st.vec.squashed then s else force s

/-- Trap entry (11 R285) after its force: supervisor mode at stvec with the saved registers written; in supervisor mode, or
with stvec zero, escalation. pc is what sepc receives. A RAMOQ that waited for its answer asks again. A stvec that is no multiple of 4 is taken as it stands, and
the fetch there takes 0x50 (log 74). -/
def trapEnter (s : State) (t : TrapInfo) (imp : Bool) (pc : Word) : State :=
  if s.sup || s.st.csr.stvec == 0 then escalate s t imp pc
  else
    let c := { s.st.csr with scause := causeWord t.code imp (fatal t.code imp), sepc := pc, stval := t.stval,
                             selem := t.selem, sorig := t.sorig }
    { s with st := { s.st with csr := c, sstat := { s.st.sstat with pmode := s.st.sstat.mode, mode := true },
                               pc := s.st.csr.stvec, resv := none, backEdge := false,
                               eng := { s.st.eng with query := none, barcAt := none, half := none } } }

/-- Trap entry (11 R285). -/
def trapEntry (s : State) (t : TrapInfo) (imp : Bool) (pc : Word) : State := trapEnter (trapForce s) t imp pc

/-- The word of an instruction, as stval receives it (23 Table 23.3). -/
def wordVal (i : Instr) : Word := ((encode i).getD 0).zeroExtend 64

/-- A precise trap of the instruction at pc, with the given stval. -/
def trapV (s : State) (code : BitVec 8) (stval : Word) : Out :=
  ok (trapEntry s { code := code, stval := stval, selem := 0, sorig := 0 } false s.st.pc)

/-- A precise trap of an instruction that names an element or a word: 0x47, 0x57 and 0x1A write it and the pc; every other code
writes 0 in both (23 R394). -/
def trapE (s : State) (code : BitVec 8) (stval : Word) (elem : Nat) : Out :=
  if code = 0x47 ∨ code = 0x57 ∨ code = 0x1A then
    ok (trapEntry s { code := code, stval := stval, selem := BitVec.ofNat 64 elem, sorig := s.st.pc } false s.st.pc)
  else trapV s code stval

/-- A precise trap of kind 0, 1, 2, 9, C or D: stval holds the instruction word (23 Table 23.3). -/
def trapI (s : State) (code : BitVec 8) (i : Instr) : Out := trapV s code (wordVal i)

/-! ## Completing an instruction (11 R278, R279; 04 R85) -/

/-- Where control goes after the instruction at pc completes without transferring it: the back-edges of the levels that
end there (11 R278). -/
def loopEnd (pc : Word) (ls : List LoopLvl) : List LoopLvl × Word × Bool :=
  match ls with
  | [] => ([], pc + 4, false)
  | l :: t =>
    if l.stop = pc then
      if l.index + 1 < l.count then ({ l with index := l.index + 1 } :: t, l.start, true)
      else let r := loopEnd pc t; (r.1, r.2.1, true)
    else (l :: t, pc + 4, false)

/-- The levels that hold the target of a transfer (11 R279). -/
def loopKeep (target : Word) (ls : List LoopLvl) : List LoopLvl :=
  match ls with
  | [] => []
  | l :: t => if l.start ≤ target ∧ target ≤ l.stop then l :: t else loopKeep target t

/-- An instruction counts towards the force of a due pricking (04 R85). -/
def Pricking.tally (p : Pricking) : Pricking := if p.due then { p with count := p.count + 1 } else p

/-- One instruction has issued: the count towards the due force (04 R85), and instret (05 R110). -/
def State.counted (s : State) : State :=
  { s with st := { s.st with
      instret := s.st.instret + 1
      vec := { s.st.vec with pk := s.st.vec.pk.tally, ahead := s.st.vec.ahead.map (fun a => { a with pk := a.pk.tally }) } } }

/-- The instruction at pc completes without transferring control. -/
def advance (s : State) : State :=
  let r := loopEnd s.st.pc s.st.loops
  let s := s.counted
  { s with st := { s.st with pc := r.2.1, loops := r.1, backEdge := r.2.2 } }

/-- The instruction completes and the strand goes on. -/
def retire (s : State) : Out := ok (advance s)

/-- Control moves to a target that is a multiple of 4. -/
def jumpTo (s : State) (target : Word) : State :=
  let s := s.counted
  { s with st := { s.st with pc := target, loops := loopKeep target s.st.loops, backEdge := false } }

/-- A taken branch or jump of state s, whose register effects stand in s': a target that is not a multiple of 4 takes
0x50 with no effect (05 R108). -/
def transfer (s s' : State) (target : Word) : Out :=
  if target.toNat % 4 = 0 then ok (jumpTo s' target) else trapV s 0x50 target

/-- The instruction waits: nothing issues in this step (02 R35). -/
def stall (s : State) : Out := ok s

/-! ## Return from an exception (11 R286) -/

/-- The effect of TRET in supervisor mode: kp = 1 kills the task; otherwise mode, pmode and pc are restored, and a held
pass is released to replay (23 R402), unless its own fault is yet to be delivered (23 R396). -/
def tretEffect (s : State) : Out :=
  let c := s.st.csr
  if c.scause.getLsbD 9 then
    ok (s.killTask (BitVec.ofNat 8 c.scause.toNat, c.stval, c.selem,
      origOf (if c.scause.getLsbD 8 then c.sorig else c.sepc) s.entryOf))
  else if c.sepc.toNat % 4 ≠ 0 then trapV s 0x50 c.sepc
  else
    let s := s.counted
    let s := s.setSStat { s.st.sstat with mode := s.st.sstat.pmode, pmode := false }
    let s := s.setPass (s.st.vec.pass.map (fun p => { p with held := p.held && s.st.held.any TrapInfo.ofPass }))
    ok { s with st := { s.st with pc := c.sepc, backEdge := false } }

/-! ## Waiting on x registers (09 R222, 11 R274) -/

/-- Whether a VLQ that waits has yet to write an x register: a pass that comes before it runs or is to start (06 R155). While the pass is
held it answers (23 R402). -/
def Vec.asks (v : Vec) (r : Nat) : Bool :=
  v.pass.any (fun p => !p.held && v.asked.any (fun a => a.1 == r &&
    (decide (p.serial < a.2) || v.ahead.any (fun q => q.force.any (fun f => decide (f.1 < a.2))))))

/-- Stands among the x registers of waiting instructions for vl, vtype and vstart, which a set-length that waits has yet to write (06 R153). -/
abbrev Vec.lengthAsked : Nat := 32

/-- Whether one of the registers is yet to be written by an MSAMP, a RAMO or a VLQ. -/
def State.waitsX (s : State) (rs : List (BitVec 5)) : Bool :=
  rs.any (fun r => r != 0 && (s.st.eng.pendX.contains r.toNat || s.st.vec.asks r.toNat))

/-! ## Package memory -/

/-- Who writes: the scalar path of the strand whose turn it is, an engine of it by its path class (11 Table 11.3), or another agent. -/
inductive Writer where
  | scalar
  | engine (cls : Nat)
  | outside
  deriving DecidableEq, Repr

/-- Whether a poisoned granule or word covers a key (24 R426, R429). -/
def State.poisonedAt (s : State) (k : Nat) : Bool := s.poison.any (fun p => decide (p.1 ≤ k) && decide (k < p.1 + p.2))

/-- The reservation of a strand after a store to a key (13 R330): another agent's store ends it; a store of another
path of the strand leaves SC free to fail. -/
def resvAfter (r : Option (Nat × Bool)) (own : Bool) (w : Writer) (k : Nat) : Option (Nat × Bool) :=
  match r with
  | none => none
  | some (line, b) =>
    if k / 64 ≠ line then some (line, b)
    else match own, w with
      | true, .scalar => some (line, b)
      | true, .engine _ => some (line, true)
      | _, _ => none

/-- The vector state with what its passes see of scalar stores after their force points changed: of the pass in flight, and of those
whose force point has gone by. -/
def Vec.reshade (v : Vec) (g : List Shade → List Shade) : Vec :=
  { v with
    pass := v.pass.map (fun p => { p with shadow := g p.shadow })
    ahead := v.ahead.map (fun a => if a.force.isSome then { a with shadow := g a.shadow } else a) }

/-- The vector state as a scalar store of a byte leaves it: the strand's passes go on seeing the byte that stood there (04 R94). -/
def Vec.shade (v : Vec) (serial k : Nat) (old : Byte) : Vec :=
  v.reshade (fun l => if l.any (fun c => c.key == k) then l else { key := k, at_ := serial, byte := old } :: l)

/-- The vector state after another agent's write: what a pass sees there is no older than that (13 R321, R322). -/
def Vec.freshen (v : Vec) (cells : List Host.Cell) : Vec :=
  v.reshade (fun l => l.map (fun d => match cells.find? (fun c => c.1 == d.key) with | some c => { d with byte := c.2 } | none => d))

/-- Writes one byte at a key; for a scalar store the old byte goes to the shadows of the strand's passes (04 R94). -/
def State.putByte (s : State) (w : Writer) (k : Nat) (b : Byte) : State :=
  { s with
    mem := s.mem.put k b
    st := { s.st with resv := resvAfter s.st.resv (w ≠ .outside) w k,
                      vec := if w = .scalar then s.st.vec.shade s.st.eng.serial k (s.mem.get k) else s.st.vec }
    others := s.others.map (fun t => { t with resv := resvAfter t.resv false w k }) }

/-- Whether a write of these cells only partly covers a poisoned HBM granule or SRAM word: its bytes there are dropped, and
the poison stays (24 R426, R429). A partial write to a poisoned host line merges its bytes (12 R315). -/
def State.dropsAt (s : State) (cells : List Host.Cell) (k : Nat) : Bool :=
  s.poison.any (fun p => (decide (k < 2 ^ 55) || decide (2 ^ 56 ≤ k)) && decide (p.1 ≤ k) && decide (k < p.1 + p.2) &&
    !((List.range p.2).all (fun i => cells.any (fun c => c.1 == p.1 + i))))

/-- Cells in runs that lie in one aligned 8-byte word each. -/
def wordRuns (cells : List Host.Cell) : List (List Host.Cell) :=
  cells.foldr (fun c acc =>
    match acc with
    | (d :: t) :: rest => if d.1 / 8 = c.1 / 8 then (c :: d :: t) :: rest else [c] :: (d :: t) :: rest
    | _ => [[c]]) []

/-- The writer as the log of what caches may still hold names it. -/
def State.writerNo (s : State) (w : Writer) : Nat :=
  match w with
  | .scalar => 8 * s.st.fe + 1
  | .engine c => 8 * s.st.fe + c % 8 + 1
  | .outside => 0

/-- What a write of cells overwrites, word by word, for the log of what caches may still hold (log 10). -/
def State.overwritten (s : State) (w : Writer) (cells : List Host.Cell) : List Overwrite :=
  (wordRuns ((cells.filter (fun c => s.mem.get c.1 != c.2)).map (fun c => (c.1, s.mem.get c.1)))).map (fun r => { by_ := s.writerNo w, cells := r })

/-- Of the bytes that paths do not observe yet, those that a test keeps (11 R262). -/
def Eng.observe (e : Eng) (keep : Unseen → Host.Cell → Bool) : Eng :=
  { e with unseen := (e.unseen.map (fun u => { u with cells := u.cells.filter (keep u) })).filter (fun u => !u.cells.isEmpty) }

/-- A place of the tile space among the keys of what paths do not observe yet: above all memory. -/
def tileKey (off : Nat) : Nat := 2 ^ 200 + off

/-- A byte of memory as a path of the strand reads it: a completed copy's bytes are observed or not until a fence (11 R262). -/
def State.byteFor (s : State) (cls k : Nat) : Byte :=
  match s.st.eng.unseen.findSome? (fun u => if u.cls = cls then u.cells.find? (fun c => c.1 == k) else none) with
  | some c => c.2
  | none => s.mem.get k

/-- Another agent writes bytes: no path of the strand reads what it has not observed there yet as older than that (11 R269; 13 R322). -/
def Strand.passedBy (t : Strand) (cells : List Host.Cell) : Strand :=
  { t with eng := if t.eng.unseen.isEmpty then t.eng else t.eng.observe (fun _ c => !cells.any (fun d => d.1 == c.1)),
           vec := t.vec.freshen cells }

/-- After a write, which strands are passed by: every other one, and this one too where the outside world writes. -/
def State.passBy (s : State) (w : Writer) (cells : List Host.Cell) : State :=
  { s with st := if w = .outside then s.st.passedBy cells else s.st, others := s.others.map (fun t => t.passedBy cells) }

/-- After a write of the strand's own, its paths observe the bytes it wrote. -/
def State.unhide (s : State) (w : Writer) (cells : List Host.Cell) : State :=
  if s.st.eng.unseen.isEmpty ∨ w = .outside then s else s.setEng (s.st.eng.observe (fun _ c => !cells.any (fun d => d.1 == c.1)))

/-- Writes cells as one access: a write that covers a poisoned granule or word clears its poison; a narrower one is
dropped there. -/
def State.write (s : State) (w : Writer) (cells : List Host.Cell) : State :=
  let kept := cells.filter (fun c => !s.dropsAt cells c.1)
  let s := { (s.passBy w kept).unhide w kept with
    wlog := s.overwritten w kept ++ s.wlog
    poison := s.poison.filter (fun p => !((List.range p.2).all (fun i => cells.any (fun c => c.1 == p.1 + i)))) }
  kept.foldl (fun s c => s.putByte w c.1 c.2) s

/-- Whether a write of these cells meets poison it does not clear (24 R429). -/
def State.meetsPoison (s : State) (cells : List Host.Cell) : Bool := cells.any (fun c => s.dropsAt cells c.1)

end Sys2Proof.Machine
end

