-- ==== Sys2Proof/Machine/Flags.lean ====
section
/-! DEFINITION. Machine/Flags.lean: floating-point values, rounding and the flags it raises (03 R58 to R64). Exact
operations on values; one rounding at the end. -/

namespace Sys2Proof.Machine

/-! ## Flags (02 Table 2.7, 03 R60) -/

/-- A set of flags: NV, DZ, OF, UF, NX in bits 4 to 0. -/
abbrev FFlags := BitVec 5

/-- Invalid operation. -/
def fNV : FFlags := 16
/-- Division by zero. -/
def fDZ : FFlags := 8
/-- Overflow. -/
def fOF : FFlags := 4
/-- Underflow. -/
def fUF : FFlags := 2
/-- Inexact. -/
def fNX : FFlags := 1

/-- A flag or none. -/
def flagIf (b : Bool) (f : FFlags) : FFlags := if b then f else 0

/-! ## Formats and values (03 R58, Table 3.2) -/

/-- A floating-point layout: exponent and fraction bits. -/
structure FF where
  eb : Nat
  fb : Nat
  deriving DecidableEq, Repr

/-- bfloat16. -/
def bf16 : FF := ⟨8, 7⟩
/-- binary16. -/
def fp16 : FF := ⟨5, 10⟩
/-- binary32. -/
def fp32 : FF := ⟨8, 23⟩
/-- binary64. -/
def fp64 : FF := ⟨11, 52⟩

/-- Exponent bias. -/
def FF.bias (f : FF) : Nat := 2 ^ (f.eb - 1) - 1

/-- Width in bits. -/
def FF.width (f : FF) : Nat := 1 + f.eb + f.fb

/-- The canonical NaN (Table 3.2). -/
def FF.nan (f : FF) : Nat := (2 ^ f.eb - 1) * 2 ^ f.fb + 2 ^ (f.fb - 1)

/-- Infinity of a sign. -/
def FF.inf (f : FF) (neg : Bool) : Nat := (if neg then 2 ^ (f.eb + f.fb) else 0) + (2 ^ f.eb - 1) * 2 ^ f.fb

/-- Zero of a sign. -/
def FF.zero (f : FF) (neg : Bool) : Nat := if neg then 2 ^ (f.eb + f.fb) else 0

/-- The largest finite value of a sign. -/
def FF.big (f : FF) (neg : Bool) : Nat := f.inf neg - 1

/-- A floating-point value: a NaN, signalling or not; an infinity; or (−1)^neg · m · 2^e exactly. -/
inductive FV where
  | nan (sig : Bool)
  | inf (neg : Bool)
  | fin (neg : Bool) (m : Nat) (e : Int)
  deriving DecidableEq, Repr

/-- The value of a bit pattern; subnormals are kept (03 R58). -/
def unpack (f : FF) (bits : Nat) : FV :=
  let neg := bits / 2 ^ (f.eb + f.fb) % 2 == 1
  let ex := bits / 2 ^ f.fb % 2 ^ f.eb
  let fr := bits % 2 ^ f.fb
  if ex = 2 ^ f.eb - 1 then
    if fr = 0 then .inf neg else .nan (fr < 2 ^ (f.fb - 1))
  else if ex = 0 then .fin neg fr (1 - (f.bias : Int) - f.fb)
  else .fin neg (2 ^ f.fb + fr) ((ex : Int) - f.bias - f.fb)

/-- A value is a NaN. -/
def FV.isNan : FV → Bool
  | .nan _ => true
  | _ => false

/-- A value is a signalling NaN. -/
def FV.isSig : FV → Bool
  | .nan s => s
  | _ => false

/-- The value with its sign changed. -/
def FV.negate : FV → FV
  | .nan s => .nan s
  | .inf n => .inf (!n)
  | .fin n m e => .fin (!n) m e

/-! ## Rounding (03 R60 to R62, Table 3.3) -/

/-- Whether the magnitude r + (fraction) rounds up: below, at or above half is given by comparing twice the remainder with
the unit, a sticky bit counting as more. -/
def roundsUp (rm : Nat) (neg : Bool) (r rem unit : Nat) (sticky : Bool) : Bool :=
  let inexact := rem != 0 || sticky
  let gt := decide (2 * rem > unit) || (2 * rem == unit && sticky)
  let eq := 2 * rem == unit && !sticky && rem != 0
  match rm with
  | 0 => gt || (eq && r % 2 == 1)
  | 1 => false
  | 2 => neg && inexact
  | 3 => !neg && inexact
  | _ => gt || eq

/-- m · 2^e, with more below when sticky, in units of 2^q, rounded: the integer and whether it was inexact. -/
def roundAt (rm : Nat) (neg : Bool) (m : Nat) (e q : Int) (sticky : Bool) : Nat × Bool :=
  if q ≤ e then
    let r := m * 2 ^ (e - q).toNat
    (if roundsUp rm neg r 0 1 sticky then r + 1 else r, sticky)
  else
    let unit := 2 ^ (q - e).toNat
    let r := m / unit
    let rem := m % unit
    (if roundsUp rm neg r rem unit sticky then r + 1 else r, rem != 0 || sticky)

/-- round_fp (03 R61, R62): the bits and flags of m · 2^e (a little more in magnitude when sticky) in a format. Where
sticky is set, m has more significant bits than the format. -/
def roundFp (f : FF) (rm : Nat) (sat : Bool) (neg : Bool) (m : Nat) (e : Int) (sticky : Bool) : Nat × FFlags :=
  if m = 0 ∧ !sticky then (f.zero neg, 0)
  else
    let top : Int := (Nat.log2 m : Int) + e
    let emin : Int := 1 - (f.bias : Int)
    let q := max (top - f.fb) (emin - f.fb)
    let (r, inexact) := roundAt rm neg m e q sticky
    let carry := decide (2 ^ (f.fb + 1) ≤ r)
    let r' := if carry then 2 ^ f.fb else r
    let ex : Int := (if carry then q + 1 else q) + f.fb + f.bias
    let free := (roundAt rm neg m e (top - f.fb) sticky).1
    let tiny := decide (top < emin) && !(top == emin - 1 && decide (2 ^ (f.fb + 1) ≤ free))
    let s := f.zero neg
    if r' ≥ 2 ^ f.fb ∧ ex ≥ 2 ^ f.eb - 1 then
      let toInf := !sat && (rm == 0 || rm == 4 || (rm == 2 && neg) || (rm == 3 && !neg))
      (if toInf then f.inf neg else f.big neg, fOF ||| fNX)
    else
      let bits := if r' < 2 ^ f.fb then r' else ex.toNat * 2 ^ f.fb + (r' - 2 ^ f.fb)
      (s + bits, flagIf inexact fNX ||| flagIf (tiny && inexact) fUF)

/-- A value as a format's bits, rounded once; a NaN becomes the canonical one (03 R59). -/
def packFp (f : FF) (rm : Nat) (sat : Bool) (v : FV) : Nat × FFlags :=
  match v with
  | .nan s => (f.nan, flagIf s fNV)
  | .inf n => (f.inf n, 0)
  | .fin n m e => roundFp f rm sat n m e false

/-! ## Exact operations -/

/-- The value of a signed integer times 2^e; zero takes the given sign. -/
def fvInt (i : Int) (e : Int) (zeroNeg : Bool) : FV :=
  if i = 0 then .fin zeroNeg 0 e else .fin (i < 0) i.natAbs e

/-- m · 2^e in units of 2^q, for q ≤ e. -/
def scaled (neg : Bool) (m : Nat) (e q : Int) : Int :=
  let v : Int := m * 2 ^ (e - q).toNat
  if neg then -v else v

/-- The NaN outcome of an operation on a, b: signalling inputs raise NV (03 R59). -/
def nanOf (sig : Bool) : FV × FFlags := (.nan false, flagIf sig fNV)

/-- Exact sum; the sign of an exact zero is IEEE 754's under rm. -/
def fvAdd (rm : Nat) (a b : FV) : FV × FFlags :=
  match a, b with
  | .nan s, y => nanOf (s || y.isSig)
  | x, .nan s => nanOf (s || x.isSig)
  | .inf n, .inf m => if n = m then (.inf n, 0) else (.nan false, fNV)
  | .inf n, _ => (.inf n, 0)
  | _, .inf n => (.inf n, 0)
  | .fin n m e, .fin n' m' e' =>
    if m = 0 ∧ m' = 0 then (.fin (if n = n' then n else rm == 2) 0 e, 0)
    else
      let q := min e e'
      (fvInt (scaled n m e q + scaled n' m' e' q) q (rm == 2), 0)

/-- Exact product. -/
def fvMul (a b : FV) : FV × FFlags :=
  match a, b with
  | .nan s, y => nanOf (s || y.isSig)
  | x, .nan s => nanOf (s || x.isSig)
  | .inf n, .inf m => (.inf (n != m), 0)
  | .inf n, .fin n' m _ => if m = 0 then (.nan false, fNV) else (.inf (n != n'), 0)
  | .fin n m _, .inf n' => if m = 0 then (.nan false, fNV) else (.inf (n != n'), 0)
  | .fin n m e, .fin n' m' e' => (.fin (n != n') (m * m') (e + e'), 0)

/-- Exact a × b + c. ∞ × 0 is invalid even when c is a quiet NaN (log 14). -/
def fvFma (rm : Nat) (a b c : FV) : FV × FFlags :=
  let p := fvMul a b
  let r := fvAdd rm p.1 c
  (r.1, p.2 ||| r.2)

/-- Sum rounded once. -/
def fAdd (f : FF) (rm : Nat) (a b : FV) : Nat × FFlags :=
  let r := fvAdd rm a b
  let p := packFp f rm false r.1
  (p.1, r.2 ||| p.2)

/-- Product rounded once. -/
def fMul (f : FF) (rm : Nat) (a b : FV) : Nat × FFlags :=
  let r := fvMul a b
  let p := packFp f rm false r.1
  (p.1, r.2 ||| p.2)

/-- a × b + c rounded once. -/
def fFma (f : FF) (rm : Nat) (a b c : FV) : Nat × FFlags :=
  let r := fvFma rm a b c
  let p := packFp f rm false r.1
  (p.1, r.2 ||| p.2)

/-- Quotient rounded once. -/
def fDiv (f : FF) (rm : Nat) (a b : FV) : Nat × FFlags :=
  match a, b with
  | .nan s, y => (f.nan, flagIf (s || y.isSig) fNV)
  | x, .nan s => (f.nan, flagIf (s || x.isSig) fNV)
  | .inf _, .inf _ => (f.nan, fNV)
  | .inf n, .fin n' _ _ => (f.inf (n != n'), 0)
  | .fin n _ _, .inf n' => (f.zero (n != n'), 0)
  | .fin n m e, .fin n' m' e' =>
    if m' = 0 then (if m = 0 then (f.nan, fNV) else (f.inf (n != n'), fDZ))
    else if m = 0 then (f.zero (n != n'), 0)
    else
      let k := f.fb + 4 + Nat.log2 m'
      let num := m * 2 ^ k
      roundFp f rm false (n != n') (num / m') (e - e' - k) (num % m' != 0)

/-- Integer square root, bit by bit from bit i down. -/
def isqrtFrom (n : Nat) (i r : Nat) : Nat :=
  match i with
  | 0 => if (r + 1) * (r + 1) ≤ n then r + 1 else r
  | j + 1 => isqrtFrom n j (if (r + 2 ^ (j + 1)) * (r + 2 ^ (j + 1)) ≤ n then r + 2 ^ (j + 1) else r)

/-- Integer square root. -/
def isqrt (n : Nat) : Nat := isqrtFrom n (Nat.log2 n / 2 + 1) 0

/-- Square root rounded once. -/
def fSqrt (f : FF) (rm : Nat) (a : FV) : Nat × FFlags :=
  match a with
  | .nan s => (f.nan, flagIf s fNV)
  | .inf n => if n then (f.nan, fNV) else (f.inf false, 0)
  | .fin n m e =>
    if m = 0 then (f.zero n, 0)
    else if n then (f.nan, fNV)
    else
      let k := 2 * f.fb + 8
      let k := if (e - k) % 2 = 0 then k else k + 1
      let v := m * 2 ^ k
      let r := isqrt v
      roundFp f rm false false r ((e - k) / 2) (r * r != v)

/-! ## Comparison -/

/-- Order of two values that are no NaN: below, equal or above. -/
def fvCmp (a b : FV) : Ordering :=
  match a, b with
  | .inf n, .inf m => if n = m then .eq else if n then .lt else .gt
  | .inf n, _ => if n then .lt else .gt
  | _, .inf n => if n then .gt else .lt
  | .fin n m e, .fin n' m' e' =>
    let q := min e e'
    let x := scaled n m e q
    let y := scaled n' m' e' q
    if x < y then .lt else if x = y then .eq else .gt
  | _, _ => .eq

/-- Equal; a NaN is unordered. -/
def fvEq (a b : FV) : Bool := !a.isNan && !b.isNan && fvCmp a b == .eq

/-- Less than. -/
def fvLt (a b : FV) : Bool := !a.isNan && !b.isNan && fvCmp a b == .lt

/-- At most. -/
def fvLe (a b : FV) : Bool := !a.isNan && !b.isNan && fvCmp a b != .gt

/-- A negative value, −0 included; a NaN is not. -/
def FV.isNeg : FV → Bool
  | .nan _ => false
  | .inf n => n
  | .fin n _ _ => n

/-! ## Integers (03 R63) -/

/-- round_int of a finite value (03 R61): the integer and whether it was inexact. -/
def roundInt (rm : Nat) (neg : Bool) (m : Nat) (e : Int) : Int × Bool :=
  let r := roundAt rm neg m e 0 false
  (if neg then -(r.1 : Int) else r.1, r.2)

/-- Float to integer (Table 3.4): rounded, then clamped to lo … hi; NaN gives 0; NV replaces NX out of range. -/
def fvToInt (rm : Nat) (lo hi : Int) (v : FV) : Int × FFlags :=
  match v with
  | .nan _ => (0, fNV)
  | .inf n => (if n then lo else hi, fNV)
  | .fin n m e =>
    let r := roundInt rm n m e
    if r.1 < lo then (lo, fNV) else if hi < r.1 then (hi, fNV) else (r.1, flagIf r.2 fNX)

/-! ## exp2 and log2, correctly rounded (03 R64)

An interval with P bits after the point encloses the exact value; where both ends round alike, that is the result. The
precision grows until they do (log 20). -/

/-- atanh(num / den) · 2^P from below, terms n onwards: each term is truncated. -/
def atanhSum (p num den : Nat) (n fuel : Nat) (pow : Nat) : Nat :=
  match fuel with
  | 0 => 0
  | k + 1 => if pow = 0 then 0 else pow / (2 * n + 1) + atanhSum p num den (n + 1) k (pow * num / den * num / den)

/-- atanh(num / den) · 2^P from below. -/
def atanhLo (p num den : Nat) : Nat := atanhSum p num den 0 (p + 2) (num * 2 ^ p / den)

/-- ln 2 · 2^P from below: 2 · atanh(1/3). -/
def ln2Lo (p : Nat) : Nat := 2 * atanhLo p 1 3

/-- exp(y / 2^P) · 2^P from below by its series, terms n onwards, for 0 ≤ y < 2^P. -/
def expSum (p y : Nat) (n fuel : Nat) (term : Nat) : Nat :=
  match fuel with
  | 0 => 0
  | k + 1 => if term = 0 then 0 else term + expSum p y (n + 1) k (term * y / 2 ^ p / (n + 1))

/-- The interval's lower end for 2^(F / 2^s) · 2^P, and a bound on its error. -/
def exp2Lo (p frac s : Nat) : Nat :=
  let x := frac * 2 ^ p / 2 ^ s
  let y := x * ln2Lo p / 2 ^ p
  expSum p y 0 (p + 2) (2 ^ p)

/-- Slack of the intervals above in units of 2^−P: more than the sum of all truncations. -/
def slack (p : Nat) : Nat := 16 * p + 64

/-- Rounds an interval from lo to hi, in units of 2^(e): the result when both ends agree. -/
def settle (f : FF) (rm : Nat) (neg : Bool) (lo hi : Nat) (e : Int) : Option (Nat × FFlags) :=
  let a := roundFp f rm false neg lo e true
  let b := roundFp f rm false neg hi e true
  if a = b then some a else none

/-- The first precision that settles. -/
def firstSettled (ps : List Nat) (g : Nat → Option (Nat × FFlags)) (dflt : Nat × FFlags) : Nat × FFlags :=
  match ps with
  | [] => dflt
  | p :: t =>
    match g p with
    | some r => r
    | none => firstSettled t g dflt

/-- Precisions tried. -/
def precisions : List Nat := [96, 192, 384, 768]

/-- VFEXP2 of a value (03 R64). -/
def fExp2 (f : FF) (rm tick : Nat) (bits : Nat) : Nat × FFlags :=
  match unpack f bits with
  | .nan s => (f.nan, flagIf s fNV)
  | .inf n => if n then (f.zero false, 0) else (f.inf false, 0)
  | .fin n m e =>
    if m = 0 then packFp f rm false (.fin false 1 0)
    else
      let top : Int := (Nat.log2 m : Int) + e
      if top ≥ f.eb + 1 then
        (if n then roundFp f rm false false (2 ^ (f.fb + 3)) (-(2 ^ (f.eb + 2) : Int)) true
         else roundFp f rm false false 1 (2 ^ (f.eb + 2)) false)
      else if top < -((f.fb : Int) + 10) then
        (if n then roundFp f rm false false (2 ^ (f.fb + 9) - 1) (-((f.fb : Int) + 9)) true
         else roundFp f rm false false (2 ^ (f.fb + 9)) (-((f.fb : Int) + 9)) true)
      else
        let s := (-e).toNat
        let v : Int := scaled n m e (-(s : Int))
        let whole := v / 2 ^ s
        let frac := (v % 2 ^ s).toNat
        if frac = 0 then packFp f rm false (.fin false 1 whole)
        else firstSettled precisions
          (fun p => let lo := exp2Lo p frac s; settle f rm false lo (lo + slack p) (whole - p))
          ((Config.unsettled 0 (BitVec.ofNat 64 bits) tick).toNat % 2 ^ f.width, fNX)

/-- VFLOG2 of a value (03 R64). -/
def fLog2 (f : FF) (rm tick : Nat) (bits : Nat) : Nat × FFlags :=
  match unpack f bits with
  | .nan s => (f.nan, flagIf s fNV)
  | .inf n => if n then (f.nan, fNV) else (f.inf false, 0)
  | .fin n m e =>
    if m = 0 then (f.inf true, fDZ)
    else if n then (f.nan, fNV)
    else
      let k := Nat.log2 m
      let whole : Int := (k : Int) + e
      if m = 2 ^ k then packFp f rm false (fvInt whole 0 false)
      else firstSettled precisions
        (fun p =>
          let ln := 2 * atanhLo p (m - 2 ^ k) (m + 2 ^ k)
          let lo : Int := ln * 2 ^ p / (ln2Lo p + slack p) + whole * 2 ^ p
          let hi : Int := (ln + slack p) * 2 ^ p / ln2Lo p + 1 + whole * 2 ^ p
          if 0 < lo then settle f rm false lo.toNat hi.toNat (-(p : Int))
          else if hi < 0 then settle f rm true (-hi).toNat (-lo).toNat (-(p : Int))
          else none)
        ((Config.unsettled 1 (BitVec.ofNat 64 bits) tick).toNat % 2 ^ f.width, fNX)

end Sys2Proof.Machine
end

