-- ==== Sys2Proof/Machine/Operands.lean ====
section
/-! DEFINITION. Machine/Operands.lean: the operand forms of the vector formats (05 R115 to R118), element types and
memory formats with their conversions (03 R63, R65 to R67), and the capture of operands at noting (04 R79). -/

namespace Sys2Proof.Machine

/-! ## Types: 1 i8, 2 i16, 3 i32, 4 i64, 5 bf16, 6 fp16, 7 fp32, 8 fp64, 9 to 11 PB, 12 n8, 13 n16, 14 n32 -/

/-- The layout of a floating-point type. -/
def ffOf (ty : Nat) : FF :=
  match ty with
  | 5 => bf16 | 6 => fp16 | 7 => fp32 | _ => fp64

/-- Width in bits of an element type or memory format other than PB. -/
def tyWidth (ty : Nat) : Nat :=
  match ty with
  | 1 => 8 | 12 => 8 | 2 => 16 | 5 => 16 | 6 => 16 | 13 => 16 | 3 => 32 | 7 => 32 | 14 => 32 | _ => 64

/-- The integer a pattern of an integer or n type stands for. -/
def tyInt (ty x : Nat) : Int := if 12 ≤ ty then ((x % 2 ^ tyWidth ty : Nat) : Int) else sgn (tyWidth ty) x

/-- Range of an integer or n type. -/
def tyRange (ty : Nat) : Int × Int :=
  if 12 ≤ ty then (0, 2 ^ tyWidth ty - 1) else (-(2 ^ (tyWidth ty - 1)), 2 ^ (tyWidth ty - 1) - 1)

/-- i clamped to lo … hi. -/
def clampInt (lo hi i : Int) : Int := if i < lo then lo else if hi < i then hi else i

/-- A floating-point value delivered in a type other than PB (Table 3.4). -/
def cvtV (v : FV) (ty rm : Nat) (sat : Bool) : Nat × FFlags :=
  if etFloat ty then packFp (ffOf ty) rm sat v
  else
    let r := tyRange ty
    let p := fvToInt rm r.1 r.2 v
    (wrap (tyWidth ty) p.1, p.2)

/-- cvt (03 R63, Table 3.4) between types other than PB. Under sat a value is clamped on its way into a narrower integer and
into every n type; equal widths clamp as the narrower row does (log 15). -/
def cvt (x src ty rm : Nat) (sat : Bool) : Nat × FFlags :=
  if etFloat src then cvtV (unpack (ffOf src) (x % 2 ^ tyWidth src)) ty rm sat
  else
    let i := tyInt src x
    if etFloat ty then packFp (ffOf ty) rm sat (fvInt i 0 false)
    else if (tyWidth src < tyWidth ty ∧ ty < 12) ∨ !sat then (wrap (tyWidth ty) i, 0)
    else
      let r := tyRange ty
      (wrap (tyWidth ty) (clampInt r.1 r.2 i), 0)

/-- cvt of R140: equal types are copied, a floating-point NaN made canonical. -/
def cvtElem (x src ty rm : Nat) (sat : Bool) : Nat × FFlags :=
  if src = ty ∧ !etFloat src then (x % 2 ^ tyWidth src, 0) else cvt x src ty rm sat

/-! ## PB blocks (03 R65 to R67) -/

/-- k of a PB format. -/
def pbK (mf : Nat) : Nat :=
  match mf with
  | 9 => 2 | 10 => 4 | _ => 7

/-- pb_decode (03 R66): element i of a block. -/
def pbDecode (blk k i : Nat) : FV :=
  let e := blk % 256
  let f := blk / 2 ^ (16 + i * (k + 1)) % 2 ^ (k + 1)
  let q := sgn (k + 1) f
  let t := blk / 2 ^ (8 + 2 * (i / 4)) % 4
  let nz := f == 2 ^ k
  if e = 0 then .fin nz 0 0
  else if e = 255 then (if q = 0 then .nan false else .inf (q < 0))
  else if nz then .fin true 0 0
  else fvInt q ((e : Int) - 127 - t - (k - 1)) false

/-- mag of R67: |round_int(x · 2^(k − 1 + 127 + t − E))| of a finite value. -/
def pbMag (rm e t k : Nat) (v : FV) : Nat :=
  match v with
  | .fin n m x => (roundInt rm n m (x + k - 1 + 127 + t - e)).1.natAbs
  | _ => 0

/-- Whether a finite value is the field's value exactly. -/
def pbExact (e t k : Nat) (q : Nat) (v : FV) : Bool :=
  match v with
  | .fin n m x =>
    let y := x + k - 1 + 127 + t - (e : Int)
    let z := min y 0
    scaled n m y z == (if n then -(q : Int) else q) * 2 ^ (-z).toNat
  | _ => true

/-- floor(log2 |x|) of a finite non-zero value. -/
def fvTop (v : FV) : Int :=
  match v with
  | .fin _ m e => (Nat.log2 m : Int) + e
  | _ => 0

/-- |a| < |b| of finite values. -/
def magLt (a b : FV) : Bool :=
  match a, b with
  | .fin _ m e, .fin _ m' e' =>
    let q := min e e'
    decide (scaled false m e q < scaled false m' e' q)
  | _, _ => false

/-- The magnitude of a value. -/
def FV.abs : FV → FV
  | .nan s => .nan s
  | .inf _ => .inf false
  | .fin _ m e => .fin false m e

/-- Zero of either sign. -/
def FV.isZero : FV → Bool
  | .fin _ m _ => m == 0
  | _ => false

/-- A finite value. -/
def FV.isFin : FV → Bool
  | .fin .. => true
  | _ => false

/-- The quad shift of R67: the largest s at which every magnitude fits, or 0. -/
def pbShift (rm e k : Nat) (quad : List FV) : Nat :=
  ([3, 2, 1].find? (fun s => quad.all (fun v => decide (pbMag rm e s k v ≤ 2 ^ k - 1)))).getD 0

/-- A block from its exponent, shifts and fields. -/
def pbPack (e k : Nat) (ts fs : List Nat) : Nat :=
  e + (ts.zipIdx.foldl (fun a p => a + p.1 * 2 ^ (8 + 2 * p.2)) 0) +
    fs.zipIdx.foldl (fun a p => a + p.1 % 2 ^ (k + 1) * 2 ^ (16 + p.2 * (k + 1))) 0

/-- pb_encode (03 R67): a block of 16 values. -/
def pbEncode (rm k : Nat) (xs : List FV) : Nat × FFlags :=
  let mmax := 2 ^ k - 1
  if xs.any (fun v => !v.isFin) then
    (pbPack 255 k [0, 0, 0, 0] (xs.map (fun v => match v with | .inf n => (if n then 2 ^ (k + 1) - 1 else 1) | _ => 0)),
     flagIf (xs.any (fun v => v.isFin || v.isSig)) fNV)
  else
    let amax := xs.foldl (fun a v => if magLt a v then v.abs else a) (.fin false 0 0)
    if amax.isZero then (pbPack 0 k [0, 0, 0, 0] (xs.map (fun v => if v.isNeg then 2 ^ k else 0)), 0)
    else
      let e0 := (clampInt 1 254 (fvTop amax + 127)).toNat
      let e := if e0 < 254 ∧ pbMag rm e0 0 k amax > mmax then e0 + 1 else e0
      let ts := (List.range 4).map (fun j => pbShift rm e k (xs.drop (4 * j) |>.take 4))
      let one := fun (p : FV × Nat) =>
        let t := ts.getD (p.2 / 4) 0
        let m := pbMag rm e t k p.1
        let above := decide (m > mmax)
        let q := if above then mmax else m
        let f := if q = 0 then (if p.1.isNeg then 2 ^ k else 0) else if p.1.isNeg then 2 ^ (k + 1) - q else q
        (f, flagIf above (fOF ||| fNX) ||| flagIf (q == 0 && !p.1.isZero) fUF ||| flagIf (!pbExact e t k q p.1) fNX)
      let r := xs.zipIdx.map one
      (pbPack e k ts (r.map Prod.fst), r.foldl (fun a p => a ||| p.2) 0)

/-- A value of an element type as pb_encode's input. -/
def etValue (et x : Nat) : FV :=
  if etFloat et then unpack (ffOf et) (x % 2 ^ tyWidth et) else fvInt (tyInt et x) 0 false

/-! ## Operand forms (05 R115 to R117) -/

/-- An imm5 for the element type: converted exactly under a floating-point type, else sign-extended (05 R115). -/
def imm5 (float : Bool) (et : Nat) (b : BitVec 5) : Word :=
  let i := b.toInt
  if float then BitVec.ofNat 64 (packFp (ffOf et) 0 false (fvInt i 0 false)).1 else wordOf i

/-- A v or k name as a source: pending on a node, or resident (04 R79). -/
def vSrc (p : Pricking) (n : BitVec 5) : Src :=
  match p.vb[n.toNat]'n.isLt with
  | some (slot, part) => .node slot part
  | none => .vreg n.toNat

/-- A k name as a source. -/
def kSrc (p : Pricking) (n : Fin 8) : Src :=
  match p.kb[n] with
  | some (slot, part) => .node slot part
  | none => .kreg n

/-- last as a source; void is none. -/
def lastSrc (p : Pricking) : Option Src := p.last.map (fun s => .node s 0)

/-- Operand A of a V-format word: v[a], or last when ak = 1 (05 R115). -/
def opA (p : Pricking) (f : VF) : Option Src := if f.ak then lastSrc p else some (vSrc p f.a)

/-- Operand B of a V-format word; float says whether an imm5 is converted to et (05 R115). -/
def opB (s : State) (float : Bool) (f : VF) : Src :=
  match f.bk.toNat with
  | 0 => vSrc s.st.vec.pk f.b
  | 1 => .scalar (s.x f.b)
  | 2 => .scalar (s.o (low3 f.b))
  | _ => .scalar (imm5 float (vtEt s.st.vec.vtype) f.b)

/-- Whether the word reads an o register that a pending reduction targets (Table 4.2). -/
def opBForces (p : Pricking) (f : VF) : Bool := f.bk == 2 && p.redTargets (low3 f.b)

/-- The x registers a V-format word names. -/
def vfX (f : VF) : List (BitVec 5) := if f.bk = 1 then [f.b] else []

end Sys2Proof.Machine
end

