-- ==== Sys2Proof/Machine/Elem.lean ====
section
/-! DEFINITION. Machine/Elem.lean: what one node of a pass computes from its operands (06 R129 to R151, 08 R196 to R198,
03 R68 and R69, 07 R166 and R170), and the generator (06 R144, R145). -/

namespace Sys2Proof.Machine

/-! ## Integer slots (06 Table 6.1, Table 6.2; 03 R57) -/

/-- Signed quotient of w-bit patterns (03 Table 3.1). -/
def divS (w a b : Nat) : Nat := if b % 2 ^ w = 0 then 2 ^ w - 1 else wrap w ((sgn w a).tdiv (sgn w b))

/-- Unsigned quotient. -/
def divU (w a b : Nat) : Nat := if b % 2 ^ w = 0 then 2 ^ w - 1 else a % 2 ^ w / (b % 2 ^ w)

/-- Signed remainder. -/
def remS (w a b : Nat) : Nat := if b % 2 ^ w = 0 then a % 2 ^ w else wrap w ((sgn w a).tmod (sgn w b))

/-- Unsigned remainder. -/
def remU (w a b : Nat) : Nat := if b % 2 ^ w = 0 then a % 2 ^ w else a % 2 ^ w % (b % 2 ^ w)

/-- i clamped to the signed range of w bits. -/
def clampS (w : Nat) (i : Int) : Nat := wrap w (clampInt (-(2 ^ (w - 1))) (2 ^ (w - 1) - 1) i)

/-- i clamped to the unsigned range of w bits. -/
def clampU (w : Nat) (i : Int) : Nat := wrap w (clampInt 0 (2 ^ w - 1) i)

/-- Leading zero bits of a w-bit pattern. -/
def clzOf (w a : Nat) : Nat := if a % 2 ^ w = 0 then w else w - 1 - Nat.log2 (a % 2 ^ w)

/-- Set bits among the low w bits. -/
def popOf (w a : Nat) : Nat := (List.range w).foldl (fun c j => c + a / 2 ^ j % 2) 0

/-- elem of an integer slot on w-bit patterns (Table 6.1). -/
def intElem (op : NOp) (w a b : Nat) : Nat :=
  let sa := sgn w a
  let sb := sgn w b
  let sh := b % w
  match op with
  | .add => (a + b) % 2 ^ w
  | .sub => wrap w ((a : Int) - b)
  | .rsub => wrap w ((b : Int) - a)
  | .mul => a * b % 2 ^ w
  | .mulh => wrap w (sa * sb / 2 ^ w)
  | .mulhu => a * b / 2 ^ w
  | .div => divS w a b
  | .divu => divU w a b
  | .rem => remS w a b
  | .remu => remU w a b
  | .min => if sb < sa then b else a
  | .max => if sa < sb then b else a
  | .minu => if b < a then b else a
  | .maxu => if a < b then b else a
  | .adds => clampS w (sa + sb)
  | .subs => clampS w (sa - sb)
  | .addsu => clampU w ((a : Int) + b)
  | .subsu => clampU w ((a : Int) - b)
  | .and => a &&& b
  | .or => a ||| b
  | .xor => a ^^^ b
  | .sll => a * 2 ^ sh % 2 ^ w
  | .srl => a / 2 ^ sh
  | .sra => wrap w (sa / 2 ^ sh)
  | .mv => b
  | .clz => clzOf w a
  | .popcnt => popOf w a
  | _ => a

/-- The condition of an integer compare (Table 6.2). -/
def intCmp (op : NOp) (w a b : Nat) : Bool :=
  match op with
  | .cmpEq => a == b
  | .cmpNe => a != b
  | .cmpLt => decide (sgn w a < sgn w b)
  | .cmpLe => decide (sgn w a ≤ sgn w b)
  | .cmpLtu => decide (a < b)
  | _ => decide (a ≤ b)

/-! ## Floating-point slots (06 Table 6.3, R138, R139, R141) -/

/-- VFMIN and VFMAX (R138). -/
def fMinMax (f : FF) (isMax : Bool) (a b : Nat) : Nat × FFlags :=
  let x := unpack f a
  let y := unpack f b
  let fl := flagIf (x.isSig || y.isSig) fNV
  if x.isNan ∧ y.isNan then (f.nan, fl)
  else if x.isNan then (b, fl)
  else if y.isNan then (a, fl)
  else
    let lt := fvLt x y || (fvEq x y && x.isNeg && !y.isNeg)
    ((if lt = isMax then b else a), fl)

/-- VFSGNJ (R138). -/
def fSgnj (f : FF) (a b : Nat) : Nat :=
  if (unpack f a).isNan then f.nan
  else a % 2 ^ (f.eb + f.fb) + b / 2 ^ (f.eb + f.fb) % 2 * 2 ^ (f.eb + f.fb)

/-- The class number of a pattern (Table 6.4). -/
def fClass (f : FF) (a : Nat) : Nat :=
  match unpack f a with
  | .nan s => if s then 8 else 9
  | .inf n => if n then 0 else 7
  | .fin n m _ =>
    if m = 0 then (if n then 3 else 4)
    else if m < 2 ^ f.fb then (if n then 2 else 5)
    else (if n then 1 else 6)

/-- elem of a rounded floating-point slot (Table 6.3). -/
def fpElem (op : NOp) (f : FF) (rm tick a b d : Nat) : Nat × FFlags :=
  let x := unpack f a
  let y := unpack f b
  let z := unpack f d
  match op with
  | .fadd => fAdd f rm x y
  | .fsub => fAdd f rm x y.negate
  | .fmul => fMul f rm x y
  | .fdiv => fDiv f rm x y
  | .fma => fFma f rm x y z
  | .fms => fFma f rm x y z.negate
  | .fnma => fFma f rm x.negate y z.negate
  | .fnms => fFma f rm x.negate y z
  | .fmin => fMinMax f false a b
  | .fmax => fMinMax f true a b
  | .fsgnj => (fSgnj f a b, 0)
  | .fsqrt => fSqrt f rm x
  | .fexp2 => fExp2 f rm tick a
  | .flog2 => fLog2 f rm tick a
  | _ => (2 ^ fClass f a, 0)

/-- Condition and flag of a floating-point compare (Table 6.5). -/
def fpCmp (op : NOp) (f : FF) (a b : Nat) : Bool × FFlags :=
  let x := unpack f a
  let y := unpack f b
  let quiet := flagIf (x.isSig || y.isSig) fNV
  let loud := flagIf (x.isNan || y.isNan) fNV
  match op with
  | .fcmpEq => (fvEq x y, quiet)
  | .fcmpLt => (fvLt x y, loud)
  | .fcmpLe => (fvLe x y, loud)
  | _ => (x.isNan || y.isNan, quiet)

/-! ## Random numbers (06 R144, R145) -/

/-- One round of Philox-4x32. -/
def philoxRound (c : Nat × Nat × Nat × Nat) (k0 k1 : Nat) : Nat × Nat × Nat × Nat :=
  let p0 := 0xD2511F53 * c.1
  let p1 := 0xCD9E8D57 * c.2.2.1
  (p1 / 2 ^ 32 ^^^ c.2.1 ^^^ k0, p1 % 2 ^ 32, p0 / 2 ^ 32 ^^^ c.2.2.2 ^^^ k1, p0 % 2 ^ 32)

/-- n rounds with the key schedule. -/
def philoxFrom (n : Nat) (c : Nat × Nat × Nat × Nat) (k0 k1 : Nat) : Nat × Nat × Nat × Nat :=
  match n with
  | 0 => c
  | m + 1 => philoxFrom m (philoxRound c k0 k1) ((k0 + 0x9E3779B9) % 2 ^ 32) ((k1 + 0xBB67AE85) % 2 ^ 32)

/-- philox4x32_10 (R144). -/
def philox (c : Nat × Nat × Nat × Nat) (k0 k1 : Nat) : Nat × Nat × Nat × Nat := philoxFrom 10 c k0 k1

/-- (−1)^k · 2^P / (n^(2k+1) (2k+1)) summed: atan(1/n) · 2^P. -/
def atanInv (n : Nat) (pow : Nat) (k fuel : Nat) : Int :=
  match fuel with
  | 0 => 0
  | j + 1 => if pow = 0 then 0 else ((pow / (2 * k + 1) : Nat) : Int) - atanInv n (pow / (n * n)) (k + 1) j

/-- π · 2^P, by Machin's formula. -/
def piFix (p : Nat) : Nat := (4 * (4 * atanInv 5 (2 ^ p / 5) 0 p - atanInv 239 (2 ^ p / 239) 0 p)).toNat

/-- An alternating series: term − term · t² / ((n+1)(n+2)) + …, in units of 2^−P. -/
def altSum (p t2 : Nat) (term n fuel : Nat) : Int :=
  match fuel with
  | 0 => 0
  | j + 1 => if term = 0 then 0 else (term : Int) - altSum p t2 (term * t2 / 2 ^ p / ((n + 1) * (n + 2))) (n + 2) j

/-- |cos(2π n / 2^N)| · 2^P for a fraction of a turn, near its true value. -/
def cosFix (p n bits : Nat) : Nat :=
  let d := 2 ^ bits
  let n := if 2 * n > d then d - n else n
  let n := if 4 * n > d then d / 2 - n else n
  let j := if 8 * n ≤ d then n else d / 4 - n
  let t := 2 * piFix p * j / d
  let t2 := t * t / 2 ^ p
  (if 8 * n ≤ d then altSum p t2 (2 ^ p) 0 p else altSum p t2 t 1 p).toNat

/-- NORM (Table 6.6): √(−2 ln U1) × cos(2π U2), U1 = m / 2^bits, U2 = n / 2^bits, rounded once. -/
def normElem (f : FF) (rm tick m n bits : Nat) : Nat × FFlags :=
  let d := 2 ^ bits
  if m = d ∨ 4 * n = d ∨ 4 * n = 3 * d then (0, 0)
  else
    let neg := decide (d < 4 * n) && decide (4 * n < 3 * d)
    let k := Nat.log2 m
    firstSettled precisions
      (fun p =>
        let ln := 2 * atanhLo p (m - 2 ^ k) (m + 2 ^ k)
        let l2 := ln2Lo p
        let xlo := 2 * ((bits - k) * l2 - (ln + slack p))
        let xhi := 2 * ((bits - k) * (l2 + slack p) - ln)
        let c := cosFix p n bits
        let rlo := isqrt (xlo * 2 ^ p)
        let rhi := isqrt (xhi * 2 ^ p) + 1
        settle f rm neg (rlo * (c - slack p) / 2 ^ p) (rhi * (c + slack p) / 2 ^ p + 1) (-(p : Int)))
      ((Config.unsettled 2 (BitVec.ofNat 64 m) (tick + n)).toNat % 2 ^ f.width, fNX)

/-- VRAND's element i (R145). -/
def randElem (kind et rm tick : Nat) (key ctr : Word) (i : Nat) : Nat × FFlags :=
  let t := (ctr.toNat + i) % 2 ^ 64
  let u := philox (t % 2 ^ 32, t / 2 ^ 32, 0, 0) (key.toNat % 2 ^ 32) (key.toNat / 2 ^ 32)
  let q := u.2.1 * 2 ^ 32 + u.1
  let q' := u.2.2.2 * 2 ^ 32 + u.2.2.1
  let f := ffOf et
  match kind with
  | 0 => (q % 2 ^ etWidth et, 0)
  | 1 =>
    (match et with
     | 5 => (packFp f rm false (.fin false (u.1 / 2 ^ 24) (-8))).1
     | 6 => (packFp f rm false (.fin false (u.1 / 2 ^ 21) (-11))).1
     | 7 => (packFp f rm false (.fin false (u.1 / 2 ^ 8) (-24))).1
     | _ => (packFp f rm false (.fin false (q / 2 ^ 11) (-53))).1, 0)
  | 2 =>
    let neg := u.1 % 2 == 1
    (if etFloat et then (packFp f rm false (.fin neg 1 0)).1 else if neg then 2 ^ etWidth et - 1 else 1, 0)
  | _ =>
    if et = 8 then normElem f rm tick (q / 2 ^ 11 + 1) (q' / 2 ^ 11) 53
    else normElem f rm tick (u.1 / 2 ^ 8 + 1) (u.2.1 / 2 ^ 8) 24

/-! ## Nodes -/

/-- Reads element i of a source at a width. -/
abbrev Reads := Src → Nat → Nat → Nat

/-- The flags of a list together. -/
def orFlags (l : List FFlags) : FFlags := l.foldl (fun f x => f ||| x) 0

/-- What a node computes: elements below its VL of its first and second result, and the flags raised at each. -/
structure NodeRes where
  p0 : List Nat
  p1 : List Nat
  fls : List FFlags
  deriving DecidableEq, Repr

/-- The flags that a node raises. -/
def NodeRes.fl (r : NodeRes) : FFlags := orFlags r.fls

/-- The width of a node's element type. -/
def Node.w (n : Node) : Nat := etWidth (vtEt n.vtype)

/-- Whether element i of a node is masked off. -/
def Node.off (n : Node) (g : Reads) (i : Nat) : Bool :=
  match n.mask with
  | some m => g m 1 i == 0
  | none => false

/-- elem of a node whose element depends on index i alone (R130, R134 to R151): both results and flags. -/
def pointElem (n : Node) (g : Reads) (tick i : Nat) : Nat × Nat × FFlags :=
  let w := n.w
  let et := vtEt n.vtype
  let rm := vtRm n.vtype
  let f := ffOf et
  let a := g n.a w i
  let b := g n.b w i
  let c := g n.c w i
  let one := fun (p : Nat × FFlags) => (p.1, 0, p.2)
  let bit := fun (x : Bool) => ((if x then 1 else 0), 0, (0 : FFlags))
  match n.op with
  | .cmpEq | .cmpNe | .cmpLt | .cmpLe | .cmpLtu | .cmpLeu => bit (intCmp n.op w a b)
  | .fcmpEq | .fcmpLt | .fcmpLe | .fcmpUn =>
    let r := fpCmp n.op f a b
    ((if r.1 then 1 else 0), 0, r.2)
  | .fadd | .fsub | .fmul | .fdiv | .fma | .fms | .fnma | .fnms | .fmin | .fmax | .fsgnj | .fsqrt | .fexp2 | .flog2
  | .fclass => one (fpElem n.op f rm tick a b c)
  | .merge => ((if (match n.mask with | some m => g m 1 i == 1 | none => false) then b else a), 0, 0)
  | .cvt => one (cvtElem (g n.a (etWidth n.sel) i) n.sel et rm (vtSat n.vtype))
  | .rand => one (randElem n.sel et rm tick n.seed n.seed2 i)
  | .kand => bit (g n.a 1 i == 1 && g n.b 1 i == 1)
  | .kor => bit (g n.a 1 i == 1 || g n.b 1 i == 1)
  | .kxor => bit (g n.a 1 i != g n.b 1 i)
  | .kandn => bit (g n.a 1 i == 1 && g n.b 1 i == 0)
  | .knot => bit (g n.a 1 i == 0)
  | .kshl => bit (decide (n.seed.toNat ≤ i) && g n.a 1 (i - n.seed.toNat) == 1)
  | .kshr => bit (decide (i + n.seed.toNat < n.vl) && g n.a 1 (i + n.seed.toNat) == 1)
  | .kset => bit (n.seed.getLsbD (i % 64))
  | .ktov =>
    ((if g n.a 1 i = 1 then (if etFloat et then (packFp f 0 false (.fin false 1 0)).1 else 1) else 0), 0, 0)
  | .adc =>
    let t := a + b + g n.c 1 i
    (t % 2 ^ w, t / 2 ^ w, 0)
  | .sbc =>
    let t : Int := (a : Int) - b - g n.c 1 i
    (wrap w t, (if t < 0 then 1 else 0), 0)
  | .addk =>
    let t := a + g n.c 1 i
    (t % 2 ^ w, t / 2 ^ w, 0)
  | .vid => if etFloat et then one (packFp f rm false (fvInt i 0 false)) else (i % 2 ^ w, 0, 0)
  | op => (intElem op w a b, 0, 0)

/-- A node that takes the envelope of R129: masked-off elements take the under operands. -/
def pointNode (n : Node) (g : Reads) (tick : Nat) : NodeRes :=
  let rs := (List.range n.vl).map (fun i =>
    if n.op ≠ .merge ∧ n.off g i then (g n.under n.w i, g n.under2 n.w i, (0 : FFlags)) else pointElem n g tick i)
  { p0 := rs.map Prod.fst, p1 := rs.map (fun r => r.2.1), fls := rs.map (fun r => r.2.2) }

/-- One step of a cross-element node (R142): new carried value, result, flags. -/
def scanStep (n : Node) (a b c : Nat) : Nat × Nat × FFlags :=
  let w := n.w
  let f := ffOf (vtEt n.vtype)
  let rm := vtRm n.vtype
  match n.op with
  | .scanAdd => let r := (a + c) % 2 ^ w; (r, r, 0)
  | .scanMax => let r := if sgn w a > sgn w c then a else c; (r, r, 0)
  | .fscan => let r := fAdd f rm (unpack f c) (unpack f a); (r.1, r.1, r.2)
  | .lrec =>
    if etFloat (vtEt n.vtype) then
      let r := fFma f rm (unpack f a) (unpack f c) (unpack f b); (r.1, r.1, r.2)
    else let r := (a * c + b) % 2 ^ w; (r, r, 0)
  | _ => (a, c, 0)

/-- run_scan (R142) from element i with carried value c. -/
def scanFrom (n : Node) (g : Reads) (is : List Nat) (c : Nat) : List (Nat × FFlags) :=
  match is with
  | [] => []
  | i :: t =>
    if n.off g i then (g n.under n.w i, 0) :: scanFrom n g t c
    else
      let s := scanStep n (g n.a n.w i) (g n.b n.w i) c
      (s.2.1, s.2.2) :: scanFrom n g t s.1

/-! ## N:M selection (08 R196 to R198) -/

/-- The rank of an element by magnitude: a NaN above infinity above every finite magnitude. -/
def magRank (f : FF) (x : Nat) : Nat := if (unpack f x).isNan then 2 ^ f.width else x % 2 ^ (f.eb + f.fb)

/-- A kept value: a NaN becomes canonical (R196). -/
def keepElem (f : FF) (x : Nat) : Nat × FFlags :=
  let v := unpack f x
  if v.isNan then (f.nan, flagIf v.isSig fNV) else (x, 0)

/-- Positions of the n elements of largest magnitude in a group, ascending; a lower position wins a tie (R197). -/
def topN (f : FF) (n : Nat) (xs : List Nat) : List Nat :=
  let r := xs.map (magRank f)
  (List.range xs.length).filter (fun i =>
    let x := r.getD i 0
    decide (((List.range xs.length).filter (fun j =>
      decide (r.getD j 0 > x) || (r.getD j 0 == x && decide (j < i)))).length < n))

/-- (N, M) of a VNMS selector. -/
def nmOf (sel : Nat) : Nat × Nat :=
  match sel with
  | 0 => (1, 4) | 1 => (2, 4) | 2 => (2, 8) | _ => (4, 8)

/-- The column pairs 0 to 5 (R198). -/
def pairOf (i : Nat) : Nat × Nat :=
  match i with
  | 0 => (0, 1) | 1 => (0, 2) | 2 => (0, 3) | 3 => (1, 2) | 4 => (1, 3) | _ => (2, 3)

/-- pattern_list (R198): the 90 patterns as tuples of pair indices. -/
def patterns : List (List Nat) :=
  let r := List.range 6
  let all := r.flatMap (fun a => r.flatMap (fun b => r.flatMap (fun x => r.map (fun y => [a, b, x, y]))))
  all.filter (fun p => (List.range 4).all (fun c =>
    (p.filter (fun i => (pairOf i).1 == c || (pairOf i).2 == c)).length == 2))

/-- The score of kept elements: NaNs, infinities, and the exact sum of finite magnitudes in units of the least
subnormal. -/
def keepScore (f : FF) (xs : List Nat) : Nat × Nat × Nat :=
  xs.foldl (fun s x =>
    match unpack f x with
    | .nan _ => (s.1 + 1, s.2.1, s.2.2)
    | .inf _ => (s.1, s.2.1 + 1, s.2.2)
    | .fin _ m e => (s.1, s.2.1, s.2.2 + m * 2 ^ (e - (1 - (f.bias : Int) - f.fb)).toNat)) (0, 0, 0)

/-- Lexicographic order of scores. -/
def scoreLt (a b : Nat × Nat × Nat) : Bool :=
  decide (a.1 < b.1) || (a.1 == b.1 && (decide (a.2.1 < b.2.1) || (a.2.1 == b.2.1 && decide (a.2.2 < b.2.2))))

/-- Elements of a 4 × 4 block that a pattern keeps, row by row. -/
def blockKept (blk : Nat → Nat → Nat) (p : List Nat) : List Nat :=
  p.zipIdx.flatMap (fun q => [blk q.2 (pairOf q.1).1, blk q.2 (pairOf q.1).2])

/-- The number of the best pattern of a block (R198). -/
def bestPattern (f : FF) (blk : Nat → Nat → Nat) : Nat :=
  let ss := patterns.map (fun p => keepScore f (blockKept blk p))
  (ss.zipIdx.foldl (fun (best : (Nat × Nat × Nat) × Nat) q => if scoreLt best.1 q.1 then q else best)
    (ss.getD 0 (0, 0, 0), 0)).2

/-- VNMS and VNMST: kept values and metadata, then the under elements. -/
def nmNode (n : Node) (g : Reads) : NodeRes :=
  let et := vtEt n.vtype
  let f := ffOf et
  let w := n.w
  let xs := (List.range n.vl).map (g n.a w)
  let meta_ := fun (m : Nat) => (packFp f 0 false (fvInt m 0 false)).1
  let out : List (Nat × FFlags) × List Nat :=
    if n.op = .nms then
      let (k, m) := nmOf n.sel
      let groups := (List.range (n.vl / m)).map (fun gi =>
        let ys := (xs.drop (gi * m)).take m
        (topN f k ys).map (fun j => (keepElem f (ys.getD j 0), meta_ j)))
      let all := groups.flatMap id
      (all.map Prod.fst, all.map Prod.snd)
    else
      let c := n.vl / 4
      let blk := fun b r j => xs.getD (r * c + 4 * b + j) 0
      let best := (List.range (c / 4)).map (fun b => bestPattern f (blk b))
      let kept := (List.range 4).flatMap (fun r => best.zipIdx.flatMap (fun p =>
        let pr := pairOf ((patterns.getD p.1 []).getD r 0)
        [keepElem f (blk p.2 r pr.1), keepElem f (blk p.2 r pr.2)]))
      (kept, best.map meta_)
  { p0 := out.1.map Prod.fst ++ ((List.range n.vl).drop out.1.length).map (g n.under w)
    p1 := out.2 ++ ((List.range n.vl).drop out.2.length).map (g n.under2 w)
    fls := out.1.map Prod.snd }

/-- What a value or mask node computes. -/
def evalNode (n : Node) (g : Reads) (tick : Nat) : NodeRes :=
  match n.op with
  | .scanAdd | .scanMax | .fscan | .lrec | .prev =>
    let r := scanFrom n g (List.range n.vl) (n.seed.toNat % 2 ^ n.w)
    { p0 := r.map Prod.fst, p1 := [], fls := r.map Prod.snd }
  | .nms | .nmst => nmNode n g
  | _ => pointNode n g tick

/-! ## Reductions (03 R68, R69; 07 R170 to R172) -/

/-- The operation of a reduction (07 R170): VRED selectors SUM, MIN, MAX, MINU, MAXU, AND, OR, XOR; VFRED selectors SUM,
MIN, MAX, SUMSQ. -/
def redOp (n : Node) (a b : Nat) : Nat × FFlags :=
  let f := ffOf (vtEt n.vtype)
  let rm := vtRm n.vtype
  if n.op = .red then
    (match n.sel with
     | 0 => intElem .add n.w a b
     | 1 => intElem .min n.w a b
     | 2 => intElem .max n.w a b
     | 3 => intElem .minu n.w a b
     | 4 => intElem .maxu n.w a b
     | 5 => a &&& b
     | 6 => a ||| b
     | _ => a ^^^ b, 0)
  else
    match n.sel with
    | 1 => fMinMax f false a b
    | 2 => fMinMax f true a b
    | _ => fAdd f rm (unpack f a) (unpack f b)

/-- combine (R68): absent with x is x. -/
def combine (n : Node) (a b : Option Nat) : Option Nat × FFlags :=
  match a, b with
  | none, y => (y, 0)
  | x, none => (x, 0)
  | some x, some y => let r := redOp n x y; (some r.1, r.2)

/-- One level of the canonical tree. -/
def treeLevel (n : Node) (l : List (Option Nat)) : List (Option Nat) × FFlags :=
  match l with
  | a :: b :: t =>
    let c := combine n a b
    let r := treeLevel n t
    (c.1 :: r.1, c.2 ||| r.2)
  | _ => (l, 0)

/-- The canonical tree; fuel is its depth. -/
def tree (n : Node) (fuel : Nat) (l : List (Option Nat)) : Option Nat × FFlags :=
  match fuel with
  | 0 => (l.headD none, 0)
  | k + 1 =>
    if l.length ≤ 1 then (l.headD none, 0)
    else
      let r := treeLevel n l
      let q := tree n k r.1
      (q.1, r.2 ||| q.2)

/-- A leaf of the tree: squared for SUMSQ (R68). -/
def redLeaf (n : Node) (x : Nat) : Nat × FFlags :=
  if n.op = .fred ∧ n.sel = 3 then
    let f := ffOf (vtEt n.vtype)
    fMul f (vtRm n.vtype) (unpack f x) (unpack f x)
  else (x, 0)

/-- The strict order of VFREDO (R69). -/
def redOrdered (n : Node) (l : List (Option Nat)) (acc : Nat) : Nat × FFlags :=
  match l with
  | [] => (acc, 0)
  | none :: t => redOrdered n t acc
  | some x :: t =>
    let f := ffOf (vtEt n.vtype)
    let r := fAdd f (vtRm n.vtype) (unpack f acc) (unpack f x)
    let q := redOrdered n t r.1
    (q.1, r.2 ||| q.2)

/-- The o register image of a result (07 R172). -/
def redPlace (n : Node) (r : Nat) : Word :=
  if n.op = .red ∧ n.sel ≠ 3 ∧ n.sel ≠ 4 then wordOf (sgn n.w r) else BitVec.ofNat 64 r

/-- A reduction over its present elements: the new o register, none when every position is absent (R172). -/
def reduce (n : Node) (leaves : List (Option Nat)) : Option Word × FFlags :=
  let seed := n.seed.toNat % 2 ^ n.w
  if leaves.all Option.isNone then (none, 0)
  else if n.op = .fredo then
    let r := redOrdered n leaves seed
    (some (redPlace n r.1), r.2)
  else
    let ls := leaves.map (fun o => match o with | some x => (some (redLeaf n x).1, (redLeaf n x).2) | none => (none, 0))
    let t := tree n 64 (ls.map Prod.fst)
    let c := combine n t.1 (some seed)
    (some (redPlace n (c.1.getD seed)), ls.foldl (fun a p => a ||| p.2) 0 ||| t.2 ||| c.2)

/-- amo_op (07 R166): ADD, MIN, MAX, OR on element values; the floating-point forms under R137 and R138. -/
def amoElem (n : Node) (old x : Nat) : Nat × FFlags :=
  let et := vtEt n.vtype
  let f := ffOf et
  match n.sel with
  | 0 => if etFloat et then fAdd f (vtRm n.vtype) (unpack f old) (unpack f x) else ((old + x) % 2 ^ n.w, 0)
  | 1 => if etFloat et then fMinMax f false old x else (intElem .min n.w old x, 0)
  | 2 => if etFloat et then fMinMax f true old x else (intElem .max n.w old x, 0)
  | _ => (old ||| x, 0)

end Sys2Proof.Machine
end

