-- ==== Sys2Proof/Machine/Mem.lean ====
section
/-! DEFINITION. Machine/Mem.lean: apertures, translation and the accesses that page faults, faults and poison stop
(12 R292 to R305; 23 R401; 24 R426, R429; 25 R442, R444). -/

namespace Sys2Proof.Machine

/-! ## Keys of package memory (12 R292, R294) -/

/-- Key of a scratchpad byte. -/
def scratchKey (fe off : Nat) : Nat := 2 ^ 60 + fe * 2 ^ 19 + off

/-- Key of a pool-space byte of a context on a stack. -/
def poolKey (ctx stack off : Nat) : Nat := 2 ^ 100 + (ctx * 8 + stack) * 2 ^ 31 + off

/-- A key in HBM. -/
def isHbm (k : Nat) : Bool := decide (k < 2 ^ 40)

/-- A key in host memory. -/
def isHost (k : Nat) : Bool := decide (2 ^ 55 ≤ k) && decide (k < 2 ^ 56)

/-- The stack of a front end (01 R10). -/
def stackOf (fe : Nat) : Nat := fe / 64

/-! ## Granules (12 R306 to R310) -/

/-- The granule code of a region; G64 unless the firmware changed it (12 R306). -/
def State.granCode (s : State) (region : Nat) : Nat := (lookup s.grans region).getD 1

/-- Bytes of a granule code (12 Table 12.4). -/
def granBytes (c : Nat) : Nat := 32 * 2 ^ c

/-- First key and length of the granule, or of the SRAM word, that holds a key (24 R425, R429). -/
def State.unitOf (s : State) (k : Nat) : Nat × Nat :=
  let n := if isHbm k then granBytes (s.granCode (k / 2 ^ 30)) else if isHost k then 64 else 8
  (k / n * n, n)

/-! ## Walks (12 R297 to R304) -/

/-- What an access is for (12 R300); an atomic needs read and write. -/
inductive Use where
  | read | write | fetch | atomic
  deriving DecidableEq, Repr

/-- The use field of a fault-buffer record (25 Table 25.3). -/
def Use.code : Use → Nat
  | .read => 0 | .write => 1 | .fetch => 2 | .atomic => 3

/-- Where an address leads: a key, or why it leads nowhere. fault carries the kind: 4 access, 5 granule, 7 poison, 11 no route. -/
inductive Walk where
  | at (key : Nat)
  | notPresent
  | migrating
  | fault (kind : Nat)
  deriving DecidableEq, Repr

/-- n little-endian bytes of a line as a walk sees it. -/
def viewVal (view : Nat → Byte) (a n : Nat) : Nat := leNat ((List.range n).map (fun i => view (a + i)))

/-- A frame number in Table 12.1. -/
def frameLegal (f : Nat) : Bool := decide (f < 2 ^ 24) || (decide (2 ^ 39 ≤ f) && decide (f < 2 ^ 40))

/-- A legal leaf frame of a level (12 R300). -/
def frameAt (l f : Nat) : Bool := f % 2 ^ (13 * l) == 0 && frameLegal f

/-- The uniform check of a line (12 R301). -/
def uniformOk (view : Nat → Byte) (line l : Nat) : Bool :=
  let e := fun i => viewVal view (line + 7 * i) 7
  let stride := sgn 16 (viewVal view (line + 56) 8 / 2)
  let f0 : Int := ((e 0 % 2 ^ 40 : Nat) : Int)
  (List.range 8).all (fun i =>
    let f : Int := ((e i % 2 ^ 40 : Nat) : Int)
    (e i / 2 ^ 40 % 2 == 1) && (e i / 2 ^ 40 % 2 ^ 15 == e 0 / 2 ^ 40 % 2 ^ 15) && (f == f0 + i * stride) &&
      frameAt l (e i % 2 ^ 40))

/-- The checks of a leaf entry and the address it gives (12 R300), tests in the order of the rule. -/
def leafWalk (s : State) (view : Nat → Byte) (line l e sw : Nat) (va : Nat) (sup : Bool) (use : Use) : Walk :=
  let bit := fun i => e / 2 ^ i % 2 == 1
  let frame := e % 2 ^ 40
  let host := decide (2 ^ 39 ≤ frame)
  let gran := e / 2 ^ 47 % 8
  let wr := use == .write || use == .atomic
  let rd := use == .read || use == .atomic
  if sw % 2 = 1 ∧ !uniformOk view line l then .fault 4
  else if !frameAt l frame then .fault 4
  else if bit 55 ∨ sw / 2 ^ 17 ≠ 0 ∨ e / 2 ^ 45 % 4 = 3 ∨ (!host ∧ gran > 4) then .fault 5
  else if !host ∧ s.reserved.contains (frame / 2 ^ 14) then .fault 4
  else if !host ∧ gran ≠ s.granCode (frame / 2 ^ 14) then .fault 5
  else if (rd ∧ !bit 41) ∨ (wr ∧ !bit 42) ∨ (use = .fetch ∧ !bit 43) ∨ (!sup ∧ !bit 44) then .fault 4
  else if bit 53 then .migrating
  else if !bit 51 ∨ (wr ∧ !bit 52) then .notPresent
  else
    let pa := frame * 2 ^ 16 + va % 2 ^ (16 + 13 * l)
    if isHbm pa ∨ isHost pa then .at pa else .fault 4

/-! ## Routes between stacks (01 R27, R28; 25 R437) -/

/-- The link between two neighbouring stacks: 0 to 5 within the rows, 6 to 9 between them; 10 and 11 lead from stacks 0 and 4
to port die 0, 12 and 13 from stacks 3 and 7 to port die 1. -/
def linkOf (a b : Nat) : Nat := if a / 4 = b / 4 then a / 4 * 3 + min a b % 4 else 6 + a % 4

/-- The links of a move along a row, from column a to column b. -/
def rowLinks (row a b : Nat) : List Nat := (List.range (max a b - min a b)).map (fun i => row * 3 + min a b + i)

/-- The links of a route, column first or row first. -/
def routeLinks (colFirst : Bool) (a b : Nat) : List Nat :=
  rowLinks ((if colFirst then a else b) / 4) (a % 4) (b % 4) ++
    (if a / 4 = b / 4 then [] else [6 + (if colFirst then b else a) % 4])

/-- Whether a route between two stacks is up. -/
def State.routeUp (s : State) (a b : Nat) : Bool :=
  [true, false].any (fun c => (routeLinks c a b).all (fun l => !s.down.contains l))

/-- The stack that a key's memory belongs to; none for host memory. -/
def homeOf (k : Nat) : Option Nat :=
  if isHost k then none
  else if isHbm k then some (k / 2 ^ 37)
  else if k < 2 ^ 100 then some (stackOf ((k - 2 ^ 60) / 2 ^ 19))
  else some ((k - 2 ^ 100) / 2 ^ 31 % 8)

/-- The stacks that a port die attaches to, each with its link (01 R28). -/
def dieLinks (die : Nat) : List (Nat × Nat) := if die = 0 then [(0, 10), (4, 11)] else [(3, 12), (7, 13)]

/-- Whether a request of a stack reaches the memory at a key. -/
def State.reaches (s : State) (stack k : Nat) : Bool :=
  s.down.isEmpty ||
    (match homeOf k with
     | some h => s.routeUp stack h
     | none => (dieLinks 0).any (fun p => s.routeUp stack p.1 && !s.down.contains p.2))

/-- Whether a request of a port die reaches a stack: from the nearer attached stack, or by the other while a link is down (01 R28; 25
R437). -/
def State.dieReaches (s : State) (die stack : Nat) : Bool :=
  s.down.isEmpty || (dieLinks die).any (fun p => s.routeUp p.1 stack && !s.down.contains p.2)

/-! ## Walks of the tables (12 R292, R297 to R304) -/

/-- A walk of the levels still to go for a stack's request, with the table lines it reads, each in its view (12 R300). A line outside
Table 12.1 is a table error, and one with no route is lost (25 R437, R438). -/
def walk (s : State) (stack : Nat) (view : Nat → Nat → Byte) (t va : Nat) (sup : Bool) (use : Use) (levels : List Nat) : Walk × List Nat :=
  match levels with
  | [] => (.fault 4, [])
  | l :: rest =>
    let idx := va / 2 ^ (16 + 13 * l) % 2 ^ 13
    let line := t + idx / 8 * 64
    let e := viewVal (view line) (line + 7 * (idx % 8)) 7
    let sw := viewVal (view line) (line + 56) 8
    if !isHbm line ∧ !isHost line then (.fault 4, [])
    else if !s.reaches stack line then (.fault 11, [line])
    else if s.poison.any (fun p => decide (p.1 < line + 64) && decide (line < p.1 + p.2)) then (.fault 7, [line])
    else if e / 2 ^ 40 % 2 = 0 then (.notPresent, [line])
    else if e / 2 ^ 54 % 2 = 1 then
      if l = 0 ∨ sw % 2 = 1 then (.fault 4, [line])
      else
        let r := walk s stack view (e % 2 ^ 40 * 2 ^ 16) va sup use rest
        (r.1, line :: r.2)
    else (leafWalk s (view line) line l e sw va sup use, [line])

/-- A byte as it stood before writes, newest first. -/
def undo (ws : List Overwrite) (m : Memory) (k : Nat) : Byte :=
  ws.foldl (fun acc e => match e.cells.find? (fun c => c.1 == k) with | some c => c.2 | none => acc) (m.get k)

/-- Memory as it stood before its n newest writes of an aligned word (log 10). -/
def State.older (s : State) (n k : Nat) : Byte := undo (s.wlog.take n) s.mem k

/-- Whether a shootdown covers an entry of a level which translates an address: a global entry, one of everything or of a range that holds a
page of it; else one of its ASID too (12 R304). -/
def Shot.covers (h : Shot) (asid va l : Nat) (global : Bool) : Bool :=
  let first := va / 2 ^ (16 + 13 * l) * 2 ^ (13 * l)
  let inside := decide (h.first < first + 2 ^ (13 * l)) && decide (first < h.first + h.pages)
  h.scope == 2 || (h.scope == 1 && !global && h.asid == asid) || (h.scope == 0 && (global || h.asid == asid) && inside)

/-- Length of the memory log at the last completed shootdown that covers an entry. -/
def State.shotMark (s : State) (asid va l : Nat) (global : Bool) : Nat :=
  s.shots.foldl (fun m h => if h.covers asid va l global then max m h.mark else m) 0

/-- The entry at which a walk ended, where it is a valid leaf (12 Table 12.4). -/
def leafOf (view : Nat → Nat → Byte) (r : Walk × List Nat) (va : Nat) : Option Nat :=
  match r.2.getLast? with
  | some line =>
    let e := viewVal (view line) (line + 7 * (va / 2 ^ (16 + 13 * (3 - r.2.length)) % 8)) 7
    if e / 2 ^ 40 % 2 = 1 ∧ e / 2 ^ 54 % 2 = 0 then some e else none
  | none => none

/-- Whether a walk ended at a valid leaf whose global bit is set. -/
def globalLeaf (view : Nat → Nat → Byte) (r : Walk × List Nat) (va : Nat) : Bool := (leafOf view r va).any (fun e => e / 2 ^ 50 % 2 == 1)

/-- How far back a table line is read in this step (log 10). -/
def State.lineAge (s : State) (line : Nat) : Nat := Config.staleDepth s.tick line % (s.wlog.length + 1)

/-- A walk of one context's tables and whether it ended at a global leaf: of memory as it stands, or, until a shootdown covers the entry
that translates, with lines as they stood at earlier moments, wherever that walk leads (12 R304). -/
def State.tableWalk (s : State) (stack root asid va : Nat) (sup : Bool) (use : Use) : Walk × Bool :=
  let here := fun _ : Nat => s.mem.get
  let now := walk s stack here root va sup use [2, 1, 0]
  let touched := s.wlog.any (fun w => w.cells.any (fun c => now.2.any (fun line => decide (line ≤ c.1) && decide (c.1 < line + 64))))
  if touched then
    let view := fun line => s.older (s.lineAge line)
    let old := walk s stack view root va sup use [2, 1, 0]
    let g := globalLeaf view old va
    let leaf := 3 - old.2.length
    let held := old.2.all (fun line => decide (s.lineAge line + s.shotMark asid va leaf g ≤ s.wlog.length))
    if held then (old.1, g) else (now.1, globalLeaf here now va)
  else (now.1, globalLeaf here now va)

/-- Where global entries of other ASIDs' tables lead: those serve every ASID (12 R304). -/
def State.globalWalks (s : State) (stack asid va : Nat) (sup : Bool) (use : Use) : List Walk :=
  s.fw.contexts.filterMap (fun c =>
    if c.asid = asid then none
    else
      let r := s.tableWalk stack c.root c.asid va sup use
      if r.2 then some r.1 else none)

/-- Where an entry leads that caches hold of the tables of a freed ASID, for an access of an ASID: it was read before the ASID was freed, no
shootdown has covered it since, and it serves that ASID (12 R304). -/
def State.freedWalk (s : State) (stack asid va : Nat) (sup : Bool) (use : Use) (r : OldRoot) : Option Walk :=
  let age := fun line => s.wlog.length - r.len + Config.staleDepth s.tick line % (r.len + 1)
  let view := fun line => s.older (age line)
  let old := walk s stack view r.root va sup use [2, 1, 0]
  match leafOf view old va with
  | none => none
  | some e =>
    let g := e / 2 ^ 50 % 2 == 1
    let l := 3 - old.2.length
    let mark := s.shotMark r.asid va l g
    let shot := (s.shots.take (s.shots.length - r.shots)).any (fun h => h.covers r.asid va l g)
    if (g || r.asid == asid) && !shot && old.2.all (fun line => decide (age line + mark ≤ s.wlog.length)) then some old.1 else none

/-- A translation for a request of a stack. -/
def State.translate (s : State) (stack root asid va : Nat) (sup : Bool) (use : Use) : Walk :=
  match s.globalWalks stack asid va sup use ++ s.oldRoots.filterMap (s.freedWalk stack asid va sup use) with
  | [] => (s.tableWalk stack root asid va sup use).1
  | k :: ks =>
    match (k :: ks)[Config.globalPick s.tick % (ks.length + 2)]? with
    | some g => g
    | none => (s.tableWalk stack root asid va sup use).1

/-- Where an address leads for a request of a stack: a request with no route is lost. -/
def State.routed (s : State) (stack : Nat) (w : Walk) : Walk :=
  match w with
  | .at k => if s.reaches stack k then .at k else .fault 11
  | w => w

/-! ## Virtual addresses and apertures (12 R293, R294) -/

/-- Bits [63:55] all equal bit 54. -/
def canonical (va : Nat) : Bool := decide (va < 2 ^ 54) || decide (2 ^ 64 - 2 ^ 54 ≤ va)

/-- The context of a strand. -/
def State.ctxOf? (s : State) (t : Strand) : Option Context := s.fw.contexts.find? (fun c => c.handle == t.br.ctx)

/-- Pool space of the strand's context on a stack, in bytes (12 R311). -/
def State.poolSize (s : State) (t : Strand) (stack : Nat) : Nat :=
  match s.ctxOf? t with
  | some c => c.pool.toList.getD stack 0
  | none => 0

/-- Whether front end u leads a strand bound to the same context (12 R294). -/
def State.isPeer (s : State) (t : Strand) (u : Nat) : Bool :=
  (t.fe == u) || (s.st :: s.others).any (fun p => p.run != .unbound && p.fe == u && p.br.ctx == t.br.ctx)

/-- The byte an address in the aperture window reaches (12 Table 12.2). -/
def State.aperture (s : State) (t : Strand) (va : Nat) : Walk :=
  let o := va - 0xFFFFFF0000000000
  let stack := stackOf t.fe
  if o < 2 ^ 36 then
    if o < Config.scratchBytes then .at (scratchKey t.fe o) else .fault 4
  else if o < 2 ^ 37 then
    if o - 2 ^ 36 < s.poolSize t stack then .at (poolKey t.br.ctx stack (o - 2 ^ 36)) else .fault 4
  else if o < 2 ^ 38 then
    let p := o - 2 ^ 37
    let u := p / 2 ^ 19
    if u < Config.frontEnds ∧ p % 2 ^ 19 < Config.scratchBytes ∧ s.isPeer t u then .at (scratchKey u (p % 2 ^ 19)) else .fault 4
  else
    let p := o - 2 ^ 38
    let r := p / 2 ^ 31
    if r < 8 ∧ p % 2 ^ 31 < s.poolSize t r then .at (poolKey t.br.ctx r (p % 2 ^ 31)) else .fault 4

/-- Where one byte of a virtual address lies for a strand's access. -/
def State.locate (s : State) (t : Strand) (va : Nat) (sup : Bool) (use : Use) : Walk :=
  if !canonical va then .fault 4
  else if 0xFFFFFF0000000000 ≤ va then (if use = .fetch then .fault 4 else s.routed (stackOf t.fe) (s.aperture t va))
  else s.routed (stackOf t.fe) (s.translate (stackOf t.fe) t.br.root t.br.asid va sup use)

/-- The ordering kind of an address for a strand: 0 strongly ordered, 1 release-consistent, 2 unordered (12 Tables 12.2, 12.4; 13
R323). -/
def State.kindAt (s : State) (t : Strand) (va : Nat) : Nat :=
  if 0xFFFFFF0000000000 ≤ va then (if va < 0xFFFFFF1000000000 then 0 else 1)
  else
    let r := walk s (stackOf t.fe) (fun _ => s.mem.get) t.br.root va true .read [2, 1, 0]
    match r.2.getLast? with
    | some line => viewVal s.mem.get (line + 7 * (va / 2 ^ (16 + 13 * (3 - r.2.length)) % 8)) 7 / 2 ^ 45 % 4
    | none => 0

/-- The keys of n bytes, or where the access stops: each page is translated apart (12 R303). -/
inductive Located where
  | keys (ks : List Nat)
  /-- The part that stops, and the keys of the other part where that one leads somewhere. -/
  | stop (w : Walk) (va : Nat) (other : List Nat)
  deriving DecidableEq, Repr

/-- n successive keys. -/
def keysFrom (k n : Nat) : List Nat := (List.range n).map (fun i => k + i)

/-- Locates n bytes at an address; the address wraps modulo 2^64. -/
def State.locateN (s : State) (t : Strand) (va n : Nat) (sup : Bool) (use : Use) : Located :=
  let n1 := min n (2 ^ 16 - va % 2 ^ 16)
  let va2 := (va + n1) % 2 ^ 64
  match s.locate t va sup use with
  | .at k =>
    if n1 = n then .keys (keysFrom k n)
    else match s.locate t va2 sup use with
      | .at k2 => .keys (keysFrom k n1 ++ keysFrom k2 (n - n1))
      | w => .stop w va2 (keysFrom k n1)
  | w =>
    if n1 = n then .stop w va []
    else match s.locate t va2 sup use with
      | .at k2 => .stop w va (keysFrom k2 (n - n1))
      | _ => .stop w va []

/-! ## Page faults (23 R401, 25 R442, R444) -/

/-- Package time (05 Table 5.1): what the steps so far took, in periods of its time base (log 7). -/
def State.time (s : State) : Word := BitVec.ofNat 64 ((List.range s.tick).foldl (fun a i => a + Config.gap (2 * i)) 0)

/-! ## The error log (24 R415) -/

/-- Events of a class logged on a unit so far. -/
def State.errCount (s : State) (unit : ErrUnit) (cls : Nat) : Nat :=
  ((s.errCounts.find? (fun p => p.1 == unit && p.2.1 == cls)).map (fun p => p.2.2)).getD 0

/-- The unit field of a record (24 Table 24.1): of a pair the half that computes, of pool space the first front end of its stack (logs 83 and
94). -/
def ErrUnit.field (u : ErrUnit) : Nat :=
  match u with
  | .half h => h
  | .pair first _ => first
  | .frontEnd fe => fe
  | .pool stack => 64 * stack
  | .channel hbm sub => hbm * 2 ^ 12 + sub
  | .link l => l

/-- The count of a unit's events of a class, replaced. -/
def State.setCount (s : State) (unit : ErrUnit) (cls n : Nat) : State :=
  { s with errCounts := (unit, cls, n) :: s.errCounts.filter (fun p => !(p.1 == unit && p.2.1 == cls)) }

/-- Logs one event (24 Table 24.1); the firmware passes it to the host. -/
def State.logErr (s : State) (stack what cls cause : Nat) (unit : ErrUnit) (task place : Nat) : State :=
  let n := s.errCount unit cls + 1
  let w0 := BitVec.ofNat 64
    (task % 2 ^ 32 + unit.field % 2 ^ 16 * 2 ^ 32 + cause % 2 ^ 8 * 2 ^ 48 + cls % 16 * 2 ^ 56 + what % 16 * 2 ^ 60)
  { s.setCount unit cls n with host := s.host ++ [.errorLog stack w0 (BitVec.ofNat 64 place) (BitVec.ofNat 64 n) s.time] }

/-- The sub-channel of its stack on which an HBM byte travels (12 R308). -/
def State.subChannel (s : State) (k : Nat) : Nat :=
  let c := s.granCode (k / 2 ^ 30)
  let g := granBytes c
  2 ^ c * (k % 2 ^ 36 / g) % 64 + k % g / 4 % 2 ^ c

/-- The HBM stack and the sub-channel of an HBM byte, as a unit of events. -/
def State.channelUnit (s : State) (k : Nat) : ErrUnit := .channel (k / 2 ^ 36 % 16) (s.subChannel k)

/-- Logs an event of an HBM granule: its unit is the HBM stack and the sub-channel; the log is that of its compute stack. It also goes
out as a CXL general-media event. -/
def State.logGranule (s : State) (k cls cause task : Nat) : State :=
  let s := s.logErr (k / 2 ^ 37 % 8) 2 cls cause (s.channelUnit k) task (s.unitOf k).1
  { s with host := s.host ++ [.media (k / 2 ^ 37 % 8) (s.unitOf k).1 cls] }

/-- The front end of a scratchpad key, or the first of a pool key's stack; and the offset. -/
def sramPlace (k : Nat) : Nat × Nat :=
  if k < 2 ^ 100 then ((k - 2 ^ 60) / 2 ^ 19, (k - 2 ^ 60) % 2 ^ 19) else (64 * ((k - 2 ^ 100) / 2 ^ 31 % 8), (k - 2 ^ 100) % 2 ^ 31)

/-- The unit of a scratchpad or pool word. -/
def sramUnit (k : Nat) : ErrUnit := if k < 2 ^ 100 then .frontEnd (sramPlace k).1 else .pool ((k - 2 ^ 100) / 2 ^ 31 % 8)

/-- Logs an event of a granule or an SRAM word. -/
def State.logUnit (s : State) (k cls cause task : Nat) : State :=
  if isHbm k then s.logGranule k cls cause task
  else if isHost k then s
  else s.logErr (stackOf (sramPlace k).1) 1 cls cause (sramUnit k) task (sramPlace k).2

/-- A scalar store or a host write that poison drops is logged, once for each poisoned unit it meets (24 R426, R429). -/
def State.logDropped (s : State) (cells : List Host.Cell) (task : Nat) : State :=
  ((cells.filter (fun c => s.dropsAt cells c.1)).map (fun c => (s.unitOf c.1).1)).eraseDups.foldl (fun u k => u.logUnit k 2 0 task) s

/-- An empty fault buffer. -/
def FaultBuf.empty : FaultBuf := { recs := [], held := [], ovf := false, heldn := 0, seq := 0 }

/-- Posts a fault-buffer record to a stack's buffer, or holds it at its front end while the buffer is full (25 R444). -/
def State.postFb (s : State) (stack fe src asid : Nat) (task : BitVec 32) (use : Use) (va : Nat) : State :=
  let b := (lookup s.faultBufs stack).getD FaultBuf.empty
  let w0 := BitVec.ofNat 64 (use.code * 2 ^ 62 + src * 2 ^ 58 + fe * 2 ^ 49 + asid * 2 ^ 32 + task.toNat)
  let full := decide (Config.faultBuffer ≤ b.recs.length) || !b.held.isEmpty
  let r : FbRec := { w0 := w0, w1 := BitVec.ofNat 64 va,
                     w2 := BitVec.ofNat 64 (b.seq % 2 ^ 32 * 2 ^ 32 + (if full then 1 else 0)), w3 := s.time }
  let b' := if full then { b with held := b.held ++ [r], ovf := true, heldn := min 0xFFFF (b.heldn + 1), seq := b.seq + 1 }
            else { b with recs := b.recs ++ [r], seq := b.seq + 1 }
  { s with faultBufs := insert s.faultBufs stack b' }

/-- Whether an access waits on a page: its front end, source nibble, and serial number among those of its path. -/
def PfWait.isFor (p : PfWait) (fe page src who : Nat) : Bool := p.fe == fe && p.page == page && p.src == src && p.who == who

/-- The engine of a source nibble, by the lowest of its nibbles: the scalar path, the pass, the page-sorting unit, the copy engine; others
stand alone (25 R442). -/
def engineOf (src : Nat) : Nat :=
  match src with
  | 4 => 3
  | 6 => 5
  | 7 | 15 => 1
  | 12 => 11
  | _ => src

/-- Whether the record of a wait stands for every access of its engine that waits on the page: one not yet answered, and not of a migrating
page. -/
def PfWait.announces (p : PfWait) (fe page src : Nat) : Bool :=
  p.fe == fe && p.page == page && engineOf p.src == engineOf src && !p.gaveUp && !p.mig

/-- The waits of an access are over: it has ended, or will not be made. -/
def State.endWaits (s : State) (fe src who : Nat) : State :=
  { s with pfWaits := s.pfWaits.filter (fun p => !(p.fe == fe && p.src == src && p.who == who)) }

/-- An access of strand t meets not_present: a wait given up ends it (true); otherwise it waits, and its engine posts one
record for the page. -/
def State.pageFault (s : State) (t : Strand) (src who va : Nat) (use : Use) : Bool × State :=
  let page := va / 2 ^ 16
  match s.pfWaits.find? (fun p => p.isFor t.fe page src who) with
  | some p => if p.gaveUp then (true, s.endWaits t.fe src who) else (false, s)
  | none =>
    let w : PfWait := { fe := t.fe, asid := t.br.asid, page := page, src := src, who := who, use := use.code, task := t.br.task,
                        va := BitVec.ofNat 64 va, gaveUp := false, mig := false }
    let s' := if s.pfWaits.any (fun p => p.announces t.fe page src) then s else s.postFb (stackOf t.fe) t.fe src t.br.asid t.br.task use va
    (false, { s' with pfWaits := s.pfWaits ++ [w] })

/-- An access of strand t waits on a migrating page: no record is posted, and a shootdown that covers the page releases it (12
R314). -/
def State.migrateWait (s : State) (t : Strand) (src who va : Nat) (use : Use) : State :=
  let page := va / 2 ^ 16
  if s.pfWaits.any (fun p => p.isFor t.fe page src who) then s
  else { s with pfWaits := s.pfWaits ++ [({ fe := t.fe, asid := t.br.asid, page := page, src := src, who := who, use := use.code, task := t.br.task,
                                            va := BitVec.ofNat 64 va, gaveUp := false, mig := true } : PfWait)] }

/-- What one part of a straddling access that waits posts for the other part: its own page's record. -/
def State.otherPage (s : State) (sup : Bool) (va n src : Nat) (use : Use) (fva : Nat) : State :=
  let n1 := min n (2 ^ 16 - va % 2 ^ 16)
  let va2 := (va + n1) % 2 ^ 64
  if n1 = n ∨ fva = va2 then s
  else match s.locate s.st va2 sup use with
    | .notPresent => (s.pageFault s.st src 0 va2 use).2
    | .migrating => s.migrateWait s.st src 0 va2 use
    | _ => s

/-- The wait of a strand's access to n bytes, answered with give up or not yet answered: until a shootdown answers it, the
access does not walk again (25 R443). -/
def State.pfHold (s : State) (fe va n src who : Nat) : Option PfWait :=
  s.pfWaits.find? (fun p => p.isFor fe (va / 2 ^ 16) src who || p.isFor fe ((va + n - 1) % 2 ^ 64 / 2 ^ 16) src who)

/-- What an access made at issue comes to: done, waiting, or a trap. -/
inductive Got (α : Type) where
  | val (a : α) (s : State)
  | wait (s : State)
  | trap (code : BitVec 8) (stval : Word) (s : State)

/-- A cause code of a kind and a source (23 R392). -/
def causeOf (kind src : Nat) : BitVec 8 := BitVec.ofNat 8 (kind * 16 + src)

/-- The hardware error of a kind that the next write or write-back of a path is to meet: kind 11 a request that is lost (25 R438), kind 8
a mismatch (24 R422). -/
def State.trip? (s : State) (src kind : Nat) : Option Trip := s.st.eng.trips.find? (fun t => t.src == src && t.kind == kind)

/-- The state with that error met. -/
def State.untrip (s : State) (t : Trip) : State := s.setEng { s.st.eng with trips := s.st.eng.trips.erase t }

/-- A write or atomic that an instruction sends: performed, or, where its request is lost, performed or not, with kind B (25 R438). -/
def State.sends (s : State) (src va : Nat) (write : State → State) : Got Unit :=
  match s.trip? src 11 with
  | some t => .trap (causeOf 11 src) (BitVec.ofNat 64 va) ((if Config.lostDone s.tick then write s else s).untrip t)
  | none => .val () (write s)

/-- A located access of the strand whose turn it is, with its page faults. -/
def State.access (s : State) (va n src : Nat) (use : Use) : Got (List Nat) :=
  match s.pfHold s.st.fe va n src 0 with
  | some p =>
    if p.gaveUp then .trap (causeOf 3 src) p.va (s.endWaits s.st.fe src 0) else .wait s
  | none =>
  match s.locateN s.st va n s.sup use with
  | .keys ks => .val ks s
  | .stop .notPresent fva _ =>
    let r := s.pageFault s.st src 0 fva use
    if r.1 then .trap (causeOf 3 src) (BitVec.ofNat 64 fva) r.2 else .wait (r.2.otherPage s.sup va n src use fva)
  | .stop .migrating fva _ => .wait ((s.migrateWait s.st src 0 fva use).otherPage s.sup va n src use fva)
  | .stop (.fault k) fva _ => .trap (causeOf k src) (BitVec.ofNat 64 fva) s
  | .stop (.at _) _ _ => .wait s

/-- The virtual address of the poisoned unit that the i-th byte of an access lies in (23 Table 23.3). -/
def State.poisonVa (s : State) (va : Nat) (ks : List Nat) : Option Nat :=
  match ks.zipIdx.find? (fun p => s.poisonedAt p.1) with
  | some (k, i) =>
    match s.poison.find? (fun p => decide (p.1 ≤ k) && decide (k < p.1 + p.2)) with
    | some p => some ((va + i + 2 ^ 64 - (k - p.1)) % 2 ^ 64)
    | none => some va
  | none => none

/-- A byte that a read made at issue delivers: FLD's on path F and a descriptor's on path M may not observe a copy yet (11 R262). -/
def State.readByte (s : State) (src k : Nat) : Byte :=
  if src = 10 then s.byteFor 5 k else if src = 9 then s.byteFor 4 k else s.mem.get k

/-- A read of n bytes at issue: page faults, faults and poison (24 R426) stop it. -/
def State.readN (s : State) (va n src : Nat) (use : Use) : Got (List Byte) :=
  match s.access va n src use with
  | .val ks s' =>
    match s'.poisonVa va ks with
    | some p => .trap (causeOf 7 src) (BitVec.ofNat 64 p) s'
    | none => .val (ks.map (s'.readByte src)) s'
  | .wait s' => .wait s'
  | .trap c v s' => .trap c v s'

/-- The scalar path's write of cells, logged where poison drops it (24 R429). -/
def State.storeCells (s : State) (cells : List Host.Cell) : State := (s.logDropped cells s.st.br.task.toNat).write .scalar cells

/-- The first bytes of an access that lie in one page. -/
def firstPart (va n : Nat) : Nat := min n (2 ^ 16 - va % 2 ^ 16)

/-- What the store at pc is yet to write: all of it, or the part on one page where it waits with the other part performed (13 R325). -/
def State.storeLeft (s : State) (va : Nat) (bs : List Byte) : Nat × List Byte :=
  let n1 := firstPart va bs.length
  match s.st.eng.half with
  | some h => if h.1 ≠ s.st.pc then (va, bs) else if h.2 then ((va + n1) % 2 ^ 64, bs.drop n1) else (va, bs.take n1)
  | none => (va, bs)

/-- The state with a part of the store at pc performed, the first or the second; or with none. -/
def State.setPart (s : State) (h : Option (Word × Bool)) : State := s.setEng { s.st.eng with half := h }

/-- The rest of a scalar store (12 R303, 13 R325): where one page of a straddling store stops, the other part is performed or not, once, and
so is a store that is lost (25 R438). -/
def State.storeRest (s : State) (va : Nat) (bs : List Byte) (src : Nat) : Got Unit :=
  match s.pfHold s.st.fe va bs.length src 0 with
  | some p =>
    if p.gaveUp then .trap (causeOf 3 src) p.va (s.endWaits s.st.fe src 0) else .wait s
  | none =>
  match s.locateN s.st va bs.length s.sup .write with
  | .keys ks => s.sends src va (fun s => (s.storeCells (ks.zip bs)).setPart none)
  | .stop w fva other =>
    let n1 := firstPart va bs.length
    let part := if fva = va then bs.drop n1 else bs.take n1
    let s' := if other ≠ [] ∧ Config.splitDone s.tick then (s.storeCells (other.zip part)).setPart (some (s.st.pc, fva != va)) else s
    match w with
    | .notPresent =>
      let r := s'.pageFault s'.st src 0 fva .write
      if r.1 then .trap (causeOf 3 src) (BitVec.ofNat 64 fva) r.2 else .wait (r.2.otherPage s.sup va bs.length src .write fva)
    | .fault k => .trap (causeOf k src) (BitVec.ofNat 64 fva) s'
    | .migrating => .wait ((s'.migrateWait s'.st src 0 fva .write).otherPage s.sup va bs.length src .write fva)
    | .at _ => .wait s'

/-- A scalar store of n bytes. -/
def State.storeN (s : State) (va : Nat) (bs : List Byte) (src : Nat) : Got Unit :=
  let r := s.storeLeft va bs
  s.storeRest r.1 r.2 src

/-- The keys that a scalar store may write in this step. -/
def State.storeKeys (s : State) (va : Nat) (bs : List Byte) : List Nat :=
  let r := s.storeLeft va bs
  match s.locateN s.st r.1 r.2.length s.sup .write with
  | .keys ks => ks
  | .stop _ _ ks => ks

/-- The outcome of an instruction's access: its continuation, a stall, or the trap. -/
def Got.andThen {α : Type} (g : Got α) (k : α → State → Out) : Out :=
  match g with
  | .val a s => k a s
  | .wait s => stall s
  | .trap c v s => trapV s c v

/-! ## Fetch (05 R108, R111; 12 R303) -/

/-- Whether the strand's instruction cache may still hold what a write overwrote, which made the memory log so long: a store of the
strand until a FENCE.I, and a write of an engine of it or of another agent until a FENCEP that orders its class before S and then a
FENCE.I (05 R111; log 85). -/
def Strand.mayFetchOld (t : Strand) (w : Overwrite) (len : Nat) : Bool :=
  let cls := (w.by_ - (8 * t.fe + 1)) % 8
  let own := decide (8 * t.fe + 1 ≤ w.by_) && decide (w.by_ < 8 * t.fe + 9)
  if own && cls == 0 then decide (t.icMark < len) else decide (t.icSeen.toList.getD (if own then cls else 0) 0 < len)

/-- The writes to keys that the strand's instruction cache may not show yet, newest first. -/
def State.fetchOver (s : State) (ks : List Nat) : List Overwrite :=
  (((s.wlog.zipIdx.filter (fun w => w.1.cells.any (fun c => ks.contains c.1)))).takeWhile
    (fun w => s.st.mayFetchOld w.1 (s.wlog.length - w.2))).map Prod.fst

/-- The word at four keys as the strand's instruction cache may supply it: as it stands, or as it stood before some of those writes (05
R111; logs 10 and 85). -/
def State.fetchWord (s : State) (ks : List Nat) : IWord :=
  let ws := s.fetchOver ks
  let n := if ws.isEmpty then 0 else Config.staleDepth s.tick (ks.headD 0) % (ws.length + 1)
  BitVec.ofNat 32 (leNat (ks.map (undo (ws.take n) s.mem)))

/-- The next instruction word of the strand: every word stands at a multiple of 4, and no word is fetched elsewhere (05 R108; log 74). -/
def State.fetch (s : State) : Got IWord :=
  if s.st.pc.toNat % 4 ≠ 0 then .trap 0x50 s.st.pc s
  else
  match s.access s.st.pc.toNat 4 0 .fetch with
  | .val ks s' =>
    match s'.poisonVa s'.st.pc.toNat ks with
    | some p => .trap (causeOf 7 0) (BitVec.ofNat 64 p) s'
    | none => .val (s'.fetchWord ks) s'
  | .wait s' => .wait s'
  | .trap c v s' => .trap c v s'

end Sys2Proof.Machine
end

