-- ==== Sys2Proof/Machine/Errors.lean ====
section
/-! DEFINITION. Machine/Errors.lean: halves and their records, the events that count in an undervolting domain, register words
with their parity and the XOR lane, and a memory word or granule that a code corrects (01 R11 to R18, R20, R22; 24 R414 to
R419, R424, R425, R428, R433 to R435). -/

namespace Sys2Proof.Machine

/-! ## Halves (01 R12, R20, R22) -/

/-- The identifier of a half (01 Table 1.4). -/
def halfId (stack row col side : Nat) : BitVec 16 := BitVec.ofNat 16 (stack * 2 ^ 13 + row * 2 ^ 10 + col * 2 ^ 6 + side * 2 ^ 5)

/-- Whether a half identifier names a half. -/
def halfLegal (h : BitVec 16) : Bool := decide (h.toNat / 2 ^ 6 % 2 ^ 4 ≤ 8) && h.toNat % 2 ^ 5 == 0

/-- The listed halves of a bind record. -/
def BindRec.listed (b : BindRec) : List (BitVec 16) := b.halves.toList.filter (fun h => h != 0xFFFF)

/-- The harness record of a half. -/
def State.halfRec (s : State) (h : BitVec 16) : HalfRec := (lookup s.halves h.toNat).getD { retired := false, lanes := 0 }

/-- The state with a half's harness record replaced. -/
def State.setHalf (s : State) (h : BitVec 16) (r : HalfRec) : State := { s with halves := insert s.halves h.toNat r }

/-- Retired lanes of a mask. -/
def laneCount (m : BitVec 16) : Nat := ((List.range 16).filter (fun i => m.getLsbD i)).length

/-- The task bound to a half, or 0. -/
def State.taskOfHalf (s : State) (h : BitVec 16) : Nat :=
  match s.slots.find? (fun p => p.2.state == .bound && !p.2.br.lent && p.2.br.listed.contains h) with
  | some p => p.2.br.task.toNat
  | none => 0

/-- The task bound to a front end, or 0. -/
def State.taskOfFe (s : State) (fe : Nat) : Nat :=
  match (s.st :: s.others).find? (fun t => t.run != .unbound && decide (t.fe ≤ fe) && decide (fe < t.fe + t.br.g)) with
  | some t => t.br.task.toNat
  | none => 0

/-! ## Undervolting domains (24 R433, R435)

Domains: 0 to 575 physical slabs; 576 to 1,087 front ends. -/

/-- A domain with nothing counted. -/
def Domain.quiet : Domain := { events := 0, second := 0, steps := 0, floor := 0, recount := false, test := false }

/-- A domain. -/
def State.domain (s : State) (d : Nat) : Domain := (lookup s.domains d).getD Domain.quiet

/-- The state with a domain replaced. -/
def State.setDomain (s : State) (d : Nat) (v : Domain) : State := { s with domains := insert s.domains d v }

/-- The stack of a domain. -/
def domainStack (d : Nat) : Nat := if d < 576 then d / 72 else stackOf (d - 576)

/-- The domain of a half. -/
def domainOfHalf (h : BitVec 16) : Nat := h.toNat / 2 ^ 13 * 72 + h.toNat / 2 ^ 10 % 8 * 9 + h.toNat / 2 ^ 6 % 16

/-- Periods of the package time base in one second (05 Table 5.1). -/
abbrev second : Nat := 100000000

/-- A corrected or transient event counts in its domain: those of the second under way, which begins anew at the first event
after it has passed (log 72). A locked-clock stack has undervolting off (24 R435). -/
def State.countEvent (s : State) (d : Nat) : State :=
  if s.fw.locked.contains (domainStack d) then s
  else
    let v := s.domain d
    let now := s.time.toNat
    if !v.recount ∧ v.events < 16 ∧ v.second + second ≤ now then s.setDomain d { v with events := 1, second := now }
    else s.setDomain d { v with events := v.events + 1 }

/-- An event of a half's lanes (what 0) or of its share of the hoop array (what 1) that changes no value: logged, and counted in the domain of
its slab. -/
def State.halfEvent (s : State) (h : BitVec 16) (what cls place : Nat) : State :=
  (s.countEvent (domainOfHalf h)).logErr (h.toNat / 2 ^ 13) what cls 0 (.half h.toNat) (s.taskOfHalf h) place

/-- An event of a front end's SRAM that changes no value: logged, and counted in the domain of the front end. -/
def State.feEvent (s : State) (fe cls place : Nat) : State :=
  (s.countEvent (576 + fe)).logErr (stackOf fe) 1 cls 0 (.frontEnd fe) (s.taskOfFe fe) place

/-- The half of a strand's harness. -/
def Strand.halfAt (t : Strand) (h : Nat) : BitVec 16 := t.br.halves.toList.getD h 0xFFFF

/-- The two halves of the logical slab of a protected harness that holds half h of the record: the one that computes and its mirror. -/
def Strand.pairAt (t : Strand) (h : Nat) : BitVec 16 × BitVec 16 := (t.halfAt (h / 2 * 2), t.halfAt (h / 2 * 2 + 1))

/-- A mismatch of the strand in a protected harness, at half h of its record: transient (class 0), or confirmed (class 2) with the cause it
raises. Which of the two halves is at fault a later self-test finds, so it is logged and counted of the pair, and in the domains of
both (24 R415, R423, R435; log 72). -/
def State.mismatch (s : State) (h cls : Nat) (cause : BitVec 8) : State :=
  let p := s.st.pairAt h
  let ds := [domainOfHalf p.1, domainOfHalf p.2].eraseDups
  (ds.foldl State.countEvent s).logErr (p.1.toNat / 2 ^ 13) 3 cls cause.toNat (.pair p.1.toNat p.2.toNat) s.st.br.task.toNat 0

/-- The pair of a unit names a half. -/
def ErrUnit.suspects (u : ErrUnit) (h : Nat) : Bool :=
  match u with
  | .pair first mirror => first == h || mirror == h
  | _ => false

/-- A self-test finds a half faulty: the mismatches of its pairs count against it (24 R423). -/
def State.blameHalf (s : State) (h : Nat) : State :=
  let mine := s.errCounts.filter (fun p => p.1.suspects h)
  mine.foldl (fun s p => s.setCount (.half h) p.2.1 (s.errCount (.half h) p.2.1 + p.2.2))
    { s with errCounts := s.errCounts.filter (fun p => !p.1.suspects h) }

/-- An entry of a pricking store, a queue or the copy staging that fails its parity is consumed: logged with the cause it raises (24 R415,
R425). -/
def State.badEntry (s : State) (cause : BitVec 8) : State :=
  s.logErr (stackOf s.st.fe) 1 2 cause.toNat (.frontEnd s.st.fe) s.st.br.task.toNat 0

/-! ## Lasting events of a half (24 R418, R419, R434) -/

/-- The lanes of a half become degraded in the strand whose harness holds it. -/
def Strand.degrade (t : Strand) (h : BitVec 16) (lanes : List Nat) : Strand :=
  { t with degraded := t.br.halves.toList.zipIdx.foldl (fun d p =>
      if p.1 = h then d ++ (lanes.filter (fun l => !d.contains (p.2, l))).map (fun l => (p.2, l)) else d) t.degraded }

/-- The lanes of a half become degraded wherever it is bound. -/
def State.degradeHalf (s : State) (h : BitVec 16) (lanes : List Nat) : State :=
  let f := fun t : Strand => if t.run = .unbound then t else t.degrade h lanes
  { s with st := f s.st, others := s.others.map f }

/-- What a lasting event retires: the lane, or the whole half where the fault lies elsewhere in it or more than four of its lanes
would be retired. A half retired as a whole is degraded in every lane while it stays bound. -/
def State.retireLane (s : State) (h : BitVec 16) (lane : Option (Fin 16)) : State :=
  let r := s.halfRec h
  let whole := (s.setHalf h { r with retired := true }).degradeHalf h (List.range 16)
  match lane with
  | some i =>
    let m := r.lanes ||| BitVec.ofNat 16 (2 ^ i.val)
    if 4 < laneCount m then whole else (s.setHalf h { r with lanes := m }).degradeHalf h [i.val]
  | none => whole

/-- A lasting event of a half: counted and logged, and its lane or the half is retired. -/
def State.lastingHalf (s : State) (h : BitVec 16) (lane : Option (Fin 16)) : State :=
  (s.halfEvent h 0 1 0).retireLane h lane

/-- The half whose share of the hoop array holds a word of the accumulators or latch buffers, by its offset in the tile space of a strand:
array rows 0 to 63 lie in the first half of a logical slab and rows 64 to 127 in the second (01 R13; 12 Table 12.3). Row p of an
accumulator lies at array row p, and a latch image holds 8 bytes of each cell row by row, its descriptor at row 0 (log 94). -/
def Strand.hoopHalf (t : Strand) (off : Nat) : Option (BitVec 16) :=
  let cols := 64 * t.br.g
  let cell : Option Nat :=
    if 0x200000 ≤ off ∧ off < 0x280000 then some (off % 0x20000 / 4)
    else if 0x400000 ≤ off ∧ off < 0x480000 then some (off % 0x40000 / 8)
    else if 0x480000 ≤ off ∧ off < 0x480010 then some 0
    else none
  cell.bind (fun c =>
    let h := t.halfAt (c % cols / 64 * 2 + c / cols / 64)
    if c / cols < 128 ∧ h ≠ 0xFFFF then some h else none)

/-- A word of the strand's tile space that its code corrects (24 R425): of the accumulators and latch buffers, an event of the slab with its
hoop array, and where it is lasting it retires the half (24 R419, R433, R434); of the others, an event of the front end. -/
def State.tileFixed (s : State) (off : Nat) (lasting : Bool) : State :=
  match s.st.hoopHalf off with
  | some h =>
    let s := s.halfEvent h 1 (if lasting then 1 else 0) off
    if lasting then s.retireLane h none else s
  | none => s.feEvent s.st.fe (if lasting then 1 else 0) off

/-- A word of the strand's tile space that cannot be corrected is poisoned. -/
def State.tileBad (s : State) (off : Nat) : State :=
  let s' := s.setMat { s.st.mat with poison := s.st.mat.poison ++ [(off / 4 * 4, 4)] }
  s'.logErr (stackOf s.st.fe) 1 2 0 (((s.st.hoopHalf off).map (fun h => ErrUnit.half h.toNat)).getD (.frontEnd s.st.fe)) s.st.br.task.toNat off

/-! ## Register words (01 R11, R13, R16, R18; 24 R416 to R418, R424) -/

/-- Data lanes of a strand in the order of its lanes: half of the harness, lane of the half. In protected mode the first half of
each slab computes. -/
def Strand.laneList (t : Strand) : List (Nat × Nat) :=
  (List.range 8).flatMap (fun h =>
    if t.br.prot && h % 2 == 1 then []
    else ((List.range 16).filter (fun i => (t.act.toList.getD h 0).getLsbD i)).map (fun i => (h, i)))

/-- Where 64-bit word j of a register lies: half, lane, and position in the lane's slice (04 R101). -/
def Strand.wordPlace (t : Strand) (j : Nat) : Nat × Nat × Nat :=
  let q := t.laneList.getD (j % t.lanes) (0, 0)
  (q.1, q.2, j / t.lanes)

/-- The word of a half's data lane at a register and position; a lane that is not active holds zero (log 70). -/
def Strand.sliceWord (t : Strand) (h lane r pos : Nat) : Nat :=
  match t.laneList.zipIdx.find? (fun p => p.1.1 == (if t.br.prot then h / 2 * 2 else h) && p.1.2 == lane) with
  | some (_, q) => elemOf (t.vec.v.toList.getD r 0) 64 (pos * t.lanes + q)
  | none => 0

/-- The word of a half's XOR lane at a register and position (01 R11): the XOR of the 16 data words. -/
def Strand.xorWord (t : Strand) (h r pos : Nat) : Nat :=
  (List.range 16).foldl (fun a l => a ^^^ t.sliceWord h l r pos) 0

/-- The word that a rebuild of a lane delivers: the XOR of the XOR lane's word with the 15 other data words. -/
def Strand.rebuild (t : Strand) (h lane r pos : Nat) : Nat :=
  ((List.range 16).filter (fun l => l != lane)).foldl (fun a l => a ^^^ t.sliceWord h l r pos) (t.xorWord h r pos)

/-- Lanes whose word fails parity at a register and position of a half. -/
def Vec.failing (v : Vec) (h r pos : Nat) : List Nat :=
  (v.bad.filter (fun b => b.half == h && b.reg == r && b.pos == pos)).map BadWord.lane

/-- The halves that hold a word: in protected mode each of the two acts on its own (24 R424). -/
def Strand.holders (t : Strand) (h : Nat) : List Nat := if t.br.prot then [h / 2 * 2, h / 2 * 2 + 1] else [h]

/-- Whether a word of a lane is to be rebuilt and cannot be: another word at its position fails parity too. The XOR lane's word is
first recomputed where the 16 data words pass. -/
def Strand.wordLost (t : Strand) (h lane r pos : Nat) : Bool :=
  let f := t.vec.failing h r pos
  if f.contains lane then f.any (fun l => l != lane)
  else t.degraded.contains (h, lane) && f.any (fun l => l != 16)

/-- Whether 64-bit word j of a register cannot be read. -/
def Strand.lost (t : Strand) (r j : Nat) : Bool :=
  if t.vec.bad.isEmpty then false
  else
    let p := t.wordPlace j
    (t.holders p.1).any (fun h => t.wordLost h p.2.1 r p.2.2)

/-- Words below n of a register that cannot be read. -/
def Strand.lostBelow (t : Strand) (r n : Nat) : Bool := !t.vec.bad.isEmpty && (List.range n).any (t.lost r)

/-- The two results of an executed instruction are compared before anything is performed: a mismatch that does not come again is transient,
and the work goes on; one that does is 0x87 (24 R422, R423). Of a move, the mismatch of element i. -/
def State.compared (s : State) (i : Option Nat) : Got Unit :=
  match s.trip? 7 8 with
  | some t =>
    if !s.st.br.prot ∨ i.any (fun e => e != t.elem) then .val () s
    else if t.again then .trap 0x87 0 ((s.untrip t).mismatch 0 2 0x87)
    else .val () ((s.untrip t).mismatch 0 0 0)
  | none => .val () s

/-- Register and word position as an event record gives them (log 83). -/
def wordWhere (r pos : Nat) : Nat := r * 8 + pos

/-- A read of a lane's word that succeeds. A failing word is rebuilt, written back and read again; a lane whose word fails once more is
degraded (24 R414, R416, R418). A rebuild of a degraded lane's word that passes its parity is logged in a locked-clock task alone (24
R435; log 94). -/
def State.readLane (s : State) (h lane r pos : Nat) : State :=
  let id := s.st.halfAt h
  match s.st.vec.bad.find? (fun b => b.half == h && b.reg == r && b.pos == pos && b.lane == lane) with
  | none =>
    if s.st.br.lc && s.st.degraded.contains (h, lane) then
      s.logErr (id.toNat / 2 ^ 13) 0 1 0 (.half id.toNat) s.st.br.task.toNat (wordWhere r pos)
    else s
  | some b =>
    if b.lasting then
      let s := (s.halfEvent id 0 1 (wordWhere r pos)).retireLane id (if l : lane < 16 then some ⟨lane, l⟩ else none)
      { s with st := { s.st with degraded := if s.st.degraded.contains (h, lane) then s.st.degraded else s.st.degraded ++ [(h, lane)] } }
    else (s.setVec { s.st.vec with bad := s.st.vec.bad.erase b }).halfEvent id 0 0 (wordWhere r pos)

/-- Words of registers are read: (register, word). A degraded lane's is served by the XOR lane. -/
def State.readWords (s : State) (ws : List (Nat × Nat)) : State :=
  if s.st.vec.bad.isEmpty && !(s.st.br.lc && !s.st.degraded.isEmpty) then s
  else ws.foldl (fun s w =>
    let p := s.st.wordPlace w.2
    (s.st.holders p.1).foldl (fun s h =>
      (if s.st.degraded.contains (h, p.2.1) then s.readLane h 16 w.1 p.2.2 else s).readLane h p.2.1 w.1 p.2.2) s) s

/-- The words below n of registers. -/
def wordsOf (rs : List Nat) (n : Nat) : List (Nat × Nat) := rs.flatMap (fun r => (List.range n).map (fun j => (r, j)))

/-- The event of a word that cannot be rebuilt: logged with the cause code it raises, of the half that holds it and cannot rebuild it, in
protected mode perhaps the mirror (24 R415, R417, R424). -/
def State.logLost (s : State) (r j : Nat) (code : BitVec 8) : State :=
  let p := s.st.wordPlace j
  let id := s.st.halfAt (((s.st.holders p.1).find? (fun h => s.st.wordLost h p.2.1 r p.2.2)).getD p.1)
  s.logErr (id.toNat / 2 ^ 13) 0 2 code.toNat (.half id.toNat) s.st.br.task.toNat (wordWhere r p.2.2)

/-- The words that a test selects are written in full: their parity, and that of the XOR lane there, holds again (01 R11; 24
R417). -/
def Strand.wrote (t : Strand) (written : Nat → Nat → Bool) : List BadWord :=
  t.vec.bad.filter (fun b =>
    !((List.range (8 * t.lanes)).any (fun j =>
      let p := t.wordPlace j
      written b.reg j && p.2.2 == b.pos && (t.holders p.1).contains b.half && (b.lane == p.2.1 || b.lane == 16))))

/-- The state after words of registers are written in full. -/
def State.wroteWords (s : State) (written : Nat → Nat → Bool) : State :=
  if s.st.vec.bad.isEmpty then s else s.setVec { s.st.vec with bad := s.st.wrote written }

/-- The first word that cannot be read among those of registers, below n words. -/
def Strand.firstLost (t : Strand) (ws : List (Nat × Nat)) : Option (Nat × Nat) :=
  if t.vec.bad.isEmpty then none else ws.find? (fun w => t.lost w.1 w.2)

end Sys2Proof.Machine
end

