-- ==== Sys2Proof/Machine/Fence.lean ====
section
/-! DEFINITION. Machine/Fence.lean: path classes and the orders that FENCEP sets among the strand's engines (11 R264, R265;
log 11). Work of every class carries a serial number in the order it was given. -/

namespace Sys2Proof.Machine

/-- Classes of a pass: V for unit and strided streams, G for gathers, scatters and atomics (11 Table 11.3). -/
def Pricking.classes (p : Pricking) : List Nat :=
  let has := fun f : NOp → Bool => p.nodes.any (fun n => f n.op)
  (if has (fun o => o == .load || o == .store) then [1] else []) ++
    (if has (fun o => o == .loadx || o == .storex || o == .amo) then [2] else [])

/-- Classes of a pass in flight. -/
def Pass.classes (p : Pass) : List Nat := p.pk.classes

/-- The passes given and not ended, each with its serial number: the one in flight and those that start after it. -/
def Strand.passes (t : Strand) : List (Nat × Pricking) :=
  (match t.vec.pass with | some p => [(p.serial, p.pk)] | none => []) ++
    t.vec.ahead.filterMap (fun a => a.force.map (fun f => (f.1, a.pk)))

/-- Whether a matrix instruction is of path M towards every class: it reads memory, or is a follow-on (11 Table 11.3). -/
def MatOp.reads (o : MatOp) : Bool :=
  o.after.isSome ||
    (match o.i with
     | .hmulp _ | .mnorm _ | .msamp _ => true
     | _ => false)

/-- Whether a matrix instruction is of path M towards a class: its reads of memory, and towards the copies of paths C and X every
access to the tile space (11 Table 11.3, 08 R202). -/
def MatOp.pathM (o : MatOp) (cls : Nat) : Bool :=
  cls == 3 || cls == 6 || o.reads

/-- Whether work of class a given before a serial number is not yet performed, as class b is ordered with it: b 6 stands for a
CPYM, 8 for a remote atomic, 9 for tile work that reads no memory, which the copies of path X alone concern. -/
def Strand.outstanding (t : Strand) (a b n : Nat) : Bool :=
  match a with
  | 1 | 2 => t.passes.any (fun p => decide (p.1 < n) && p.2.classes.contains a)
  | 3 => t.eng.copies.any (fun c => c.reps.isNone && decide (c.serial < n))
  | 4 => t.mat.queue.any (fun o => o.pathM b && decide (o.serial < n))
  | 5 => (match t.fab.run with | some r => decide (r.serial < n) | none => false)
  | 6 => t.eng.copies.any (fun c => c.reps.isSome && decide (c.serial < n)) ||
      (b != 9 && t.eng.ramos.any (fun r => r.res.isNone && decide (r.serial < n)))
  | 7 => t.eng.pkts.any (fun p => decide (p.serial < n))
  | _ => false

/-- Whether work of a class with a serial number may be performed: no fence holds it behind outstanding work. -/
def Strand.openTo (t : Strand) (cls serial : Nat) : Bool :=
  t.eng.fences.all (fun f => f.b != cls || decide (serial < f.serial) || !t.outstanding f.a cls f.serial)

/-- Whether a remote atomic may be performed. -/
def Strand.ramoOpen (t : Strand) (serial : Nat) : Bool :=
  t.eng.fences.all (fun f => f.b != 6 || decide (serial < f.serial) || !t.outstanding f.a 8 f.serial)

/-- Whether the pass in flight may perform accesses. -/
def Strand.passOpen (t : Strand) (p : Pass) : Bool := p.classes.all (fun c => t.openTo c p.serial)

/-- Whether a matrix instruction may be performed: a fence from copies holds all of them, others hold reads of memory. -/
def Strand.matOpen (t : Strand) (o : MatOp) : Bool :=
  t.eng.fences.all (fun f => f.b != 4 || !o.pathM f.a || decide (o.serial < f.serial) ||
    !t.outstanding f.a (if o.reads then 4 else 9) f.serial)

/-- Whether a copy may be performed. -/
def Strand.copyOpen (t : Strand) (c : Copy) : Bool := t.openTo (if c.reps.isSome then 6 else 3) c.serial

/-- Whether an access of a class that an instruction makes now may be performed. -/
def State.openNow (s : State) (cls : Nat) : Bool := s.st.openTo cls s.st.eng.serial

/-- Later accesses of path b come after all work that path a's came after before, and so observe it (11 R262; 13 R332). -/
def Eng.ordered (e : Eng) (a b : Nat) : Eng :=
  let us := e.unseen.map (fun u => if u.reach.contains a then { u with reach := b :: u.reach } else u)
  { e with unseen := us.filter (fun u => !u.reach.contains u.cls) }

/-- The classes whose later accesses come after some work with a serial number: those that come after it at once, and those that fences
given since set behind them, one after another (11 R265; 13 R332). -/
def Eng.behind (e : Eng) (first : List Nat) (serial : Nat) : List Nat :=
  e.fences.foldl (fun r f => if r.contains f.a && decide (serial < f.serial) then f.b :: r else r) first

/-- Adds a fence, and forgets those whose earlier work is done; path b observes what path a's copies have performed, and what comes before
path a by an earlier fence (11 R262; 13 R332). -/
def State.addFence (s : State) (a b : Nat) : State :=
  let e := s.st.eng.ordered a b
  let live := fun f : Fence => s.st.outstanding f.a f.b f.serial
  s.setEng { e with fences := (e.fences ++ [({ a := a, b := b, serial := e.serial } : Fence)]).filter live }

end Sys2Proof.Machine
end

