-- ==== Sys2Proof/Machine/Fabric.lean ====
section
/-! DEFINITION. Machine/Fabric.lean: bobbins, their words and a fabric run (10 R228 to R249). A run's cycle is made of one
turn for each bobbin that has not halted; every turn sees the run as it stood at the start of the cycle. -/

namespace Sys2Proof.Machine

/-! ## The ring (10 R228) and its queues (R231, R235, R236) -/

/-- The next bobbin of i. -/
def Run.next (r : Run) (i : Nat) : Nat := (i + 1) % max 1 r.bobbins.length

/-- The previous bobbin of i. -/
def Run.prev (r : Run) (i : Nat) : Nat := (i + r.bobbins.length - 1) % max 1 r.bobbins.length

/-- END as FRUN places it. -/
def QEntry.end_ : QEntry := .tok 4 0

/-- END of either origin. -/
def QEntry.isEnd (e : QEntry) : Bool :=
  match e with
  | .tok k _ => k == 4
  | .data _ => false

/-- The fields of a bobbin word (R237). -/
def bwOf (w : IWord) : BW :=
  { dst := w.extractLsb' 20 4, a := w.extractLsb' 16 4, b := w.extractLsb' 12 4, imm := w.extractLsb' 0 12 }

/-- The word at a bobbin's pc in its current context. -/
def Fabric.wordAt (fab : Fabric) (b : Bobbin) : IWord :=
  (if b.ctx = 0 then fab.ctx0 else fab.ctx1).toList.getD (b.pc % 32) haltWord

/-- Whether an operand code takes from a queue (Table 10.3). -/
def takes (code : BitVec 4) : Bool := decide (8 ≤ code.toNat) && decide (code.toNat ≤ 13)

/-- The entry at a place of a queue, where it can be taken in a cycle. An input queue's END is sticky. -/
def Bobbin.entry (b : Bobbin) (code : BitVec 4) (place cycle : Nat) : Option QEntry :=
  let near := fun (q : List (QEntry × Nat)) =>
    match q[place]? with
    | some e => if e.2 ≤ cycle then some e.1 else none
    | none => none
  if code.toNat = 12 then near b.qr
  else if code.toNat = 13 then near b.ql
  else some ((b.qi.toList.getD (code.toNat - 8) []).getD place .end_)

/-- The bobbin without the entry at a place of a queue; an END of an input queue stays. -/
def Bobbin.remove (b : Bobbin) (code : BitVec 4) (place : Nat) : Bobbin :=
  if code.toNat = 12 then { b with qr := b.qr.eraseIdx place }
  else if code.toNat = 13 then { b with ql := b.ql.eraseIdx place }
  else
    { b with qi := Vector.ofFn (fun (j : Fin 4) =>
        let q := b.qi[j]
        if j.val + 8 = code.toNat ∧ !(q.getD place .end_).isEnd then q.eraseIdx place else q) }

/-- The takes of a word: source A's, then source B's, each with its place in its queue. -/
def takesOf (f : BW) : List (BitVec 4 × Nat) :=
  (if takes f.a then [(f.a, 0)] else []) ++ (if takes f.b then [(f.b, if f.a == f.b then 1 else 0)] else [])

/-- Whether a neighbour queue has room for a word's destination: 8 entries (R231). -/
def Run.room (r : Run) (start : List Bobbin) (i : Nat) (dst : BitVec 4) : Bool :=
  match dst.toNat with
  | 10 => (match start[r.next i]? with | some b => decide (b.qr.length < 8) | none => true)
  | 11 => (match start[r.prev i]? with | some b => decide (b.ql.length < 8) | none => true)
  | _ => true

/-- Whether bobbin i waits for a queue entry or for room (R235, R242). -/
def Run.blocked (r : Run) (fab : Fabric) (start : List Bobbin) (i : Nat) : Bool :=
  match start[i]? with
  | some b =>
    let f := bwOf (fab.wordAt b)
    !(takesOf f).all (fun t => (b.entry t.1 t.2 r.cycle).isSome) || !r.room start i f.dst
  | none => false

/-- Whether a neighbour holds bobbin i back: 8 words fewer retired, not halted and not waiting on a queue (R242). -/
def Run.heldBack (r : Run) (fab : Fabric) (i : Nat) : Bool :=
  match r.start[i]? with
  | some b =>
    [r.next i, r.prev i].any (fun j =>
      match r.start[j]? with
      | some n => !n.halted && !r.blocked fab r.start j && decide (n.count + 8 ≤ b.count)
      | none => false)
  | none => false

/-- Whether the registers a word reads stand (R244). -/
def Run.ready (r : Run) (i : Nat) (regs : List Nat) : Bool :=
  match r.start[i]? with
  | some b => regs.all (fun n => decide (b.ready.toList.getD n 0 ≤ r.cycle))
  | none => true

/-- The registers named by a word's A and B fields. -/
def regsOf (f : BW) : List Nat := [f.a.toNat, f.b.toNat].filter (fun c => decide (c < 8))

/-! ## Turns -/

/-- The run with bobbin i replaced. -/
def Run.set (r : Run) (i : Nat) (b : Bobbin) : Run := { r with bobbins := r.bobbins.set i b }

/-- The first bobbin from i on that has not halted. -/
def firstLive (bs : List Bobbin) (i : Nat) : Option Nat :=
  (bs.zipIdx.find? (fun p => decide (i ≤ p.2) && !p.1.halted)).map Prod.snd

/-- The next turn: the next bobbin that has not halted, in this cycle or the next. -/
def Run.nextTurn (r : Run) : Run :=
  match firstLive r.bobbins (r.turn + 1) with
  | some j => { r with turn := j }
  | none => { r with turn := (firstLive r.bobbins 0).getD 0, cycle := r.cycle + 1, start := r.bobbins }

/-- Width in bits of the elements of a run. -/
def Run.w (r : Run) : Nat := etWidth (vtEt r.vtype)

/-- A popped element as a 64-bit bobbin value (R233), with the flag of a signalling NaN. -/
def elemIn (et x : Nat) : Nat × FFlags :=
  if etFloat et then cvtElem x et 8 0 false else (wrap 64 (sgn (etWidth et) x), 0)

/-- A bobbin value as an output element (R233). -/
def elemOut (vtype : Word) (x : Nat) : Nat × FFlags :=
  let et := vtEt vtype
  if etFloat et then cvtElem x 8 et (vtRm vtype) (vtSat vtype) else cvtElem x 4 et (vtRm vtype) (vtSat vtype)

/-- Pushes a value into qo0 or qo1 of bobbin i (R231). A push that is discarded raises no flag, which R233 leaves open (log 91). -/
def Run.pushOut (r : Run) (i : Nat) (second : Bool) (x : Nat) : Run :=
  match r.bobbins[i]? with
  | none => r
  | some b =>
    let k := if second then b.out1 else b.out0
    let b' := if second then { b with out1 := k + 1 } else { b with out0 := k + 1 }
    let r' := r.set i b'
    let e := i + k * r.bobbins.length
    let bound := (if second then r.qo1 else r.qo0).isSome
    if bound ∧ e < r.vl then
      let y := elemOut r.vtype x
      let r' := { r' with flags := r'.flags ||| y.2 }
      let z := r.flips.foldl (fun v f => if f.1 = second ∧ f.2.1 = e then v ^^^ f.2.2 % 2 ^ r.w else v) y.1
      if second then { r' with w1 := setElem r'.w1 r.w e z } else { r' with w0 := setElem r'.w0 r.w e z }
    else { r' with drop := true }

/-- Writes an entry to a neighbour queue of bobbin i, to be taken two cycles later (R244). -/
def Run.pushNear (r : Run) (i : Nat) (left : Bool) (e : QEntry) : Run :=
  let j := if left then r.prev i else r.next i
  match r.bobbins[j]? with
  | some b =>
    r.set j (if left then { b with ql := b.ql ++ [(e, r.cycle + 2)] } else { b with qr := b.qr ++ [(e, r.cycle + 2)] })
  | none => r

/-- Writes a result to a destination code; a floating-point result can be read 4 cycles later (R244). -/
def Run.put (r : Run) (i : Nat) (dst : BitVec 4) (x : Nat) (fp : Bool) : Run :=
  match dst.toNat with
  | 8 => r.pushOut i false x
  | 9 => r.pushOut i true x
  | 10 => r.pushNear i false (.data (BitVec.ofNat 64 x))
  | 11 => r.pushNear i true (.data (BitVec.ofNat 64 x))
  | d =>
    match r.bobbins[i]? with
    | some b =>
      if d < 8 then r.set i { b with b := b.b.setIfInBounds d (BitVec.ofNat 64 x)
                                     ready := b.ready.setIfInBounds d (r.cycle + if fp then 4 else 1) }
      else r
    | none => r

/-- An immediate operand (R238). -/
def immIn (float : Bool) (imm : BitVec 12) : Nat :=
  if float then (packFp fp64 0 false (fvInt imm.toInt 0 false)).1 else wrap 64 imm.toInt

/-- The value of an operand code, with the flag a popped element raises. -/
def Run.operand (r : Run) (b : Bobbin) (float : Bool) (f : BW) (code : BitVec 4) (place : Nat) : Nat × FFlags :=
  if code.toNat < 8 then ((b.b.toList.getD code.toNat 0).toNat, 0)
  else if takes code then
    (match b.entry code place r.cycle with
     | some (.data w) => if code.toNat < 12 then elemIn (vtEt r.vtype) w.toNat else (w.toNat, 0)
     | _ => (0, 0))
  else if code.toNat = 14 then (immIn float f.imm, 0)
  else (0, 0)

/-- The first taken entry that is a token: its code, place, kind and payload (R235). -/
def Run.tokenIn (r : Run) (b : Bobbin) (f : BW) : Option (BitVec 4 × Nat × Nat × Nat) :=
  (takesOf f).findSome? (fun t =>
    match b.entry t.1 t.2 r.cycle with
    | some (.tok k p) => some (t.1, t.2, k, p)
    | _ => none)

/-- The state with the strand's run replaced. -/
def State.setRun (s : State) (r : Option Run) : State := s.setFab { s.st.fab with run := r }

/-- One turn of the bobbin whose turn it is, with a word's fields, the registers it reads beside A and B, whether an
immediate is converted to fp64, and its effect on the run once its entries are taken: the run with bobbin i's result and
next pc. Without a run nothing happens. A dispatch on a token waits as its word would, for a neighbour that holds the bobbin back (R242) and
for the registers of the word (R244), which the rules leave open (log 91). -/
def bobbinTurn (s : State) (f : BW) (extra : List Nat) (float : Bool)
    (eff : Run → Nat → Bobbin → Nat × FFlags → Nat × FFlags → Run) : Out :=
  match s.st.fab.run with
  | none => ok s
  | some r =>
    let i := r.turn
    match r.bobbins[i]? with
    | none => ok s
    | some b =>
      if b.halted then ok (s.setRun (some r.nextTurn))
      else if r.heldBack s.st.fab i || !r.ready i (regsOf f ++ extra) ||
          !(takesOf f).all (fun t => (b.entry t.1 t.2 r.cycle).isSome) || !r.room r.start i f.dst then
        ok (s.setRun (some r.nextTurn))
      else
        match r.tokenIn b f with
        | some (c, place, k, p) =>
          let b' := { b.remove c place with tok := BitVec.ofNat 16 (k * 2 ^ 12 + p), ret := b.pc, pc := 27 + k }
          ok (s.setRun (some (r.set i b').nextTurn))
        | none =>
          let x := r.operand b float f f.a 0
          let y := r.operand b float f f.b (if f.a == f.b then 1 else 0)
          let b' := ((takesOf f).reverse.foldl (fun b t => b.remove t.1 t.2) b)
          let b' := { b' with count := b'.count + 1, pc := (b.pc + 1) % 32 }
          let r' := { (r.set i b') with moved := r.cycle + 1 }
          ok (s.setRun (some (eff r' i b' x y).nextTurn))

/-- A data word: its result goes to the destination (Table 10.4). -/
def bobbinData (s : State) (f : BW) (float fp : Bool) (op : Nat → Nat → Nat) : Out :=
  bobbinTurn s f [] float (fun r i _ x y =>
    { r.put i f.dst (op x.1 y.1 % 2 ^ 64) fp with flags := (r.put i f.dst (op x.1 y.1 % 2 ^ 64) fp).flags ||| x.2 ||| y.2 })

/-- A data word of floating-point operands that raises flags. -/
def bobbinFp (s : State) (f : BW) (fp : Bool) (op : Nat → Nat → Nat → Nat × FFlags) : Out :=
  bobbinTurn s f [] true (fun r i _ x y =>
    let q := op (vtRm r.vtype) x.1 y.1
    let r' := r.put i f.dst q.1 fp
    { r' with flags := r'.flags ||| x.2 ||| y.2 ||| q.2 })

/-- The run with bobbin i changed, and flags of its operands raised. -/
def Run.edit (r : Run) (i : Nat) (fl : FFlags) (g : Bobbin → Bobbin) : Run :=
  match r.bobbins[i]? with
  | some b => { r.set i (g b) with flags := r.flags ||| fl }
  | none => r

/-! ## The words (10 Table 10.4, R240) -/

/-- A + B. -/
def execBAdd (f : BW) (s : State) : Out := bobbinData s f false false (fun a b => a + b)
/-- A − B. -/
def execBSub (f : BW) (s : State) : Out := bobbinData s f false false (fun a b => intElem .sub 64 a b)
/-- The low 64 bits of A × B. -/
def execBMul (f : BW) (s : State) : Out := bobbinData s f false false (fun a b => a * b)
/-- Bitwise and. -/
def execBAnd (f : BW) (s : State) : Out := bobbinData s f false false (fun a b => a &&& b)
/-- Bitwise or. -/
def execBOr (f : BW) (s : State) : Out := bobbinData s f false false (fun a b => a ||| b)
/-- Bitwise exclusive or. -/
def execBXor (f : BW) (s : State) : Out := bobbinData s f false false (fun a b => a ^^^ b)
/-- A shifted left by B mod 64. -/
def execBSll (f : BW) (s : State) : Out := bobbinData s f false false (fun a b => intElem .sll 64 a b)
/-- A shifted right by B mod 64, zeros in. -/
def execBSrl (f : BW) (s : State) : Out := bobbinData s f false false (fun a b => intElem .srl 64 a b)
/-- A shifted right by B mod 64, sign in. -/
def execBSra (f : BW) (s : State) : Out := bobbinData s f false false (fun a b => intElem .sra 64 a b)
/-- The lesser, signed. -/
def execBMin (f : BW) (s : State) : Out := bobbinData s f false false (fun a b => intElem .min 64 a b)
/-- The greater, signed. -/
def execBMax (f : BW) (s : State) : Out := bobbinData s f false false (fun a b => intElem .max 64 a b)
/-- The lesser, unsigned. -/
def execBMinu (f : BW) (s : State) : Out := bobbinData s f false false (fun a b => intElem .minu 64 a b)
/-- The greater, unsigned. -/
def execBMaxu (f : BW) (s : State) : Out := bobbinData s f false false (fun a b => intElem .maxu 64 a b)
/-- A. -/
def execBMov (f : BW) (s : State) : Out := bobbinData s f false false (fun a _ => a)
/-- A + B, fp64. -/
def execBFadd (f : BW) (s : State) : Out := bobbinFp s f true (fun rm a b => fpElem .fadd fp64 rm 0 a b 0)
/-- A − B, fp64. -/
def execBFsub (f : BW) (s : State) : Out := bobbinFp s f true (fun rm a b => fpElem .fsub fp64 rm 0 a b 0)
/-- A × B, fp64. -/
def execBFmul (f : BW) (s : State) : Out := bobbinFp s f true (fun rm a b => fpElem .fmul fp64 rm 0 a b 0)
/-- As VFMIN. -/
def execBFmin (f : BW) (s : State) : Out := bobbinFp s f true (fun _ a b => fMinMax fp64 false a b)
/-- As VFMAX. -/
def execBFmax (f : BW) (s : State) : Out := bobbinFp s f true (fun _ a b => fMinMax fp64 true a b)
/-- A × B + d, one rounding. -/
def execBFma (f : BW) (s : State) : Out :=
  bobbinTurn s f [f.dst.toNat] true (fun r i b x y =>
    let d := (b.b.toList.getD f.dst.toNat 0).toNat
    let q := fpElem .fma fp64 (vtRm r.vtype) 0 x.1 y.1 d
    let r' := r.put i f.dst q.1 true
    { r' with flags := r'.flags ||| x.2 ||| y.2 ||| q.2 })
/-- Patterns equal. -/
def execBCeq (f : BW) (s : State) : Out := bobbinData s f false false (fun a b => if a = b then 1 else 0)
/-- Signed less. -/
def execBClt (f : BW) (s : State) : Out := bobbinData s f false false (fun a b => if intCmp .cmpLt 64 a b then 1 else 0)
/-- Unsigned less. -/
def execBCltu (f : BW) (s : State) : Out := bobbinData s f false false (fun a b => if a < b then 1 else 0)
/-- A compare as an integer, with its flags. -/
def cmpBit (p : Bool × FFlags) : Nat × FFlags := ((if p.1 then 1 else 0), p.2)
/-- As VFCMP.EQ. -/
def execBFeq (f : BW) (s : State) : Out := bobbinFp s f false (fun _ a b => cmpBit (fpCmp .fcmpEq fp64 a b))
/-- As VFCMP.LT. -/
def execBFlt (f : BW) (s : State) : Out := bobbinFp s f false (fun _ a b => cmpBit (fpCmp .fcmpLt fp64 a b))
/-- As VFCMP.LE. -/
def execBFle (f : BW) (s : State) : Out := bobbinFp s f false (fun _ a b => cmpBit (fpCmp .fcmpLe fp64 a b))
/-- A when register bc is not zero, else B; bc in imm12[2:0]. -/
def execBSel (f : BW) (s : State) : Out :=
  let bc := f.imm.toNat % 8
  bobbinTurn s f [bc] false (fun r i b x y =>
    let r' := r.put i f.dst (if b.b.toList.getD bc 0 ≠ 0 then x.1 else y.1) false
    { r' with flags := r'.flags ||| x.2 ||| y.2 })
/-- pc ← t. -/
def execBJ (f : BW) (s : State) : Out :=
  bobbinTurn s f [] false (fun r i _ x y => r.edit i (x.2 ||| y.2) (fun b => { b with pc := f.imm.toNat % 32 }))
/-- pc ← t when A ≠ 0. -/
def execBBnz (f : BW) (s : State) : Out :=
  bobbinTurn s f [] false (fun r i _ x _ => r.edit i x.2 (fun b => if x.1 ≠ 0 then { b with pc := f.imm.toNat % 32 } else b))
/-- pc ← t when A = 0. -/
def execBBz (f : BW) (s : State) : Out :=
  bobbinTurn s f [] false (fun r i _ x _ => r.edit i x.2 (fun b => if x.1 = 0 then { b with pc := f.imm.toNat % 32 } else b))
/-- pc ← ret. -/
def execBRet (f : BW) (s : State) : Out := bobbinTurn s f [] false (fun r i _ _ _ => r.edit i 0 (fun b => { b with pc := b.ret }))
/-- The bobbin stops for the rest of the run. -/
def execBHalt (f : BW) (s : State) : Out :=
  bobbinTurn s f [] false (fun r i _ _ _ => { r.edit i 0 (fun b => { b with halted := true }) with lastHalt := r.cycle })
/-- The current context becomes the other one, and pc ← t. -/
def execBCtx (f : BW) (s : State) : Out :=
  bobbinTurn s f [] false (fun r i _ _ _ => r.edit i 0 (fun b => { b with ctx := 1 - b.ctx, pc := f.imm.toNat % 32 }))
/-- Writes a token with tok's kind and payload to a neighbour queue. -/
def execBTfwd (f : BW) (s : State) : Out :=
  bobbinTurn s f [] false (fun r i b _ _ =>
    r.pushNear i (f.dst.toNat == 11) (.tok (b.tok.toNat / 2 ^ 12) (b.tok.toNat % 2 ^ 12)))
/-- d ← tok. -/
def execBTget (f : BW) (s : State) : Out := bobbinTurn s f [] false (fun r i b _ _ => r.put i f.dst b.tok.toNat false)

/-! ## The end of a run (10 R243, Table 10.8) -/

/-- Every bobbin has executed HALT. -/
def Run.allHalted (r : Run) : Bool := r.bobbins.all (fun b => b.halted)

/-- Whether an entry remains that is data or a token other than a sticky END. -/
def Run.remains (r : Run) : Bool :=
  r.bobbins.any (fun b => !b.qr.isEmpty || !b.ql.isEmpty || b.qi.toList.any (fun q => q.any (fun e => !e.isEnd)))

/-- Whether a run has pushed every element of a register's 64-bit word j to an output queue: the word is written in full. -/
def Run.pushed (r : Run) (second : Bool) (j : Nat) : Bool :=
  let l := max 1 r.bobbins.length
  let per := 64 / r.w
  (List.range per).all (fun q =>
    let e := j * per + q
    decide (e < r.vl) &&
      (match r.bobbins[e % l]? with
       | some b => decide (e / l < (if second then b.out1 else b.out0))
       | none => false))

/-- The output registers written, the flags raised and FSTAT set; the run is gone. -/
def State.closeRun (s : State) (r : Run) (cyc : Nat) (fault : Bool) : State :=
  let put := fun (v : Vector VReg 32) (q : Option Nat) (x : VReg) =>
    match q with
    | some n => v.setIfInBounds n x
    | none => v
  let v := put (put s.st.vec.v r.qo0 r.w0) r.qo1 r.w1
  let s := if v = s.st.vec.v then s else (s.setVec { s.st.vec with v := v }).dirtyVs
  let s := s.wroteWords (fun n j => (r.qo0 == some n && r.pushed false j) || (r.qo1 == some n && r.pushed true j))
  let s := s.setCsr { s.st.csr with vfflags := s.st.csr.vfflags ||| r.flags }
  s.setFab { s.st.fab with run := none, cyc := min cyc 0xFFFFFF, fault := fault, left := r.remains, drop := r.drop }

/-- A run that cannot go on: poison in a queue, or in a protected harness a mismatch of a half that comes again (24 R423, R425). -/
def State.fabricStop (s : State) (kind h : Nat) : State :=
  match s.st.fab.run with
  | some r =>
    if kind = 7 ∨ (kind = 8 ∧ s.st.br.prot) then
      let code := causeOf kind 10
      let s := if kind = 7 then s.badEntry code else s.mismatch h 2 code
      (s.closeRun r (32 + r.cycle) false).raiseOnce
        { code := code, stval := 0, selem := BitVec.ofNat 64 ((firstLive r.bobbins 0).getD 0), sorig := r.pc }
    else s
  | none => s

/-- A soft error in the output of a run: unnoticed outside protected mode; in protected mode the push is computed again, and the event
is transient, or where it comes again the run ends (24 R423, R432). -/
def State.runSoft (s : State) (second : Bool) (e mask : Nat) (again : Bool) : State :=
  match s.st.fab.run with
  | none => s
  | some r =>
    let h := (s.st.wordPlace (e * r.w / 64)).1
    if s.st.br.prot then (if again then s.fabricStop 8 h else s.mismatch h 0 0)
    else s.setRun (some { r with flips := r.flips ++ [(second, e, mask)] })

/-- FABRIC_RUN_END (10 R243): a run whose bobbins have all halted ends. -/
def execFabricRunEnd (s : State) : Out :=
  match s.st.fab.run with
  | some r => if r.allHalted && s.st.openTo 5 r.serial then ok (s.closeRun r (32 + (r.lastHalt + 1) + 16) false) else ok s
  | none => ok s

/-- Whether a run has met one of its limits (10 R243): the 32 start cycles are part of its length (R244), and before a word has retired the
4,096 cycles are counted from their end, which the rule leaves open (log 91). -/
def Run.stuck (r : Run) : Bool := !r.allHalted && (decide (r.moved + 4096 ≤ r.cycle) || decide (2 ^ 30 ≤ 32 + r.cycle))

/-- FABRIC_RUN_TIMEOUT (10 R243): no word retired for 4,096 cycles, or 2^30 cycles: the imprecise fault 0xAA. -/
def execFabricRunTimeout (s : State) : Out :=
  match s.st.fab.run with
  | some r =>
    if r.stuck then
      ok ((s.closeRun r (32 + r.cycle) true).raiseOnce
        { code := 0xAA, stval := 0, selem := BitVec.ofNat 64 ((firstLive r.bobbins 0).getD 0), sorig := r.pc })
    else ok s
  | none => ok s

/-- The turn of a run in flight whose word decodes to a bobbin instruction. -/
def runWord (i : Instr) (s : State) : Out :=
  match i with
  | .bAdd f => execBAdd f s | .bSub f => execBSub f s | .bMul f => execBMul f s | .bAnd f => execBAnd f s
  | .bOr f => execBOr f s | .bXor f => execBXor f s | .bSll f => execBSll f s | .bSrl f => execBSrl f s
  | .bSra f => execBSra f s | .bMin f => execBMin f s | .bMax f => execBMax f s | .bMinu f => execBMinu f s
  | .bMaxu f => execBMaxu f s | .bMov f => execBMov f s | .bFadd f => execBFadd f s | .bFsub f => execBFsub f s
  | .bFmul f => execBFmul f s | .bFmin f => execBFmin f s | .bFmax f => execBFmax f s | .bFma f => execBFma f s
  | .bCeq f => execBCeq f s | .bClt f => execBClt f s | .bCltu f => execBCltu f s | .bFeq f => execBFeq f s
  | .bFlt f => execBFlt f s | .bFle f => execBFle f s | .bSel f => execBSel f s | .bJ f => execBJ f s
  | .bBnz f => execBBnz f s | .bBz f => execBBz f s | .bRet f => execBRet f s | .bHalt f => execBHalt f s
  | .bCtx f => execBCtx f s | .bTfwd f => execBTfwd f s | .bTget f => execBTget f s
  | .fabricRunEnd => execFabricRunEnd s
  | .fabricRunTimeout => execFabricRunTimeout s
  | _ => ok s

/-- What a run in flight does next: a word of the bobbin whose turn it is, its end, or its timeout. -/
def runNext (s : State) : Option Instr :=
  match s.st.fab.run with
  | none => none
  | some r =>
    if r.allHalted then some .fabricRunEnd
    else if r.stuck then some .fabricRunTimeout
    else
      match r.bobbins[r.turn]? with
      | none => some .fabricRunTimeout
      | some b =>
        match decodeBobbin (s.st.fab.wordAt b) with
        | .ok i => some i
        | .error _ => some (.bHalt { dst := 15, a := 15, b := 15, imm := 0 })

end Sys2Proof.Machine
end

