-- ==== Sys2Proof/Machine/Pass.lean ====
section
/-! DEFINITION. Machine/Pass.lean: the force pass (04 R88 to R102; 07 R159 to R172), its faults, its checkpoint and its
replay (23 R398 to R407; 24 R416 to R423, R432), and the watermarks its streams publish and wait on (11 R266 to R270). -/

namespace Sys2Proof.Machine

/-! ## Spaces (02 R45, 12 R295) -/

/-- A legal vmt (02 Table 2.6). -/
def vmtLegal (m : Word) : Bool :=
  fieldOf m 13 51 == 0 && !m.getLsbD 3 &&
    match fieldOf m 0 3 with
    | 0 | 1 | 2 => fieldOf m 4 9 == 0
    | 3 => true
    | 4 => decide (fieldOf m 4 9 < 8)
    | _ => false

/-- The effective virtual address of n bytes at an address in the space of a vmt value, and whether they lie within the
space (12 R295). -/
def State.spaceVa (s : State) (m : Word) (a n : Nat) : Nat × Bool :=
  let u := fieldOf m 4 9
  let base := fun b => (b + a) % 2 ^ 64
  match fieldOf m 0 3 with
  | 0 => (a, true)
  | 1 => (base 0xFFFFFF0000000000, decide (a + n ≤ Config.scratchBytes))
  | 2 => (base 0xFFFFFF1000000000, decide (a + n ≤ s.poolSize s.st (stackOf s.st.fe)))
  | 3 => (base (0xFFFFFF2000000000 + 2 ^ 19 * u), decide (a + n ≤ Config.scratchBytes))
  | _ => (base (0xFFFFFF4000000000 + 2 ^ 31 * u), decide (a + n ≤ s.poolSize s.st u))

/-! ## Watermarks (11 R266 to R269) -/

/-- An object's word; 0 where the context has none. -/
def Context.object (c : Context) (i : Nat) : Word := c.wm.toList.getD i 0

/-- The context with its object i replaced. -/
def Context.setObject (c : Context) (i : Nat) (w : Word) : Context :=
  { c with wm := if h : i < 64 then c.wm.set i w h else c.wm }

/-- The state with the strand's context changed. -/
def State.mapCtx (s : State) (g : Context → Context) : State :=
  { s with fw := { s.fw with contexts := s.fw.contexts.map (fun c => if c.handle == s.st.br.ctx then g c else c) } }

/-- The object word of the strand's context. -/
def State.object (s : State) (i : Nat) : Word :=
  match s.ctxOf? s.st with
  | some c => c.object i
  | none => 0

/-- front advanced over the intervals performed (R268). -/
def advanceFront (fuel front : Nat) (ds : List (Nat × Nat)) : Nat :=
  match fuel with
  | 0 => front
  | k + 1 =>
    match ds.find? (fun d => decide (d.1 ≤ front) && decide (front < d.2)) with
    | some d => advanceFront k d.2 ds
    | none => front

/-- Positions lo to hi (hi excluded) of an object have been performed by a published stream (R268). A frontier beyond the field stands at its
greatest value, so that it never falls (log 95). -/
def Context.publish (c : Context) (obj lo hi : Nat) : Context :=
  if lo < hi then
    let done := (obj, lo, hi) :: c.wmDone
    let w := c.object obj
    let mine := (done.filter (fun d => d.1 == obj)).map Prod.snd
    let f := advanceFront (mine.length + 1) (fieldOf w 0 41) mine
    { (c.setObject obj (BitVec.ofNat 64 (w.toNat / 2 ^ 41 * 2 ^ 41 + min f (2 ^ 41 - 1)))) with
      wmDone := done.filter (fun d => d.1 != obj || decide (f < d.2.2)) }
  else c

/-! ## Reading operands -/

/-- The nodes of a pass. -/
def Pass.nodes (p : Pass) : List Node := p.pk.passNodes p.stream p.want

/-- Reads an element of a source: resident registers as they stood at the force point, nodes by their results. -/
def Pass.reads (p : Pass) (env : List (Nat × NodeRes)) : Reads := fun x w i =>
  match x with
  | .zero => 0
  | .scalar a => a.toNat % 2 ^ w
  | .oreg _ => 0
  | .node sl part =>
    match lookup env sl with
    | some r => (if part = 0 then r.p0 else r.p1).getD i 0
    | none => 0
  | .vreg n => elemOf (p.v.toList.getD n 0) w i
  | .kreg n => (p.k.toList.getD n 0).toNat / 2 ^ i % 2

/-! ## Streams (07 R158 to R169) -/

/-- The source nibble of a node (23 R398). -/
def Node.src (n : Node) : Nat :=
  match n.op with
  | .load => 3 | .store => 4 | .loadx => 5 | .storex => 6 | .amo => 6 | _ => 2

/-- Whether a node is a memory stream. -/
def Node.isStream (n : Node) : Bool := n.op.isLoad || n.op == .store || n.op == .storex || n.op == .amo

/-- Bytes of one access of a stream: an element or a PB block. -/
def Node.size (n : Node) : Nat := if mfIsPb n.fmt then pbBytes n.fmt else mfSize n.fmt

/-- The address of element i, or of its PB block (07 R161, R163, R164). -/
def Node.addr (n : Node) (g : Reads) (i : Nat) : Nat :=
  let off : Int :=
    if mfIsPb n.fmt then ((i / 16 * pbBytes n.fmt : Nat) : Int)
    else if n.op = .load ∨ n.op = .store then i * n.stride.toInt
    else
      let x := sgn n.w (g n.b n.w i)
      if n.scaled then x * mfSize n.fmt else x
  wrap 64 (n.base.toNat + off)

/-- What stops an element of a stream: a fault with its kind and address, a page fault, a migrating page, or a watermark
link not yet met. -/
inductive Halt where
  | fault (kind va : Nat)
  | page (va : Nat) (use : Use)
  | migrating (va : Nat) (use : Use)
  | link
  /-- Both pages of a block that straddles two (12 R303). -/
  | both (a b : Halt)
  /-- A parity error in a pricking store or a queue (24 R425). -/
  | entry
  deriving DecidableEq, Repr

/-- Kind, source nibble and address of a fault of a node (23 R398); a mismatch of a load's value is found where it is
materialised (24 R422). -/
def Halt.fault? (n : Node) (h : Halt) : Option (Nat × Nat × Nat) :=
  match h with
  | .fault k va => some (k, if k = 8 ∧ n.op.isLoad then 2 else n.src, va)
  | .entry => some (7, 2, 0)
  | _ => none

/-- Whether a page fault of an engine's stream has been given up (23 R401). -/
def State.gaveUp (s : State) (src who va : Nat) : Bool :=
  s.pfWaits.any (fun p => p.isFor s.st.fe (va / 2 ^ 16) src who && p.gaveUp)

/-- The keys of an element's bytes, or what stops it: alignment (07 R160), the space (R169), translation (12 R300), and
vector atomics to host memory (12 R315). -/
def State.probe (s : State) (sup : Bool) (n : Node) (a : Nat) (use : Use) : Except Halt (List Nat) :=
  let va := s.spaceVa n.vmt a n.size
  if !mfIsPb n.fmt ∧ a % n.size ≠ 0 then .error (.fault 5 va.1)
  else if !va.2 then .error (.fault 4 va.1)
  else
    match s.pfHold s.st.fe va.1 n.size n.src 0 with
    | some w => if w.gaveUp then .error (.fault 3 w.va.toNat) else .error (.page w.va.toNat use)
    | none =>
    match s.locateN s.st va.1 n.size sup use with
    | .keys ks => if use = .atomic ∧ ks.any isHost then .error (.fault 4 va.1) else .ok ks
    | .stop .notPresent fva _ => .error (.page fva use)
    | .stop .migrating fva _ => .error (.migrating fva use)
    | .stop (.fault k) fva _ => .error (.fault k fva)
    | .stop (.at _) fva _ => .error (.migrating fva use)

/-- A byte as the pass sees it: what the scalar path stored after the force point is not observed (04 R94). -/
def Pass.byte (p : Pass) (s : State) (k : Nat) : Byte :=
  match p.shadow.find? (fun c => c.key == k) with
  | some c => c.byte
  | none => s.mem.get k

/-- A byte as a load or gather of the pass sees it (11 R262), no older than what another agent wrote there (R269; 13 R322). -/
def Pass.loadByte (p : Pass) (s : State) (n : Node) (k : Nat) : Byte :=
  match p.shadow.find? (fun c => c.key == k) with
  | some c => c.byte
  | none => s.byteFor (if n.op = .load then 1 else 2) k

/-- A byte as the pass in flight sees it. -/
def State.passByte (s : State) (k : Nat) : Byte :=
  match s.st.vec.pass with
  | some p => p.byte s k
  | none => s.mem.get k

/-- Bytes read by an element, poison stopping it (24 R426). -/
def Pass.readAt (p : Pass) (s : State) (n : Node) (a : Nat) : Except Halt Nat :=
  match s.probe p.sup n a .read with
  | .error h => .error h
  | .ok ks =>
    match s.poisonVa (s.spaceVa n.vmt a n.size).1 ks with
    | some pv => .error (.fault 7 pv)
    | none => .ok (leNat (ks.map (p.loadByte s n)))

/-- Elements of an element group for a node (04 R101). -/
def Node.group (n : Node) (lanes : Nat) : Nat := max 1 (lanes * 64 / n.w)

/-- Whether a linked stream may issue element i (11 R269). -/
def State.linkOpen (s : State) (n : Node) (i : Nat) : Bool :=
  match n.wm with
  | some (obj, base) =>
    let w := s.object obj
    let e := n.group s.st.lanes
    w.getLsbD 63 || decide (base + min (i / e * e + e - 1) (n.vl - 1) < fieldOf w 0 41)
  | none => true

/-- load_convert (07 R159) of the raw bytes of element i. -/
def Node.loadConv (n : Node) (i raw : Nat) : Nat × FFlags :=
  let et := vtEt n.vtype
  let rm := vtRm n.vtype
  if mfIsPb n.fmt then cvtV (pbDecode raw (pbK n.fmt) (i % 16)) et rm (vtSat n.vtype)
  else if n.fmt = et then (raw, 0)
  else cvt raw n.fmt et rm (vtSat n.vtype)

/-- store_convert (07 R159) of an element. -/
def Node.storeConv (n : Node) (x : Nat) : Nat × FFlags :=
  let et := vtEt n.vtype
  if n.fmt = et then (x, 0) else cvt x et n.fmt (vtRm n.vtype) (vtSat n.vtype)

/-! ## What cannot be computed yet

An element that a fault, a wait or a hardware error stops has no value yet, and neither has anything that depends on it: its address is
not probed, and no sink performs it (23 R398 to R401). -/

/-- Elements of the first and second result of a node that have no value yet. -/
abbrev Stuck := List Bool × List Bool

/-- Reads whether element i of a source has no value yet. -/
abbrev Stalls := Src → Nat → Bool

/-- The stuck elements of nodes as sources. -/
def stallsOf (st : List (Nat × Stuck)) : Stalls := fun x i =>
  match x with
  | .node sl part =>
    (match lookup st sl with
     | some r => (if part = 0 then r.1 else r.2).getD i false
     | none => false)
  | _ => false

/-- Whether the mask of element i is not known yet. -/
def Node.maskStuck (n : Node) (q : Stalls) (i : Nat) : Bool := n.mask.any (fun m => q m i)

/-- Whether an operand of element i has no value yet. -/
def Node.opsStuck (n : Node) (q : Stalls) (i : Nat) : Bool := q n.a i || q n.b i || q n.c i

/-- Stuck elements of a cross-element node: the carried value passes every active element (04 R102). -/
def scanStuck (n : Node) (g : Reads) (q : Stalls) (own : Nat → Bool) (is : List Nat) (carry : Bool) : List Bool :=
  match is with
  | [] => []
  | i :: t =>
    let unknown := own i || n.maskStuck q i
    if !unknown && n.off g i then q n.under i :: scanStuck n g q own t carry
    else
      let carry' := if n.op = .prev ∧ !unknown then n.opsStuck q i else carry || unknown || n.opsStuck q i
      (if n.op = .prev then carry || unknown else carry') :: scanStuck n g q own t carry'

/-- Elements of a value or mask node that have no value yet, where its own elements in a test are stopped. -/
def Node.stuck (n : Node) (g : Reads) (q : Stalls) (own : Nat → Bool) : Stuck :=
  let is := List.range n.vl
  match n.op with
  | .scanAdd | .scanMax | .fscan | .lrec | .prev => (scanStuck n g q own is false, [])
  | .nms =>
    let (k, m) := nmOf n.sel
    let bad := fun j => (List.range m).any (fun t => q n.a (j * m + t) || own (j * m + t))
    let at_ := fun (u : Src) (i : Nat) => if i < n.vl / m * k then bad (i / k) else q u i
    (is.map (at_ n.under), is.map (at_ n.under2))
  | .nmst =>
    let c := n.vl / 4
    let bad := fun b => (List.range 16).any (fun t => let i := t / 4 * c + 4 * b + t % 4; q n.a i || own i)
    (is.map (fun i => if i < 2 * c then bad (i % (c / 2) / 2) else q n.under i),
     is.map (fun i => if i < c / 4 then bad i else q n.under2 i))
  | .kshl => (is.map (fun i => own i || (decide (n.seed.toNat ≤ i) && q n.a (i - n.seed.toNat))), [])
  | .kshr => (is.map (fun i => own i || (decide (i + n.seed.toNat < n.vl) && q n.a (i + n.seed.toNat))), [])
  | .merge => (is.map (fun i => own i || n.maskStuck q i || (if n.off g i then q n.a i else q n.b i)), [])
  | _ =>
    let at_ := fun (u : Src) (i : Nat) => own i || n.maskStuck q i || (if n.off g i then q u i else n.opsStuck q i)
    (is.map (at_ n.under), is.map (at_ n.under2))

/-! ## Loads -/

/-- The value a load has kept for element i (23 R399, R400). -/
def Pass.keptAt (p : Pass) (slot i : Nat) : Option Nat :=
  match p.kept.find? (fun k => k.slot == slot) with
  | some k => if i < p.chk then k.below[i]? else lookup k.above i
  | none => none

/-- One element of a load: value, flags, what stops it, and whether it has no value yet. The lowest element of a PB block reads it even
where it is masked off (07 R163). -/
def Pass.loadElem (p : Pass) (s : State) (g : Reads) (q : Stalls) (n : Node) (i : Nat) : Nat × FFlags × Option Halt × Bool :=
  let under := g n.under n.w i
  let unknown := n.maskStuck q i
  let off := !unknown && n.off g i
  match p.keptAt n.slot i with
  | some x => (x, 0, none, false)
  | none =>
    if (off || unknown) && !(mfIsPb n.fmt && i % 16 == 0) then (under, 0, none, unknown || q n.under i)
    else if n.op == .loadx && q n.b i then (0, 0, none, true)
    else if !s.linkOpen n i then (under, 0, some .link, !off || q n.under i)
    else
      match p.readAt s n (n.addr g i) with
      | .error h => (under, 0, some h, !off || q n.under i)
      | .ok raw =>
        if off then (under, 0, none, q n.under i)
        else
          let r := n.loadConv i raw
          (r.1, r.2, none, unknown)

/-! ## Sinks -/

/-- A store, scatter or atomic of elements first to last of a sink: where it goes and its value. -/
structure Put where
  first : Nat
  last  : Nat
  keys  : List Nat
  val   : Nat
  deriving DecidableEq, Repr

/-- Elements that one mark of the done-window covers for a sink: a PB block, or those of a 64-bit word of a lane (23 R400). -/
def Node.unit (n : Node) : Nat := if n.isStream && mfIsPb n.fmt then 16 else max 1 (64 / n.w)

/-- Whether element i of a sink was performed before (23 R399, R400). -/
def Pass.finished (p : Pass) (slot i : Nat) : Bool := decide (i < p.chk) || p.done.any (fun d => d.1 == slot && d.2.1 == i)

/-- Whether a replay computes element i: it lies at or above the checkpoint, and a sink of its word is not marked (23 R400). -/
def Pass.fresh (p : Pass) (i : Nat) : Bool :=
  let sinks := p.nodes.filter (fun n => n.op.isSink)
  decide (p.chk ≤ i) && (sinks.isEmpty || sinks.any (fun n => !p.finished n.slot i))

/-- What a node computes as soft errors leave it at an element: bits of a mask change it (24 R432). -/
def Pass.flip (p : Pass) (slot i w v : Nat) : Nat :=
  (p.flips.filter (fun f => f.1 == slot && f.2.1 == i)).foldl (fun v f => v ^^^ (f.2.2 % 2 ^ w)) v

/-- The access of elements first to last of a sink, or what stops it; a value that it does not have yet is 0. -/
def Pass.putAt (p : Pass) (s : State) (g : Reads) (n : Node) (first last val : Nat) : Except Halt Put :=
  let a := n.addr g first
  match s.probe p.sup n a (if n.op = .amo then .atomic else .write) with
  | .error h => .error h
  | .ok ks =>
    let bad := if n.op = .amo then s.poisonVa (s.spaceVa n.vmt a n.size).1 ks
      else if s.meetsPoison (ks.zip (leBytes n.size val)) then s.poisonVa (s.spaceVa n.vmt a n.size).1 ks else none
    match bad with
    | some pv => .error (.fault 7 pv)
    | none => .ok { first := first, last := last, keys := ks, val := p.flip n.slot first (8 * n.size) val }

/-- What a sink makes of one of its units: nothing more to do, no value yet, what stops it, or its access, with flags. -/
inductive SinkStep where
  | nothing
  | stuck
  | halt (h : Halt)
  | put (q : Put) (fl : FFlags)

/-- One element of a store, scatter or atomic of an element format. -/
def Pass.sinkElem (p : Pass) (s : State) (g : Reads) (q : Stalls) (n : Node) (own : Nat → Bool) (i : Nat) : SinkStep :=
  if p.finished n.slot i then .nothing
  else if own i || n.maskStuck q i then .stuck
  else if n.off g i then .nothing
  else if n.op != .store && q n.b i then .stuck
  else
    let x := g n.a n.w i
    let r := if n.op = .amo then (x, 0) else n.storeConv x
    match p.putAt s g n i i r.1 with
    | .error h => .halt h
    | .ok put => if q n.a i then .stuck else .put put r.2

/-- One block of a PB store (07 R163). -/
def Pass.sinkBlock (p : Pass) (s : State) (g : Reads) (q : Stalls) (n : Node) (own : Nat → Bool) (b : Nat) : SinkStep :=
  let last := min (16 * b + 15) (n.vl - 1)
  let is := (List.range (last + 1 - 16 * b)).map (fun j => 16 * b + j)
  if p.finished n.slot last then .nothing
  else if is.any own then .stuck
  else
    let xs := (List.range 16).map (fun j => if 16 * b + j < n.vl then etValue (vtEt n.vtype) (g n.a n.w (16 * b + j)) else .fin false 0 0)
    let r := pbEncode (vtRm n.vtype) (pbK n.fmt) xs
    match p.putAt s g n (16 * b) last r.1 with
    | .error h => .halt h
    | .ok put => if is.any (q n.a) then .stuck else .put put r.2

/-- What a store, scatter or atomic is to do, element by element, or for a PB store block by block at its last element. -/
def Pass.sink (p : Pass) (s : State) (g : Reads) (q : Stalls) (n : Node) (own : Nat → Bool) : List (Nat × SinkStep) :=
  if mfIsPb n.fmt then (List.range (ceilDiv n.vl 16)).map (fun b => (min (16 * b + 15) (n.vl - 1), p.sinkBlock s g q n own b))
  else (List.range n.vl).map (fun i => (i, p.sinkElem s g q n own i))

/-! ## The pass as a whole -/

/-- What a pass would do: results of its nodes with their flags, what its sinks are to do, what of its nodes and sinks has no value yet,
and every element that stops, with the noting order of its node. -/
structure Plan where
  env   : List (Nat × NodeRes)
  /-- Flags of each node, element by element, and those of its reductions. -/
  fls   : List (Nat × List FFlags)
  red   : FFlags
  puts  : List (Node × List Put)
  stuck : List (Nat × Stuck)
  halts : List (Nat × Nat × Node × Halt)

/-- The leaves of a reduction (03 R68; 23 R400): a marked leaf is the value combined then, or absent as it was then. -/
def Pass.leaves (p : Pass) (g : Reads) (n : Node) : List (Option Nat) :=
  (List.range n.vl).map (fun i =>
    match p.done.find? (fun d => d.1 == n.slot && d.2.1 == i) with
    | some d => d.2.2
    | none => if n.off g i then none else some (p.flip n.slot i n.w (g n.a n.w i)))

/-- Width at which a node reads an operand: VCVT reads its source type. -/
def Node.readWidth (n : Node) : Nat := if n.op = .cvt then tyWidth n.sel else n.w

/-- Register words that a node reads at element i: its operands, or where it is masked off what its destination held (04 R105). -/
def Node.regWords (g : Reads) (n : Node) (i : Nat) : List (Nat × Nat) :=
  let at_ := fun (w : Nat) (x : Src) => match x with | .vreg r => some (r, i * w / 64) | _ => none
  if n.off g i then [n.under].filterMap (at_ n.w) else [n.a].filterMap (at_ n.readWidth) ++ [n.b, n.c].filterMap (at_ n.w)

/-- Elements at which a node reads a register word that cannot be rebuilt (24 R417); a word that the replay skips reads nothing, and an
element whose mask is not known yet may turn out masked off. -/
def Pass.regHalts (p : Pass) (s : State) (g : Reads) (q : Stalls) (n : Node) : List (Nat × Halt) :=
  if s.st.vec.bad.isEmpty then []
  else
    ((List.range n.vl).filter (fun i => p.fresh i && !n.maskStuck q i && (n.regWords g i).any (fun w => s.st.lost w.1 w.2))).map
      (fun i => (i, .fault 7 0))

/-- The hardware errors that a node meets: at elements known to be active, a lost write where its place is known too. -/
def Pass.errHalts (p : Pass) (s : State) (g : Reads) (q : Stalls) (n : Node) : List (Nat × Halt) :=
  (p.errs.filter (fun e => e.slot == n.slot && decide (e.elem < n.vl) && p.fresh e.elem && !n.maskStuck q e.elem && !n.off g e.elem &&
      !(e.kind == 11 && n.op != .store && q n.b e.elem))).map (fun e =>
    (e.elem, if e.kind = 7 then .entry
             else .fault e.kind (if e.kind = 11 then (s.spaceVa n.vmt (n.addr g e.elem) n.size).1 else 0)))

/-- The lowest element of what element i belongs to: of its PB block, which faults as one (07 R163). -/
def Node.blame (n : Node) (i : Nat) : Nat := if mfIsPb n.fmt && n.isStream then i / 16 * 16 else i

/-- Width of a node's result part. -/
def Node.partWidth (n : Node) (part : Nat) : Nat :=
  let carry := n.op == .adc || n.op == .sbc || n.op == .addk
  if part = 0 then (if n.op.isMask then 1 else n.w) else (if carry then 1 else n.w)

/-- Results of a node as soft errors leave them (24 R432): the bits above the first result's width change the second. -/
def Pass.flipped (p : Pass) (n : Node) (r : NodeRes) : NodeRes :=
  if p.flips.isEmpty then r
  else
    let split := 2 ^ n.partWidth 0
    let hi : Pass := { p with flips := p.flips.map (fun f => (f.1, f.2.1, f.2.2 / split)) }
    { r with p0 := r.p0.zipIdx.map (fun x => p.flip n.slot x.2 (n.partWidth 0) x.1)
             p1 := r.p1.zipIdx.map (fun x => hi.flip n.slot x.2 (n.partWidth 1) x.1) }

/-- Adds one node to a plan. -/
def Pass.addNode (p : Pass) (s : State) (pl : Plan) (n : Node) (ord : Nat) : Plan :=
  let g := p.reads pl.env
  let q := stallsOf pl.stuck
  let errs := p.regHalts s g q n ++ p.errHalts s g q n
  let own := fun i => errs.any (fun h => h.1 == i)
  let stop := fun (h : Nat × Halt) => (n.blame h.1, ord, n, h.2)
  let pl : Plan := { pl with halts := pl.halts ++ errs.map stop }
  if n.op.isLoad then
    let rs := (List.range n.vl).map (p.loadElem s g q n)
    let r : NodeRes := { p0 := rs.map Prod.fst, p1 := [], fls := rs.map (fun r => r.2.1) }
    { pl with env := (n.slot, p.flipped n r) :: pl.env, fls := (n.slot, r.fls) :: pl.fls
              stuck := (n.slot, rs.zipIdx.map (fun r => r.1.2.2.2 || own r.2), []) :: pl.stuck
              halts := pl.halts ++ rs.zipIdx.filterMap (fun r => r.1.2.2.1.map (fun h => stop (r.2, h))) }
  else if n.isStream then
    let steps := p.sink s g q n own
    let at_ := fun i => (steps.find? (fun x => decide (i ≤ x.1))).map Prod.snd
    { pl with
      puts := pl.puts ++ [(n, steps.filterMap (fun x => match x.2 with | .put q _ => some q | _ => none))]
      fls := (n.slot, (List.range n.vl).map (fun i => match steps.find? (fun x => x.1 == i) with | some (_, .put _ f) => f | _ => 0)) :: pl.fls
      stuck := (n.slot, (List.range n.vl).map (fun i => match at_ i with | some .stuck | some (.halt _) => true | _ => false), []) :: pl.stuck
      halts := pl.halts ++ steps.filterMap (fun x => match x.2 with | .halt h => some (stop (x.1, h)) | _ => none) }
  else if n.op.isRed then
    { pl with
      red := pl.red ||| (reduce n (p.leaves g n)).2
      stuck := (n.slot, (List.range n.vl).map (fun i =>
        !p.finished n.slot i && (own i || n.maskStuck q i || (!n.off g i && q n.a i))), []) :: pl.stuck }
  else
    let r := evalNode n g s.tick
    { pl with env := (n.slot, p.flipped n r) :: pl.env, fls := (n.slot, r.fls) :: pl.fls, stuck := (n.slot, n.stuck g q own) :: pl.stuck }

/-- What the pass would do in this state: every load is read before anything is stored, so a load that reaches bytes another stream of the
pass writes gives the value before the pass, of the two that R98 allows, but where part of the pass has been performed (log 80). -/
def Pass.plan (p : Pass) (s : State) : Plan :=
  p.nodes.zipIdx.foldl (fun pl n => p.addNode s pl n.1 n.2) { env := [], fls := [], red := 0, puts := [], stuck := [], halts := [] }

/-- Elements of an element group of a pass (04 R101). -/
def Pass.groupSize (p : Pass) (lanes : Nat) : Nat := p.nodes.foldl (fun m n => max m (n.group lanes)) 1

/-- Start of the element group that holds an element of a node, at or above the checkpoint. -/
def Pass.groupStart (p : Pass) (n : Node) (e lanes : Nat) : Nat := max p.chk (e / n.group lanes * n.group lanes)

/-- The first stuck element of a node or sink. -/
def Plan.stuckFrom (pl : Plan) (slot : Nat) : Option Nat :=
  match lookup pl.stuck slot with
  | some r => (r.1.zipIdx ++ r.2.zipIdx).foldl (fun b x => if x.1 then some (min (b.getD x.2) x.2) else b) none
  | none => none

/-- The lowest group that an element of some node keeps from being complete (23 R399): the checkpoint that the halts allow. -/
def Pass.floor (p : Pass) (pl : Plan) (lanes : Nat) : Nat :=
  let stuck := p.nodes.filterMap (fun n => (pl.stuckFrom n.slot).map (fun i => p.groupStart n i lanes))
  (pl.halts.map (fun h => p.groupStart h.2.2.1 h.1 lanes) ++ stuck).foldl min (2 ^ 41)

/-- The halt at the lowest element, the first noted node among equals (23 R398). -/
def firstHalt (hs : List (Nat × Nat × Node × Halt)) : Option (Nat × Nat × Node × Halt) :=
  hs.foldl (fun b h =>
    match b with
    | none => some h
    | some x => if h.1 < x.1 ∨ (h.1 = x.1 ∧ h.2.1 < x.2.1) then some h else some x) none

/-- Whether a halt is a fault. -/
def Halt.isFault : Halt → Bool
  | .fault .. | .entry => true
  | _ => false

/-- Where a pass stands: it can end, it has met a fault, or it waits. -/
inductive Turn where
  | ends
  | faults (elem : Nat) (n : Node) (kind src va : Nat)
  | waits (elem : Nat) (n : Node) (h : Halt)

/-- Where a pass stands: a pass that meets a fault keeps running the element groups below it, so a wait that keeps one of them from being
complete holds (23 R398). -/
def Pass.turn (p : Pass) (pl : Plan) (lanes : Nat) : Turn :=
  let wait := firstHalt (pl.halts.filter (fun h => !h.2.2.2.isFault))
  let flt := firstHalt (pl.halts.filter (fun h => h.2.2.2.isFault))
  match flt.bind (fun f => (f.2.2.2.fault? f.2.2.1).map (fun k => (f.1, f.2.2.1, k))) with
  | some (e, n, k, src, va) =>
    (match wait with
     | some (i, _, m, h) => if p.floor pl lanes < p.groupStart n e lanes then .waits i m h else .faults e n k src va
     | none => .faults e n k src va)
  | none =>
    match wait with
    | some (i, _, m, h) => .waits i m h
    | none => .ends

/-! ## Performing -/

/-- Writes what the pass in flight writes; what the scalar path stored after the force point stands (13 Table 13.3), but the pass sees its
own writes, and so does one behind it where that store came after its force point too (04 R94, R100; 13 R328). -/
def State.passWrite (s : State) (cls : Nat) (cells : List Host.Cell) : State :=
  let seen := fun d : Shade => match cells.find? (fun c => c.1 == d.key) with | some c => { d with byte := c.2 } | none => d
  let v := s.st.vec
  match v.pass with
  | some p =>
    let after := fun (a : Ahead) (d : Shade) => p.shadow.all (fun e => e.key != d.key || a.force.any (fun f => decide (f.1 < e.at_)))
    (s.setVec { v with pass := some { p with shadow := p.shadow.map seen }
                       ahead := v.ahead.map (fun a => { a with shadow := a.shadow.map (fun d => if after a d then seen d else d) }) }).write
      (.engine cls) (cells.filter (fun c => !p.shadow.any (fun d => d.key == c.1)))
  | none => s.write (.engine cls) cells

/-- Whether a put of a sink comes before what the done-window has performed on a byte: elements of the same sink with higher indices, and
a later store with an identical mapping (04 R97, R98; 07 R162). -/
def Pass.overtaken (p : Pass) (ns : List Node) (n : Node) (q : Put) (k : Nat) : Bool :=
  let later := (ns.dropWhile (fun m => m.slot != n.slot)).drop 1
  p.wrote.any (fun w => w.2.2.contains k &&
    ((w.1 == n.slot && decide (q.first < w.2.1)) || later.any (fun m => m.slot == w.1 && m.op == .store && n.op == .store && m.sameMap n)))

/-- Performs one put of a sink (07 R161, R165, R166): the state, and the flags an atomic raises. -/
def Pass.perform (p : Pass) (n : Node) (a : State × FFlags) (q : Put) : State × FFlags :=
  if n.op = .amo then
    let r := amoElem n (leNat (q.keys.map a.1.passByte)) q.val
    (a.1.passWrite 2 (q.keys.zip (leBytes n.size r.1)), a.2 ||| r.2)
  else (a.1.passWrite (if n.op = .store then 1 else 2) ((q.keys.zip (leBytes n.size q.val)).filter (fun c => !p.overtaken p.nodes n q c.1)), a.2)

/-- Performs the puts of every sink that a test selects, sinks in noting order, elements ascending. -/
def Pass.performAll (p : Pass) (pl : Plan) (sel : Node → Put → Bool) (s : State) : State × FFlags :=
  pl.puts.foldl (fun a np => (np.2.filter (sel np.1)).foldl (p.perform np.1) a) (s, 0)

/-- The register words that the nodes of a pass read for elements below a limit. -/
def Pass.readsBelow (p : Pass) (pl : Plan) (lim : Nat) : List (Nat × Nat) :=
  let g := p.reads pl.env
  (p.nodes.flatMap (fun n => ((List.range (min lim n.vl)).filter p.fresh).flatMap (n.regWords g))).eraseDups

/-- Publishes positions lo to hi of every published sink (11 R268): masked-off elements count as performed, and a PB store performs whole
blocks. -/
def Plan.publish (pl : Plan) (lo hi : Nat) (s : State) : State :=
  pl.puts.foldl (fun s np =>
    let whole := fun i => if i < np.1.vl then (if mfIsPb np.1.fmt then i / 16 * 16 else i) else np.1.vl
    match np.1.wm with
    | some (obj, base) => s.mapCtx (fun c => c.publish obj (base + whole lo) (base + whole hi))
    | none => s) s

/-- Elements of a width packed from bit 0 up. -/
def packElems (w : Nat) (xs : List Nat) : Nat := xs.foldr (fun x acc => x % 2 ^ w + acc * 2 ^ w) 0

/-- The register image of a source: a node's elements below VL over its under operand's image (04 R105). -/
def Pass.image (p : Pass) (env : List (Nat × NodeRes)) (mask : Bool) (fuel : Nat) (x : Src) : Nat :=
  match fuel with
  | 0 => 0
  | k + 1 =>
    match x with
    | .vreg n => (p.v.toList.getD n 0).toNat
    | .kreg n => (p.k.toList.getD n 0).toNat
    | .node sl part =>
      (match p.pk.node? sl, lookup env sl with
       | some n, some r =>
         let m := 2 ^ (n.partWidth part * n.vl)
         p.image env mask k (if part = 0 then n.under else n.under2) / m * m
           + packElems (n.partWidth part) (if part = 0 then r.p0 else r.p1)
       | _, _ => 0)
    | _ => 0

/-- Materialisation (04 R89): every pending name is written and becomes resident, and the pricking is empty; words written in
full are sound again (24 R417). -/
def Pass.materialise (p : Pass) (env : List (Nat × NodeRes)) (s : State) : State :=
  let pk := p.pk
  let vec := s.st.vec
  let v := Vector.ofFn (fun i : Fin 32 =>
    match pk.vb[i] with
    | some (sl, part) => BitVec.ofNat 65536 (p.image env false 65 (.node sl part))
    | none => vec.v[i])
  let k := Vector.ofFn (fun i : Fin 8 =>
    match pk.kb[i] with
    | some (sl, part) => BitVec.ofNat 8192 (p.image env true 65 (.node sl part))
    | none => vec.k[i])
  let full := fun r j : Nat =>
    match (pk.vb.toList.getD r none).bind (fun x => (pk.node? x.1).map (fun n => n.partWidth x.2 * n.vl)) with
    | some w => decide (64 * (j + 1) ≤ w)
    | none => false
  (s.setVec { vec with v := v, k := k, pk := vec.pk.next false none }).wroteWords full

/-! ## What waits behind a pass (04 R87) -/

/-- A register with its elements below VL replaced (04 R105). -/
def below (r : VReg) (w vl : Nat) (xs : List Nat) : VReg :=
  BitVec.ofNat 65536 (r.toNat / 2 ^ (w * vl) * 2 ^ (w * vl) + packElems w xs)

/-- The elements below VL after a permutation of those of v[rs1], v[rd] and v[rs2], with x[rs2] and the bits of k[rs2] (07 R180). -/
def PermOp.elems (op : PermOp) (n vl : Nat) (sel : Nat → Bool) (src old idx : List Nat) : List Nat :=
  match op with
  | .sldup => old.zipIdx.map (fun o => if n ≤ o.2 then src.getD (o.2 - n) 0 else o.1)
  | .slddn => old.zipIdx.map (fun o => if o.2 + n < vl then src.getD (o.2 + n) 0 else 0)
  | .perm => idx.map (fun j => if j < vl then src.getD j 0 else 0)
  | .compr =>
    let kept := (src.zipIdx.filter (fun x => sel x.2)).map Prod.fst
    kept ++ old.drop kept.length
  | .expnd => old.zipIdx.map (fun o => if sel o.2 then src.getD ((List.range o.2).filter sel).length 0 else o.1)
  | .rev => src.reverse

/-- The elements below VL of v[rd] as a permutation leaves them. -/
def Perm.elems (p : Perm) (v : Vec) : List Nat :=
  let el := fun r : BitVec 5 => (List.range p.vl).map (elemOf (v.v[r.toNat]'r.isLt) p.w)
  p.op.elems p.n p.vl (fun i => (v.k[low3 p.rs2]).getLsbD i) (el p.rs1) (el p.rd) (el p.rs2)

/-- The register words that a permutation reads. -/
def Perm.words (p : Perm) : List (Nat × Nat) :=
  wordsOf (p.rs1.toNat :: (if p.op = .perm then [p.rs2.toNat] else [])) (ceilDiv (p.w * p.vl) 64)

/-- The registers after a permutation that has waited, whatever is bound to its name since; words written in full are sound again (24
R417). -/
def State.setPerm (s : State) (p : Perm) : State :=
  let v := s.st.vec
  (s.setVec { v with v := v.v.set p.rd.toNat (below (v.v[p.rd.toNat]'p.rd.isLt) p.w p.vl (p.elems v)) p.rd.isLt }).wroteWords
    (fun r j => r == p.rd.toNat && decide (64 * (j + 1) ≤ p.w * p.vl))

/-- What an executed instruction does once the command queue comes to it. A permutation with a register word that cannot be rebuilt has
no effect, and its trap is to come (24 R417; log 23). -/
def State.act (s : State) (a : Act) : State :=
  match a with
  | .zero vs ks => s.setVec (s.st.vec.zeroed vs ks)
  | .setO o w => s.setO o w
  | .permute p =>
    match s.st.firstLost p.words with
    | some w => (s.logLost w.1 w.2 0x77).raiseOnce { code := 0x77, stval := 0, selem := 0, sorig := p.pc }
    | none => (s.readWords p.words).setPerm p

/-- A pass has ended: what waits in the vector command queue goes on (04 R87). The oldest entry becomes the strand's pricking; what its nodes
capture of o registers is not what a VOSET of the entry writes, whose value those noted after it took. -/
def State.resume (s : State) : State :=
  match s.st.vec.ahead with
  | [] => s.setVec { s.st.vec with asked := [] }
  | b :: rest =>
    let a := b.capture s.st.vec.o
    let s := (a.acts.foldl State.act (s.setVec { s.st.vec with ahead := rest })).setPk a.pk
    match a.force with
    | some (serial, mode) => s.startPass none a.stream a.shadow serial mode
    | none => s

/-- Step 3 of a pass (04 R88): reductions write their o registers, flags are raised. -/
def Pass.results (p : Pass) (pl : Plan) (fl : FFlags) (s : State) : State :=
  let g := p.reads pl.env
  let s := (p.nodes.filter (fun n => n.op.isRed)).foldl (fun s n =>
    match (reduce n (p.leaves g n)).1 with
    | some r => s.setO ⟨n.dst % 8, Nat.mod_lt _ (by decide)⟩ r
    | none => s) s
  s.setCsr { s.st.csr with vfflags := s.st.csr.vfflags ||| p.fl ||| orFlags (pl.fls.map (fun f => orFlags f.2)) ||| pl.red ||| fl }

/-- The pass ends (04 R88 to R90), and what waits in the vector command queue goes on (R87). -/
def Pass.finish (p : Pass) (pl : Plan) (s : State) : State :=
  let r := p.performAll pl (fun _ _ => true) (s.readWords (p.readsBelow pl (2 ^ 41)))
  let s := pl.publish p.chk (2 ^ 41) r.1
  let s := p.results pl r.2 s
  let s := if p.stream then s.setPk (s.st.vec.pk.next true p.want) else p.materialise pl.env s
  let ans := match p.want with
    | some k =>
      match p.pk.kb.toList.getD k none with
      | some (sl, part) => some (k, p.image pl.env true 1 (.node sl part))
      | none => none
    | none => none
  (s.setVec { s.st.vec with pass := none, answer := ans }).dirtyVs.resume

/-! ## Stopping (23 R398 to R407) -/

/-- Whether elements of a node depend on elements of its operands at other indices (04 R102; 06 R451; 08 R197, R198). -/
def NOp.isCross (o : NOp) : Bool :=
  match o with
  | .scanAdd | .scanMax | .fscan | .lrec | .prev | .kshl | .kshr | .nms | .nmst => true
  | _ => false

/-- Whether a store's mapping is identical to that of one of the pass's load streams (04 R97). -/
def inPlace (ns : List Node) (n : Node) : Bool := n.op == .store && ns.any (fun m => m.op == .load && n.sameMap m)

/-- The slip limit of a pass (04 R102), raised for a stream-mode shift of a mask computed in the same pass (06 R451). -/
def Pass.slipNow (p : Pass) (lanes : Nat) : Nat :=
  p.nodes.foldl (fun m n =>
    match n.a with
    | .node _ _ =>
      if (n.op = .kshl ∨ n.op = .kshr) ∧ n.seed.toNat < n.vl then
        min 16 (max m (ceilDiv n.seed.toNat (lanes * 64 / etWidth (vtEt n.vtype)) + 1))
      else m
    | _ => m) p.slip

/-- The sinks of a pass. -/
def Pass.sinks (p : Pass) : List Node := p.nodes.filter (fun n => n.op.isSink)

/-- Elements lo to hi (hi excluded) of a sink, none of which is stuck. -/
def Plan.ready (pl : Plan) (n : Node) (lo hi : Nat) : Bool :=
  let q := stallsOf pl.stuck
  (List.range (min hi n.vl - lo)).all (fun j => !q (.node n.slot 0) (lo + j))

/-- Whether an atomic comes after those of its stream with lower indices on its bytes (07 R166): each is below a limit, marked, or to be
performed on other bytes. -/
def Plan.inOrder (pl : Plan) (g : Reads) (lim : Nat) (ms : List (Nat × Nat × Option Nat)) (n : Node) (q : Put) : Bool :=
  n.op != .amo || (List.range q.first).all (fun j =>
    decide (j < lim) || ms.any (fun m => m.1 == n.slot && m.2.1 == j) ||
      (pl.ready n j (j + 1) &&
        (n.off g j || pl.puts.any (fun np => np.1.slot == n.slot && np.2.any (fun r => r.first == j && !r.keys.any q.keys.contains)))))

/-- The marks that performing elements lo to hi (hi excluded) of a sink adds: each element, with the leaf of a reduction that is present;
none where an atomic among them is out of order. -/
def Pass.markUnit (p : Pass) (pl : Plan) (lim lo hi : Nat) (ms : List (Nat × Nat × Option Nat)) (n : Node) : Option (List (Nat × Nat × Option Nat)) :=
  let g := p.reads pl.env
  let leaves := if n.op.isRed then p.leaves g n else []
  (List.range (min hi n.vl - lo)).foldlM (fun ms j =>
    let i := lo + j
    if p.finished n.slot i || decide (i < lim ∧ n.unit ≠ 16) then some ms
    else if pl.puts.all (fun np => np.1.slot != n.slot || np.2.all (fun q => q.first != i || pl.inOrder g lim ms n q)) then
      some (ms ++ [(n.slot, i, leaves.getD i none)])
    else none) ms

/-- Marks, unit by unit, the elements that tests allow, of units that reach above a limit. -/
def Pass.marksIf (p : Pass) (pl : Plan) (lim size count : Nat) (sinks : List Node) (free : Node → Nat → Nat → Bool)
    (ms : List (Nat × Nat × Option Nat)) : List (Nat × Nat × Option Nat) :=
  (List.range count).foldl (fun ms u =>
    let lo := size * u
    let hi := size * (u + 1)
    if lim < hi ∧ sinks.all (fun n => free n lo hi) then
      match sinks.foldlM (p.markUnit pl lim lo hi) ms with
      | some ms' => ms'
      | none => ms
    else ms) ms

/-- Units of a size that the nodes' elements take. -/
def Pass.units (p : Pass) (size : Nat) : Nat := p.nodes.foldl (fun m n => max m (ceilDiv n.vl size)) 0

/-- Whether a sink's unit, elements lo to hi, was performed although it lies at or above the checkpoint when a pass stopped on a fault (23
R399, R400): by free choice within the slip limit, where nothing stops it on the way. While an element waits on a page the other lanes run
on, so the words of its group in which nothing stops are performed (23 R401). -/
def Pass.own (p : Pass) (pl : Plan) (tick lim lanes : Nat) (waited : Bool) (n : Node) (lo hi : Nat) : Bool :=
  decide (lo / n.group lanes < lim / n.group lanes + p.slipNow lanes) && pl.ready n lo hi &&
    (waited && decide (lo < lim + n.group lanes) || Config.doneMark tick n.slot (lo / n.unit))

/-- The marks set when a pass stops on a fault. An in-place store is performed after the word's other sinks: where it is of PB blocks, after
those of all the block's words. -/
def Pass.marks (p : Pass) (pl : Plan) (tick lim lanes : Nat) (waited : Bool) : List (Nat × Nat × Option Nat) :=
  let ns := p.nodes
  let done := fun (ms : List (Nat × Nat × Option Nat)) (m : Node) (lo hi : Nat) =>
    (List.range (min hi m.vl - lo)).all (fun j => decide (lo + j < lim) || p.finished m.slot (lo + j) || ms.any (fun x => x.1 == m.slot && x.2.1 == lo + j))
  let first := p.sinks.filter (fun n => !inPlace ns n)
  let ms := first.foldl (fun ms n => p.marksIf pl lim n.unit (ceilDiv n.vl n.unit) [n] (p.own pl tick lim lanes waited) ms) []
  (p.sinks.filter (inPlace ns)).foldl (fun ms' n => p.marksIf pl lim n.unit (ceilDiv n.vl n.unit) [n] (fun n lo hi =>
    p.own pl tick lim lanes waited n lo hi && first.all (fun m => done ms m lo hi)) ms') ms

/-- The marks set while a pass runs on: units within slip in which nothing stops, all sinks together, so that what they read is not read
again; where a node reads other elements than its own, none. -/
def Pass.running (p : Pass) (pl : Plan) (tick lim lanes : Nat) : List (Nat × Nat × Option Nat) :=
  let size := p.sinks.foldl (fun m n => max m n.unit) 1
  if p.nodes.any (fun n => n.op.isCross) then []
  else p.marksIf pl lim size (p.units size) p.sinks (fun n lo hi =>
    decide (lo / n.group lanes < lim / n.group lanes + p.slipNow lanes) && pl.ready n lo hi && Config.doneMark tick 0 (lo / size)) []

/-- Performs every element below a limit and the marked ones above it. -/
def Pass.partly (p : Pass) (pl : Plan) (lim : Nat) (ms : List (Nat × Nat × Option Nat)) (s : State) : State × FFlags :=
  let hit := fun (n : Node) (i : Nat) => ms.any (fun m => m.1 == n.slot && m.2.1 == i)
  let r := p.performAll pl (fun n q => decide (q.last < lim) || hit n q.last) (s.readWords (p.readsBelow pl lim))
  let s := pl.publish p.chk lim r.1
  (ms.foldl (fun s m =>
    match (pl.puts.find? (fun np => np.1.slot == m.1)).bind (fun np => np.1.wm) with
    | some (obj, base) => s.mapCtx (fun c => c.publish obj (base + m.2.1) (base + m.2.1 + 1))
    | none => s) s, r.2)

/-- The bytes that marked stores have written, kept while an element that comes before them may still be performed. -/
def Pass.wroteNow (p : Pass) (pl : Plan) (lim : Nat) (ms : List (Nat × Nat × Option Nat)) : List (Nat × Nat × List Nat) :=
  (p.wrote ++ pl.puts.flatMap (fun np =>
    (np.2.filter (fun q => ms.any (fun m => m.1 == np.1.slot && m.2.1 == q.last))).map (fun q => (np.1.slot, q.first, q.keys)))).filter
    (fun w => decide (lim ≤ w.2.1 + 16))

/-- What the loads keep at a checkpoint (23 R400): below it every value, above it those of elements whose every sink is
marked. -/
def Pass.keep (p : Pass) (pl : Plan) (lim : Nat) : List Kept :=
  (p.nodes.filter (fun n => n.op.isLoad)).map (fun n =>
    let vs := match lookup pl.env n.slot with | some r => r.p0 | none => []
    { slot := n.slot, below := vs.take lim,
      above := (vs.zipIdx.filter (fun x => decide (lim ≤ x.2) && !p.fresh x.2)).map (fun x => (x.2, x.1)) })

/-- Whether a node's element is carried through every element below it (06 R142). -/
def NOp.isScan (o : NOp) : Bool :=
  match o with
  | .scanAdd | .scanMax | .fscan | .lrec | .prev => true
  | _ => false

/-- The elements of its operands that element i of a node depends on (06 R142, R147; 08 R197, R198). -/
def Node.uses (n : Node) (i : Nat) : List Nat :=
  if n.op.isScan then List.range (i + 1)
  else
    match n.op with
    | .kshl => [i - n.seed.toNat]
    | .kshr => [i + n.seed.toNat]
    | .nms => let (k, m) := nmOf n.sel; i :: (List.range m).map (fun t => i / k * m + t)
    | .nmst =>
      let c := n.vl / 4
      i :: [i % (c / 2) / 2, i].flatMap (fun b => (List.range 16).map (fun t => t / 4 * c + 4 * b + t % 4))
    | _ => [i]

/-- The elements of each node that marked elements of sinks depend on: the pass's nodes, each with the elements used. -/
def Pass.usedBy (p : Pass) (ms : List (Nat × Nat × Option Nat)) : List (Node × List Nat) :=
  p.nodes.foldr (fun n acc =>
    let own := (ms.filter (fun m => m.1 == n.slot)).map (fun m => m.2.1)
    let by_ := (acc.filter (fun u => u.1.refs.contains n.slot)).flatMap (fun u => u.2.flatMap u.1.uses)
    (n, ((own ++ by_).filter (fun i => decide (i < n.vl))).eraseDups) :: acc) []

/-- Flags of what has been performed: of every node below the checkpoint, and at every element that a marked sink depends on (03 R60; 07
R159). The replay does not compute them again. -/
def Pass.performedFlags (p : Pass) (pl : Plan) (lim : Nat) (ms : List (Nat × Nat × Option Nat)) : FFlags :=
  let below := pl.fls.map (fun f => orFlags (f.2.take lim))
  let at_ := (if ms.isEmpty then [] else p.usedBy ms).flatMap (fun u =>
    let is := if u.1.op.isScan then List.range (u.2.foldl (fun m i => max m (i + 1)) 0) else u.2
    is.map (fun i => ((lookup pl.fls u.1.slot).getD []).getD i 0))
  orFlags (below ++ at_)

/-- The pass after a stop at a checkpoint, in a state in which its elements below the checkpoint and the marked ones are
performed. -/
def Pass.stopped (p : Pass) (pl : Plan) (lim : Nat) (ms : List (Nat × Nat × Option Nat)) (fl : FFlags) (s : State) : Pass :=
  let p' := { p with chk := max p.chk lim, done := p.done ++ ms }
  { p' with kept := p'.keep pl p'.chk, wrote := p.wroteNow pl p'.chk ms, fl := p.fl ||| fl ||| p.performedFlags pl p'.chk ms
            shadow := match s.st.vec.pass with | some q => q.shadow | none => p.shadow }

/-- Kinds that squash a pass: poison, mismatch and a path that failed (23 R406; 25 R438). -/
def squashes (kind : Nat) : Bool := kind == 7 || kind == 8 || kind == 11

/-- A squashed pass is undone by renaming (23 R407): names, pricking and last stand as at its start. -/
def Pass.undo (p : Pass) (s : State) : State :=
  s.setVec { s.st.vec with v := p.v, k := p.k, pk := { p.pk with due := false, count := 0 }, pass := none, ahead := [], squashed := true }

/-- No access of the strand's pass waits any more. -/
def State.passWaitsGone (s : State) : State :=
  { s with pfWaits := s.pfWaits.filter (fun w => !(w.fe == s.st.fe && decide (2 ≤ w.src) && decide (w.src ≤ 6))) }

/-- The event of a register word that an element cannot read. -/
def Pass.logWord (p : Pass) (pl : Plan) (e : Nat) (n : Node) (code : BitVec 8) (s : State) : State :=
  match s.st.firstLost (n.regWords (p.reads pl.env) e) with
  | some w => s.logLost w.1 w.2 code
  | none => s

/-- The event of a hardware error that a pass meets at an element (24 R415, R423, R425). -/
def Pass.logError (p : Pass) (e : Nat) (n : Node) (kind : Nat) (code : BitVec 8) (s : State) : State :=
  if !p.errs.any (fun x => x.slot == n.slot && x.kind == kind && n.blame x.elem == e) then s
  else if kind = 7 then s.badEntry code
  else if kind = 8 then s.mismatch (s.st.wordPlace (e * n.w / 64)).1 2 code
  else s

/-- Raises the fault of a pass, unless one of the vector engine is held undelivered (23 R396). -/
def State.raisePass (s : State) (t : TrapInfo) : State := if s.st.held.any TrapInfo.ofPass then s else s.raise t

/-- The write or atomic of element e of a node that was lost on its way: performed or not (25 R438). -/
def Pass.lostPut (p : Pass) (e : Nat) (n : Node) (s : State) : State :=
  let pl := { p with errs := [] }.plan s
  let puts := (pl.puts.filter (fun np => np.1.slot == n.slot)).flatMap Prod.snd
  match puts.find? (fun q => decide (q.first ≤ e) && decide (e ≤ q.last)) with
  | some q => if Config.lostDone s.tick then (p.perform n (s, 0) q).1 else s
  | none => s

/-- A pass stops on the fault of a kind at element e of a node (23 R398 to R401, R406): the groups below are performed, then
it is held, or squashed. -/
def Pass.fail (p : Pass) (pl : Plan) (e : Nat) (n : Node) (kind src va : Nat) (s : State) : State :=
  let lim := min (p.groupStart n e s.st.lanes) (p.floor pl s.st.lanes)
  let ms := p.marks pl s.tick lim s.st.lanes (kind == 3)
  let r := p.partly pl lim ms s
  let t : TrapInfo := { code := causeOf kind src, stval := BitVec.ofNat 64 (if kind = 10 ∨ kind = 8 then 0 else va),
                        selem := BitVec.ofNat 64 e, sorig := n.pc }
  let s := if kind = 11 then p.lostPut e n r.1 else r.1
  let s := (p.logError e n kind t.code (p.logWord pl e n t.code s.passWaitsGone)).dirtyVs
  if squashes kind then (p.undo s).raisePass t
  else (s.setPass (some { p.stopped pl lim ms r.2 s with held := true })).raisePass t

/-- The pass runs on without ending (23 R401): the element groups below a limit are performed, and, but for a watermark link, words
above it within slip. -/
def Pass.runOn (p : Pass) (pl : Plan) (lim : Nat) (link : Bool) (s : State) : State :=
  let ms := if link then [] else p.running pl s.tick lim s.st.lanes
  let r := p.partly pl lim ms s
  r.1.setPass (some (p.stopped pl lim ms r.2 r.1))

/-- The pass's engine posts a fault-buffer record for an element that waits (23 R401), and for a PB block that straddles two pages one for
each that is not present (12 R303; 25 R442). -/
def Pass.postWait (p : Pass) (pl : Plan) (s : State) (h : Nat × Nat × Node × Halt) : State :=
  let n := h.2.2.1
  let both := fun (t : State) (va : Nat) (use : Use) =>
    t.otherPage p.sup (t.spaceVa n.vmt (n.addr (p.reads pl.env) h.1) n.size).1 n.size n.src use va
  match h.2.2.2 with
  | .page va use => both (s.pageFault s.st n.src 0 va use).2 va use
  | .migrating va use => both (s.migrateWait s.st n.src 0 va use) va use
  | _ => s

/-- The records of the elements that wait, one for each distinct page: lanes have reached those within slip of the lowest (23
R401; 25 R442). -/
def Pass.postWaits (p : Pass) (pl : Plan) (lim lanes : Nat) (s : State) : State :=
  pl.halts.foldl (fun s h => if h.1 < lim + p.slipNow lanes * h.2.2.1.group lanes then p.postWait pl s h else s) s

/-- The pass goes as far as it can in one step: it ends, stops on a fault, or runs on while elements wait with their fault-buffer
records posted. -/
def runPass (s : State) : State :=
  match s.st.vec.pass with
  | none => s
  | some p =>
    if p.held || !s.st.passOpen p then s
    else
      let pl := p.plan s
      let lim := p.floor pl s.st.lanes
      match p.turn pl s.st.lanes with
      | .ends => p.finish pl s
      | .faults e n k src va => p.fail pl e n k src va s
      | .waits _ _ .link => p.runOn pl lim true s
      | .waits _ _ _ => p.runOn pl lim false (p.postWaits pl lim s.st.lanes s)

/-- What a pass in flight, not held and behind no fence, is about to do. -/
def passTurn (s : State) : Option Turn :=
  match s.st.vec.pass with
  | some p => if p.held || !s.st.passOpen p then none else some (p.turn (p.plan s) s.st.lanes)
  | none => none

/-- Part of a pass in flight is performed: the element groups below one, as far as nothing stops them, and words above them within
slip (04 R99, R102; 13 R334). -/
def runPart (groups : Nat) (s : State) : State :=
  match s.st.vec.pass with
  | none => s
  | some p =>
    if p.held || !s.st.passOpen p then s
    else
      let pl := p.plan s
      p.runOn pl (max p.chk (min (groups * p.groupSize s.st.lanes) (p.floor pl s.st.lanes))) false s

/-! ## Scalar atomics beside a pass (13 R323, R328) -/

/-- Whether a sink of a pass is yet to write a byte of some keys, or may be: elements whose place is not known yet, or whose page is not
there yet, count; one that faults does not. -/
def Pass.mayWrite (p : Pass) (s : State) (ks : List Nat) : Bool :=
  let pl := p.plan s
  let g := p.reads pl.env
  let q := stallsOf pl.stuck
  let hit := fun (n : Node) (i : Nat) =>
    (n.op != .store && q n.b i) ||
      (match s.probe p.sup n (n.addr g i) .write with
       | .ok l => l.any ks.contains
       | .error h => !h.isFault)
  pl.puts.any (fun np => np.2.any (fun r => r.keys.any ks.contains)) ||
    p.nodes.any (fun n => n.isStream && !n.op.isLoad && (List.range n.vl).any (fun i => q (.node n.slot 0) i && hit n i))

/-- Whether a pass that starts later from a closed entry of the command queue may write a byte of some keys: a scatter or atomic may, its
places not being known yet. -/
def Ahead.mayWrite (a : Ahead) (s : State) (ks : List Nat) : Bool :=
  match a.force with
  | none => false
  | some f =>
    (a.pk.passNodes a.stream none).any (fun n => n.op == .storex || n.op == .amo ||
      (n.op == .store && (List.range n.vl).any (fun i =>
        match s.probe f.2 n (n.addr (fun _ _ _ => 0) i) .write with
        | .ok l => l.any ks.contains
        | .error h => !h.isFault)))

/-- Whether a scalar store of some keys would come between the bytes of an element that a sink of a pass is yet to write: a store or scatter
whose place is known and that it covers in part, or an atomic on any of them, or whose place is not known yet (13 R323). -/
def Pass.splitBy (p : Pass) (s : State) (ks : List Nat) : Bool :=
  let pl := p.plan s
  let g := p.reads pl.env
  let q := stallsOf pl.stuck
  let cuts := fun (n : Node) (l : List Nat) => l.any ks.contains && (n.op == .amo || !l.all ks.contains)
  pl.puts.any (fun np => np.2.any (fun r => cuts np.1 r.keys) ||
    (List.range np.1.vl).any (fun i => q (.node np.1.slot 0) i &&
      (if np.1.op != .store && q np.1.b i then np.1.op == .amo
       else match s.probe p.sup np.1 (np.1.addr g i) .write with
         | .ok l => cuts np.1 l
         | .error h => np.1.op == .amo && !h.isFault)))

/-- The same of a pass that starts later from a closed entry of the command queue: of its scatters the places are not known yet. -/
def Ahead.splitBy (a : Ahead) (s : State) (ks : List Nat) : Bool :=
  match a.force with
  | none => false
  | some f =>
    (a.pk.passNodes a.stream none).any (fun n => n.op == .amo ||
      (n.op == .store && (List.range n.vl).any (fun i =>
        match s.probe f.2 n (n.addr (fun _ _ _ => 0) i) .write with
        | .ok l => l.any ks.contains && !l.all ks.contains
        | .error _ => false)))

/-- Whether a scalar store waits for a pass whose force point has gone by, an access of which it would split (log 93). A pass that is held
in supervisor mode cannot go on, and is not waited for. -/
def State.splitsPass (s : State) (ks : List Nat) : Bool :=
  !(s.sup && s.st.vec.pass.any (fun p => p.held)) &&
    (s.st.vec.pass.any (fun p => p.splitBy s ks) || s.st.vec.ahead.any (fun a => a.splitBy s ks))

/-- Whether a pass whose force point has gone by may yet write a byte of some keys. -/
def State.passMayWrite (s : State) (ks : List Nat) : Bool :=
  s.st.vec.pass.any (fun p => p.mayWrite s ks) || s.st.vec.ahead.any (fun a => a.mayWrite s ks)

/-! ## Hardware errors of a pass (24 R417, R422, R423, R425, R432; 25 R438) -/

/-- Whether a pass can meet a hardware error of a kind at a node, with the source nibble it has there (23 Table 23.1): an entry of
a pricking store or queue, a mismatch at a write-back in protected mode, or a write or atomic that is lost (25 R438). -/
def errSrc (prot : Bool) (n : Node) (kind : Nat) : Option Nat :=
  if kind = 7 then some 2
  else if kind = 8 then (if prot then some (if n.op.isSink && !n.op.isRed then n.src else 2) else none)
  else if kind = 11 then (if n.isStream && !n.op.isLoad then some n.src else none)
  else none

/-- An element of a node that a hardware error can be at: one that is active, or may be, and not yet performed. -/
def Pass.errAt (p : Pass) (s : State) (slot e : Nat) : Option Node :=
  let pl := p.plan s
  p.nodes.find? (fun n => n.slot == slot && decide (e < n.vl) && decide (p.chk ≤ e) &&
    (n.maskStuck (stallsOf pl.stuck) e || !n.off (p.reads pl.env) e))

/-- A hardware error joins those that the pass meets. -/
def State.passError (s : State) (kind slot e : Nat) : State :=
  match s.st.vec.pass with
  | none => s
  | some p =>
    match p.errAt s slot e with
    | none => s
    | some n =>
      if p.held ∨ (errSrc s.st.br.prot n kind).isNone then s
      else s.setPass (some { p with errs := p.errs ++ [{ slot := slot, elem := e, kind := kind }] })

/-- A soft error in what a node computes: unnoticed outside protected mode, where it changes the value; in protected mode the
group is computed again, and the mismatch is transient, or confirmed where it comes again (24 R423, R432). -/
def State.passSoft (s : State) (slot e mask : Nat) (again : Bool) : State :=
  match s.st.vec.pass with
  | none => s
  | some p =>
    match p.errAt s slot e with
    | none => s
    | some n =>
      if p.held then s
      else if !s.st.br.prot then s.setPass (some { p with flips := p.flips ++ [(slot, if n.op.isLoad then e else n.blame e, mask)] })
      else
        if again then s.passError 8 slot e else s.mismatch (s.st.wordPlace (e * n.w / 64)).1 0 0

/-! ## The events of a pass -/

/-- PASS_END (04 R88): a pass that nothing stops ends; one that meets a page fault posts its record. -/
def execPassEnd (s : State) : Out :=
  match passTurn s with
  | some .ends => ok (runPass s)
  | some (.waits _ _ _) => ok (runPass s)
  | _ => ok s

/-- PASS_FAULT (23 R398): a pass that meets a fault is held or squashed. A hardware error names its kind, its node and its
element (24 R417, R423; 25 R438); the pass meets it where no lower element stops it. -/
def execPassFault (err : Option (Nat × Nat × Nat)) (s : State) : Out :=
  let s' := match err with
    | some (kind, slot, e) => s.passError kind slot e
    | none => s
  match passTurn s' with
  | some (.faults ..) => ok (runPass s')
  | _ => ok s'

/-- LINKED_STREAM_RELEASE (11 R269): the groups of a linked pass that its watermark has released are performed, up to the
first that still waits. -/
def execLinkedStreamRelease (s : State) : Out :=
  match passTurn s with
  | some (.waits _ _ .link) => ok (runPass s)
  | _ => ok s

/-- LINKED_STREAM_TIMEOUT (23 R410): a linked stream has waited 1 s on its object: 0xA3 or 0xA5 at the first element still
waiting. -/
def execLinkedStreamTimeout (s : State) : Out :=
  match s.st.vec.pass, passTurn s with
  | some p, some (.waits e n .link) => ok (p.fail (p.plan s) e n 10 n.src 0 s)
  | _, _ => ok s

end Sys2Proof.Machine
end

