-- ==== Sys2Proof/Machine/Tile.lean ====
section
/-! DEFINITION. Machine/Tile.lean: the tile space, tile shapes and elements (02 R47; 08 R183 to R187; 12 R296), and reads of
memory by path M. -/

namespace Sys2Proof.Machine

/-! ## The tile space (12 Table 12.3, 09 Table 9.2) -/

/-- Offset of word (p, j) of an accumulator. -/
def accOff (g a p j : Nat) : Nat := 0x200000 + 0x20000 * a + 4 * (p * 64 * g + j)

/-- Offset of entry i of a norm register. -/
def nmOff (r i : Nat) : Nat := 0x40000 + r * 0x20000 + 4 * i

/-- Offset of entry i of the alias table. -/
def tabOff (i : Nat) : Nat := 0xC0000 + 8 * i

/-- The value of n bytes of the tile space. -/
def Mat.get (m : Mat) (off n : Nat) : Nat := m.bytes.val off n

/-- Whether a poisoned word lies among n bytes of the tile space. -/
def Mat.bad (m : Mat) (off n : Nat) : Bool := m.poison.any (fun p => decide (p.1 < off + n) && decide (off < p.1 + p.2))

/-- Writes cells of the tile space: a whole poisoned word written is clean again, and a narrower write to it is dropped
(24 R426). -/
def Mat.write (m : Mat) (cells : List Host.Cell) : Mat :=
  let covers := fun (p : Nat × Nat) => (List.range p.2).all (fun i => cells.any (fun c => c.1 == p.1 + i))
  let ps := m.poison.filter (fun p => !covers p)
  let kept := cells.filter (fun c => !ps.any (fun p => decide (p.1 ≤ c.1) && decide (c.1 < p.1 + p.2)))
  { m with bytes := kept.foldl (fun b c => b.put c.1 c.2) m.bytes, poison := ps }

/-- Bytes of a range of the tile space that differ between two states, as the first has them. -/
def Mat.changed (old new : Mat) (inside : Nat → Bool) : List Host.Cell :=
  (old.bytes.filter (fun c => inside c.1 && new.bytes.get c.1 != c.2)) ++
    ((new.bytes.filter (fun c => inside c.1 && old.bytes.get c.1 == 0)).map (fun c => (c.1, 0)))

/-- Writes an n-byte value to the tile space. -/
def Mat.put (m : Mat) (off n v : Nat) : Mat :=
  if m.poison.isEmpty then
    { m with bytes := (leBytes n v).zipIdx.foldl (fun b p => b.put (off + p.2) p.1) m.bytes }
  else m.write (((leBytes n v).zipIdx).map (fun p => (off + p.2, p.1)))

/-- Sets n bytes to zero and clears their poison (08 R184; 24 R427). -/
def Mat.zero (m : Mat) (off n : Nat) : Mat :=
  { m with bytes := m.bytes.clear off (off + n),
           poison := m.poison.filter (fun p => !(decide (off ≤ p.1) && decide (p.1 + p.2 ≤ off + n))) }

/-- nlen of a norm register. -/
def Mat.nlen (m : Mat) (r : Nat) : Nat := m.get (0x100000 + 2 * r) 2

/-- Whether a poisoned word lies under nlen of a norm register. -/
def Mat.nlenBad (m : Mat) (r : Nat) : Bool := m.bad (0x100000 + 2 * r) 2

/-- tk. -/
def Mat.tk (m : Mat) : Nat := m.get 0x100008 8 % 2 ^ 17

/-! ## Tile shapes (02 R47, 08 R183) -/

/-- The fields of a tcfg value. -/
structure Shape where
  fmt  : Nat
  rows : Nat
  cols : Nat
  deriving DecidableEq, Repr

/-- The shape a tcfg value states (02 Table 2.8). -/
def shapeOf (t : Word) : Shape := { fmt := fieldOf t 0 4, rows := fieldOf t 4 8, cols := fieldOf t 12 11 }

/-- Row bytes. -/
def Shape.rowBytes (h : Shape) : Nat := if mfIsPb h.fmt then h.cols / 16 * pbBytes h.fmt else h.cols * mfSize h.fmt

/-- Row pitch. -/
def Shape.pitch (h : Shape) : Nat := ceilDiv h.rowBytes 64 * 64

/-- A legal tcfg value (02 R47). -/
def tcfgLegal (t : Word) : Bool :=
  let h := shapeOf t
  decide (1 ≤ h.fmt) && decide (h.fmt ≤ 14) && decide (h.rows ≤ 128) && decide (h.rowBytes ≤ 512) &&
    decide (h.rows * h.pitch ≤ 32768) && (!mfIsPb h.fmt || h.cols % 16 == 0) && fieldOf t 23 41 == 0

/-- The value of one element: a PB block's element, an integer or a floating-point pattern. -/
def fvOf (fmt raw i : Nat) : FV :=
  if mfIsPb fmt then pbDecode raw (pbK fmt) i
  else if etFloat fmt then unpack (ffOf fmt) raw
  else fvInt (tyInt fmt raw) 0 false

/-- Offset within a tile, bytes, and place in its block, of element (i, j). -/
def Shape.place (h : Shape) (i j : Nat) : Nat × Nat × Nat :=
  if mfIsPb h.fmt then (i * h.pitch + j / 16 * pbBytes h.fmt, pbBytes h.fmt, j % 16)
  else (i * h.pitch + j * mfSize h.fmt, mfSize h.fmt, 0)

/-- Offset of tile m. -/
def tileOff (m : Nat) : Nat := 0x8000 * m

/-- The raw bytes of the element, or of its block. -/
def Mat.raw (m : Mat) (t : Nat) (h : Shape) (i j : Nat) : Nat :=
  let p := h.place i j
  m.get (tileOff t + p.1) p.2.1

/-- The value of tile element (i, j). -/
def Mat.elem (m : Mat) (t : Nat) (h : Shape) (i j : Nat) : FV := fvOf h.fmt (m.raw t h i j) (h.place i j).2.2

/-- Whether a poisoned word lies under tile element (i, j). -/
def Mat.elemBad (m : Mat) (t : Nat) (h : Shape) (i j : Nat) : Bool :=
  let p := h.place i j
  m.bad (tileOff t + p.1) p.2.1

/-- Writes row i of a tile from values of one type: elements, or whole PB blocks with positions beyond them +0. Also the
flags of the conversions. -/
def Mat.putRow (m : Mat) (t : Nat) (h : Shape) (i : Nat) (ty rm : Nat) (sat : Bool) (xs : List Nat) : Mat × FFlags :=
  if mfIsPb h.fmt then
    (List.range (ceilDiv xs.length 16)).foldl (fun a b =>
      let vs := (List.range 16).map (fun j => if 16 * b + j < xs.length then etValue ty (xs.getD (16 * b + j) 0) else .fin false 0 0)
      let r := pbEncode rm (pbK h.fmt) vs
      (a.1.put (tileOff t + (h.place i (16 * b)).1) (pbBytes h.fmt) r.1, a.2 ||| r.2)) (m, 0)
  else
    xs.zipIdx.foldl (fun a x =>
      let r := if ty = h.fmt then (x.1, 0) else cvt x.1 ty h.fmt rm sat
      (a.1.put (tileOff t + (h.place i x.2).1) (mfSize h.fmt) r.1, a.2 ||| r.2)) (m, 0)

/-- load_convert of a raw tile element to an element type (07 R159). -/
def convIn (fmt raw i et rm : Nat) (sat : Bool) : Nat × FFlags :=
  if mfIsPb fmt then cvtV (pbDecode raw (pbK fmt) i) et rm sat
  else if fmt = et then (raw, 0)
  else cvt raw fmt et rm sat

/-! ## Tiles as the hoop instructions and the copies see them (08 R202; log 86)

The bytes that a completed copy wrote to a tile are observed by the hoop instructions or not until a FENCEP C, M or X, M; those that a
tile move, TZERO or HMOV wrote, by the copies, until a FENCEP M, C or M, X. -/

/-- Tile bytes that the hoop instructions do not observe yet, of the copies that a test selects. -/
def State.hiddenTiles (s : State) (sel : Unseen → Bool) : List Host.Cell :=
  ((s.st.eng.unseen.filter (fun u => u.cls == 4 && sel u)).flatMap Unseen.cells).filterMap (fun c =>
    if tileKey 0 ≤ c.1 then some (c.1 - tileKey 0, c.2) else none)

/-- The tile space with bytes as they stood; of two for one place the first. -/
def Mat.veiled (m : Mat) (cells : List Host.Cell) : Mat := { m with bytes := cells.foldr (fun c b => b.put c.1 c.2) m.bytes }

/-- What an instruction that saw the tiles veiled leaves of them: the bytes it did not write are as they stand. -/
def Mat.unveiled (m m' : Mat) (cells : List Host.Cell) (wrote : Nat → Bool) : Mat :=
  { m' with bytes := cells.foldl (fun b c => if wrote c.1 then b else b.put c.1 (m.bytes.get c.1)) m'.bytes }

/-- The tile space as the next tile move sees it. -/
def State.seenMat (s : State) : Mat := s.st.mat.veiled (s.hiddenTiles (fun _ => true))

/-- A write to tiles has replaced the bytes of an older state: the hoop instructions observe it, and the copies observe each line of it or
not, as the line stood before every write that they have not observed (R202). -/
def State.tileWrote (s : State) (serial : Nat) (old : Mat) (inside : Nat → Bool) : State :=
  let late := fun line => Config.lineLate s.tick line
  let wrote := fun line => (List.range 64).any (fun j => inside (64 * line + j))
  let cells := ((old.changed s.st.mat inside).filter (fun c => late (c.1 / 64))).map (fun c => (tileKey c.1, c.2))
  let e := s.st.eng.observe (fun u c =>
    let off := c.1 - tileKey 0
    decide (c.1 < tileKey 0) || (if u.cls == 4 then !inside off else late (off / 64) || !wrote (off / 64)))
  let reach := e.behind [4] serial
  let us := ([3, 6].filter (fun b => !reach.contains b)).map (fun b =>
    ({ cls := b, by_ := 4, serial := serial, cells := cells, reach := reach } : Unseen))
  s.setEng { e with unseen := e.unseen ++ us.filter (fun u => !u.cells.isEmpty) }

/-! ## Reads of memory by an engine -/

/-- A wait on the page at fva of n bytes, with that of the other page where it waits too (12 R303). -/
def State.withOther (s : State) (sup : Bool) (va n fva : Nat) (h : Halt) : Halt :=
  let n1 := min n (2 ^ 16 - va % 2 ^ 16)
  let va2 := (va + n1) % 2 ^ 64
  if n1 = n ∨ fva = va2 then h
  else match s.locate s.st va2 sup .read with
    | .notPresent => .both h (.page va2 .read)
    | .migrating => .both h (.migrating va2 .read)
    | _ => h

/-- n bytes at an address in a space, read for an engine with a source nibble as it sees memory, or what stops it. -/
def State.engineRead (s : State) (look : Nat → Byte) (sup : Bool) (src : Nat) (space : Nat) (a n : Nat) : Except Halt Nat :=
  let va := s.spaceVa (BitVec.ofNat 64 space) a n
  if !va.2 then .error (.fault 4 va.1)
  else
    match s.pfHold s.st.fe va.1 n src 0 with
    | some w => if w.gaveUp then .error (.fault 3 w.va.toNat) else .error (.page w.va.toNat .read)
    | none =>
    match s.locateN s.st va.1 n sup .read with
    | .keys ks =>
      (match s.poisonVa va.1 ks with
       | some pv => .error (.fault 7 pv)
       | none => .ok (leNat (ks.map look)))
    | .stop .notPresent fva _ => .error (s.withOther sup va.1 n fva (.page fva .read))
    | .stop .migrating fva _ => .error (s.withOther sup va.1 n fva (.migrating fva .read))
    | .stop (.fault k) fva _ => .error (.fault k fva)
    | .stop (.at _) fva _ => .error (.migrating fva .read)

/-- A run of elements packed from an address: element i's value (08 R193), or what stops it. -/
def State.runElem (s : State) (look : Nat → Byte) (sup : Bool) (src space fmt base i : Nat) : Except Halt FV :=
  let a := if mfIsPb fmt then base + i / 16 * pbBytes fmt else base + i * mfSize fmt
  match s.engineRead look sup src space (a % 2 ^ 64) (if mfIsPb fmt then pbBytes fmt else mfSize fmt) with
  | .ok raw => .ok (fvOf fmt raw (i % 16))
  | .error h => .error h

/-- Values of a list of reads, or the first that stops. -/
def collect {α β : Type} (f : α → Except Halt β) (l : List α) : Except Halt (List β) :=
  match l with
  | [] => .ok []
  | a :: t =>
    match f a with
    | .error h => .error h
    | .ok b =>
      match collect f t with
      | .error h => .error h
      | .ok bs => .ok (b :: bs)

/-! ## What a tile, hoop or sampling instruction comes to -/

/-- An instruction of the matrix engines performed, stopped on an imprecise fault, or waiting for memory. -/
inductive MatRes where
  | done (m : Mat)
  | fault (m : Mat) (kind va elem : Nat)
  | wait (h : Halt)

/-- A result with its state mapped. -/
def MatRes.map (r : MatRes) (g : Mat → Mat) : MatRes :=
  match r with
  | .done m => .done (g m)
  | .fault m k va e => .fault (g m) k va e
  | .wait h => .wait h

/-- What a halt makes of an instruction whose state so far is m. -/
def MatRes.ofHalt (m : Mat) (h : Halt) (elem : Nat) : MatRes :=
  match h with
  | .fault k va => .fault m k va elem
  | h => .wait h

end Sys2Proof.Machine
end

