-- ==== Sys2Proof/Machine/Hoop.lean ====
section
/-! DEFINITION. Machine/Hoop.lean: what the hoop instructions do when they are performed (08 R184 to R200; 03 R70 to R76). -/

namespace Sys2Proof.Machine

/-! ## Formats and buffers (08 Table 8.2, R187) -/

/-- Cell dot width d of a format. -/
def hoopD (fmt : Nat) : Nat :=
  match fmt with
  | 9 => 16 | 10 => 8 | 11 => 4 | 1 => 4 | 5 => 2 | 6 => 2 | _ => 1

/-- A format the array takes. -/
def hoopFmt (fmt : Nat) : Bool := [9, 10, 11, 1, 5, 6, 7].contains fmt

/-- Formats that may meet: both i8, or both floating-point. -/
def hoopPair (a w : Nat) : Bool := hoopFmt a && hoopFmt w && ((a == 1) == (w == 1))

/-- Latch indices of a cell row. -/
def Latch.e (b : Latch) : Nat := if b.kind = 0 then hoopD b.fmt else 2 * hoopD b.fmt

/-- The present weight of a latch index and column: one that a copy left unpredictable is free (12 R296). -/
def Latch.weight (b : Latch) (k j : Nat) : Option Word :=
  match b.w.find? (fun x => x.1 == k && x.2.1 == j), b.foreign with
  | some x, _ => some x.2.2
  | none, some n =>
    if 128 * b.e ≤ k ∨ b.loaded.any (fun r => decide (r.1 ≤ k) && decide (k < r.2)) then none else Config.latchForeign n k j
  | none, none => none

/-- The present weights of a column with their latch indices, rising; of free ones those that meet so many activations. -/
def Latch.column (b : Latch) (j len : Nat) : List (Nat × Word) :=
  match b.foreign with
  | none => (b.w.filter (fun x => x.2.1 == j)).map (fun x => (x.1, x.2.2))
  | some _ => (List.range len).filterMap (fun k => (b.weight k j).map (fun x => (k, x)))

/-- The active buffer. -/
def Mat.activeBuf (m : Mat) : Latch := if m.active then m.latch1 else m.latch0

/-- The shadow buffer. -/
def Mat.shadowBuf (m : Mat) : Latch := if m.active then m.latch0 else m.latch1

/-- The state with a buffer replaced. -/
def Mat.setBuf (m : Mat) (b : Nat) (l : Latch) : Mat := if b = 0 then { m with latch0 := l } else { m with latch1 := l }

/-- The state with another shadow buffer. -/
def Mat.setShadow (m : Mat) (b : Latch) : Mat := if m.active then { m with latch0 := b } else { m with latch1 := b }

/-- A weight as the buffer keeps it. -/
def keepWeight (fmt : Nat) (v : FV) : Word :=
  if fmt = 1 then wordOf (match v with | .fin n m _ => (if n then -(m : Int) else m) | _ => 0)
  else BitVec.ofNat 64 (packFp fp64 0 false v).1

/-- Inserts a weight in order of its latch index; a later one at the same place replaces it. -/
def insertWeight (w : List (Nat × Nat × Word)) (k j : Nat) (x : Word) : List (Nat × Nat × Word) :=
  let rest := w.filter (fun e => !(e.1 == k && e.2.1 == j))
  rest.filter (fun e => decide (e.1 ≤ k)) ++ (k, j, x) :: rest.filter (fun e => decide (k < e.1))

/-- The state with no poisoned word in the shadow buffer: the whole buffer is written (24 R426). -/
def Mat.cleanShadow (m : Mat) : Mat :=
  let lo := 0x400000 + (if m.active then 0 else 0x40000)
  { m with poison := m.poison.filter (fun p => decide (p.1 < lo) || decide (lo + 0x40000 ≤ p.1)) }

/-- Loads weights at an offset (08 R188, R199): the buffer is emptied where the rule says so, the range is made absent, and
the given weights (latch index before the offset, column, value) are latched, later ones winning. Where Kc is no multiple of N, an
entry beyond logical K is latched too while its cell row is one of the 128 (log 79). -/
def latchLoad (m : Mat) (fmt kind : Nat) (t : Bool) (n o kt : Nat) (ws : List (Nat × Nat × FV)) : Mat :=
  let sh := m.shadowBuf
  let fresh : Latch := { Latch.empty with fmt := fmt, kind := kind, t := t, n := n }
  let b := if o = 0 ∨ sh.fmt = 0 ∨ sh.fmt ≠ fmt ∨ sh.t ≠ t ∨ sh.n ≠ n ∨ sh.kind ≠ kind then fresh else sh
  let e := b.e
  let lo := o * e
  let hi := (o + ceilDiv kt e) * e
  let kept := b.w.filter (fun x => decide (x.1 < lo) || decide (hi ≤ x.1))
  let m := if b = fresh then m.cleanShadow else m
  m.setShadow { b with loaded := (if b.foreign.isSome then (lo, hi) :: b.loaded else []), w := (ws.filter (fun x => decide (lo + x.1 < 128 * e))).foldl (fun w x => insertWeight w (lo + x.1) x.2.1 (keepWeight fmt x.2.2)) kept }

/-- HLOAD (08 R188). -/
def doHload (m : Mat) (tile : Nat) (h : Shape) (t : Bool) (o : Nat) : Mat :=
  let kt := if t then h.cols else h.rows
  let n := if t then h.rows else h.cols
  latchLoad m h.fmt 0 t n o kt ((List.range kt).flatMap (fun k => (List.range n).map (fun j =>
    (k, j, if t then m.elem tile h j k else m.elem tile h k j))))

/-- HLOADS (08 R199): kinds 2:4, 4:8 and transposable 2:4. -/
def doHloads (m : Mat) (tile : Nat) (h hm : Shape) (t : Bool) (o kind : Nat) : Mat :=
  let meta_ := fun i j => m.raw (tile + 1) hm i j
  if kind < 2 then
    let nn := if kind = 0 then 2 else 4
    let mm := if kind = 0 then 4 else 8
    latchLoad m h.fmt (kind + 1) t h.rows o (2 * h.cols)
      ((List.range h.rows).flatMap (fun j => (List.range h.cols).map (fun c =>
        (mm * (c / nn) + meta_ j c % mm, j, m.elem tile h j c))))
  else
    let k := h.rows
    let n := 2 * h.cols
    let ws := (List.range k).flatMap (fun r => (List.range n).filterMap (fun j =>
      let p := meta_ (r / 4) (j / 4)
      if p < 90 then
        let pr := pairOf ((patterns.getD p []).getD (r % 4) 0)
        if j % 4 = pr.1 then some (r, j, m.elem tile h r (2 * (j / 4)))
        else if j % 4 = pr.2 then some (r, j, m.elem tile h r (2 * (j / 4) + 1))
        else none
      else none))
    if t then latchLoad m h.fmt 3 true k o n (ws.map (fun x => (x.2.1, x.1, x.2.2)))
    else latchLoad m h.fmt 3 false n o k ws

/-! ## Products (03 R70 to R73; 08 R191 to R193) -/

/-- cell_sum (08 R192): integers modulo 2^32, or one RNE rounding of the exact sum to fp32. -/
def cellSum (isInt : Bool) (part : Nat) (terms : List (FV × FV)) : Nat :=
  if isInt then
    wrap 32 (terms.foldl (fun a t =>
      match t with
      | (.fin n m _, .fin n' m' _) => a + (if n = n' then ((m * m' : Nat) : Int) else -((m * m' : Nat) : Int))
      | _ => a) (part : Int))
  else
    (packFp fp32 0 false (terms.foldl (fun a t => (fvAdd 0 a (fvMul t.1 t.2).1).1) (unpack fp32 part))).1

/-- A kept weight as a value. -/
def weightValue (fmt : Nat) (w : Word) : FV := if fmt = 1 then fvInt w.toInt 0 false else unpack fp64 w.toNat

/-- The chain of one accumulator word down the cell rows: a row of activations meets the present weights of a column. -/
def chain (b : Latch) (col : List (Nat × Word)) (part : Nat) (a : List FV) : Nat :=
  let ents := col.filter (fun x => decide (x.1 < a.length))
  ((ents.map (fun x => x.1 / b.e)).eraseDups).foldl (fun part row =>
    cellSum (b.fmt == 1) part ((ents.filter (fun x => x.1 / b.e == row)).map (fun x =>
      (a.getD x.1 (.fin false 0 0), weightValue b.fmt x.2)))) part

/-- hoop_product (08 R192) for row p: every column of the buffer. -/
def productRow (g acc p : Nat) (b : Latch) (a : List FV) (m : Mat) : Mat :=
  (List.range b.n).foldl (fun m j =>
    let col := b.column j a.length
    if col.any (fun x => decide (x.1 < a.length)) then
      let off := accOff g acc p j
      m.put off 4 (chain b col (m.get off 4) a)
    else m) m

/-- Whether a latch buffer's image holds a poisoned word. -/
def Mat.latchBad (m : Mat) (which g : Nat) : Bool := m.bad (0x400000 + 0x40000 * which) (65536 * g)

/-- HMUL and HMULP (08 R191 to R193): rows in ascending order; a row that stops leaves the rows below it done (23 R408). -/
def productRows (g acc : Nat) (b : Latch) (which : Nat) (row : Nat → Except Halt (List FV)) (ps : List Nat) (m : Mat) : MatRes :=
  match ps with
  | [] => .done m
  | p :: t =>
    match row p with
    | .error h => MatRes.ofHalt m h p
    | .ok a =>
      if m.latchBad which g ∨ m.bad (accOff g acc p 0) (4 * b.n) then .fault m 7 0 p
      else productRows g acc b which row t (productRow g acc p b a m)

/-- A row of activations from a tile, poison stopping it. -/
def Mat.tileRow (m : Mat) (tile : Nat) (h : Shape) (t : Bool) (p : Nat) : Except Halt (List FV) :=
  let ka := if t then h.rows else h.cols
  let at_ := fun k => if t then (k, p) else (p, k)
  if (List.range ka).any (fun k => m.elemBad tile h (at_ k).1 (at_ k).2) then .error (.fault 7 0)
  else .ok ((List.range ka).map (fun k => m.elem tile h (at_ k).1 (at_ k).2))

/-- Fields of HMULP's shape word (08 Table 8.4). -/
structure PShape where
  p : Nat
  k : Nat
  fmt : Nat
  space : Nat
  pitch : Nat
  deriving DecidableEq, Repr

/-- The fields of a shape word. -/
def pshapeOf (w : Word) : PShape :=
  { p := fieldOf w 0 8, k := fieldOf w 8 13, fmt := fieldOf w 21 4, space := fieldOf w 25 2, pitch := fieldOf w 32 32 }

/-- A row of activations from memory (08 R193). -/
def State.memRow (s : State) (look : Nat → Byte) (sup : Bool) (base : Nat) (h : PShape) (t : Bool) (p : Nat) : Except Halt (List FV) :=
  collect (fun k => if t then s.runElem look sup 8 h.space h.fmt (base + k * h.pitch) p
                    else s.runElem look sup 8 h.space h.fmt (base + p * h.pitch) k) (List.range h.k)

/-! ## Accumulators (08 R194, R195) -/

/-- Every word of an accumulator mapped as an fp32 value. -/
def Mat.mapAcc (m : Mat) (g acc : Nat) (f : Nat → Nat) : Mat :=
  (List.range 128).foldl (fun m p => (List.range (64 * g)).foldl (fun m j =>
    m.put (accOff g acc p j) 4 (f (m.get (accOff g acc p j) 4))) m) m

/-- HACC (08 R194). -/
def doHacc (m : Mat) (g acc : Nat) (scale : Option Nat) : MatRes :=
  match scale with
  | none => .done (m.zero (accOff g acc 0 0) (32768 * g))
  | some k =>
    if m.bad (accOff g acc 0 0) (32768 * g) then .fault m 7 0 0
    else .done (m.mapAcc g acc (fun a => (fMul fp32 0 (unpack fp32 a) (unpack fp32 (k % 2 ^ 32))).1))

/-- Whether HMOV reads the words of a tile format as INT32. -/
def movInt (fmt : Nat) : Bool := !etFloat fmt && !mfIsPb fmt

/-- HMOV (08 R195): an fp64 tile takes the patterns, every other format a conversion, so that a NaN word arrives canonical
(03 R59). -/
def doHmov (m : Mat) (g acc tile : Nat) (h : Shape) (rm : Nat) (sat : Bool) : MatRes :=
  let wide := h.fmt == 8
  if (List.range h.rows).any (fun p => decide (0 < h.cols) && m.bad (accOff g acc p 0) (if wide then 8 * h.cols else 4 * h.cols)) then
    .fault m 7 0 0
  else
    .done ((List.range h.rows).foldl (fun m p =>
      let xs := (List.range h.cols).map (fun j =>
        if wide then m.get (accOff g acc p (2 * j)) 8 else m.get (accOff g acc p j) 4)
      (m.putRow tile h p (if wide then 8 else if movInt h.fmt then 3 else 7) rm sat
        (if h.fmt = 7 then xs.map (fun x => (cvtElem x 7 7 rm sat).1) else xs)).1) m)

/-! ## HMULF (08 R200; 03 R75) -/

/-- floor_log2 of a finite non-zero value. -/
def sliceExp (xs : List FV) : Int :=
  let es := xs.filterMap (fun v => match v with | .fin _ m _ => (if m = 0 then none else some (fvTop v)) | _ => none)
  match es with
  | [] => 0
  | e :: t => t.foldl max e

/-- fp64_slices: signed slices of each element, and the alignment exponent. -/
def slices (xs : List FV) (n : Nat) : List (List Int) × Int :=
  let e := sliceExp xs
  (xs.map (fun v =>
    match v with
    | .fin neg m x =>
      let sh := x + 7 * n - 1 - e
      let a := if 0 ≤ sh then m * 2 ^ sh.toNat else m / 2 ^ (-sh).toNat
      (List.range n).map (fun t => let c := a / 2 ^ (7 * (n - 1 - t)) % 128; if neg then -(c : Int) else c)
    | _ => List.replicate n 0), e)

/-- The slice products of one pair of elements, in units of 2^(−7(2S)). -/
def slicePair (n : Nat) (full : Bool) (a b : List Int) : Int :=
  (a.zipIdx).foldl (fun acc x => (b.zipIdx).foldl (fun acc y =>
    if full ∨ x.2 + y.2 + 1 ≤ n then acc + x.1 * y.1 * 2 ^ (7 * (2 * n - 2 - x.2 - y.2)) else acc) acc) 0

/-- One dot product of R75. -/
def sliceDot (n : Nat) (full : Bool) (rm : Nat) (a b : List FV) : Nat :=
  if (a ++ b).any (fun v => !v.isFin) then fp64.nan
  else
    let sa := slices a n
    let sb := slices b n
    let d := (sa.1.zip sb.1).foldl (fun acc p => acc + slicePair n full p.1 p.2) 0
    if d = 0 then 0 else (packFp fp64 rm false (fvInt d (sa.2 + sb.2 + 2 - 14 * n) false)).1

/-- HMULF (08 R200). -/
def doHmulf (m : Mat) (g acc ta tb : Nat) (ha hb : Shape) (n : Nat) (full : Bool) (rm : Nat) : MatRes :=
  let rows := (List.range ha.rows).map (fun p => (List.range ha.cols).map (fun k => m.elem ta ha p k))
  let cols := (List.range hb.cols).map (fun q => (List.range hb.rows).map (fun k => m.elem tb hb k q))
  if (List.range ha.rows).any (fun p => (List.range ha.cols).any (fun k => m.elemBad ta ha p k)) ∨
      (List.range hb.rows).any (fun k => (List.range hb.cols).any (fun q => m.elemBad tb hb k q)) then .fault m 7 0 0
  else
    .done (rows.zipIdx.foldl (fun m r => cols.zipIdx.foldl (fun m c =>
      m.put (accOff g acc r.2 (2 * c.2)) 8 (sliceDot n full rm r.1 c.1)) m) m)

end Sys2Proof.Machine
end

