-- ==== Sys2Proof/Machine/Sample.lean ====
section
/-! DEFINITION. Machine/Sample.lean: what the sampling instructions do when they are performed (09 R211 to R223). -/

namespace Sys2Proof.Machine

/-! ## MNORM (09 R212) -/

/-- Fields of MNORM's chunk word (09 Table 9.4). -/
structure Chunk where
  row0 : Nat
  rows : Nat
  cols : Nat
  fmt : Nat
  space : Nat
  pitch : Nat
  deriving DecidableEq, Repr

/-- The fields of a chunk word. -/
def chunkOf (w : Word) : Chunk :=
  { row0 := fieldOf w 0 15, rows := fieldOf w 15 10, cols := fieldOf w 25 9, fmt := fieldOf w 34 4, space := fieldOf w 38 2,
    pitch := fieldOf w 40 24 }

/-- A row of elements of memory, packed from its start. -/
def State.rowOf (s : State) (look : Nat → Byte) (sup : Bool) (space fmt base n : Nat) : Except Halt (List FV) :=
  collect (s.runElem look sup 9 space fmt base) (List.range n)

/-- Rows of a chunk, in order: a row that stops leaves the rows before it done (23 R408). -/
def normRows (s : State) (look : Nat → Byte) (sup : Bool) (r addr : Nat) (c : Chunk) (ts : List Nat) (m : Mat) : MatRes :=
  match ts with
  | [] => .done (m.put (0x100000 + 2 * r) 2 (max (m.nlen r) (c.row0 + c.rows)))
  | t :: rest =>
    let j := c.row0 + t
    match s.rowOf look sup c.space c.fmt (addr + t * c.pitch) c.cols with
    | .error h => MatRes.ofHalt m h j
    | .ok xs =>
      if m.bad (nmOff r j) 4 then .fault m 7 0 j
      else
        let sq := xs.foldl (fun a x => (fvAdd 0 a (fvMul x x).1).1) (.fin false 0 0)
        let v := (packFp fp32 0 false (fvAdd 0 (unpack fp32 (m.get (nmOff r j) 4)) sq).1).1
        normRows s look sup r addr c rest (m.put (nmOff r j) 4 v)

/-- MNORM: with no rows or no columns no entry changes, and nlen takes the maximum. A poisoned nlen stops it at the chunk's first row, before
any row (log 90, the model's choice). -/
def doMnorm (s : State) (look : Nat → Byte) (sup : Bool) (r addr : Nat) (cw : Word) (m : Mat) : MatRes :=
  let c := chunkOf cw
  if m.nlenBad r then .fault m 7 0 c.row0
  else normRows s look sup r addr c (if c.cols = 0 then [] else List.range c.rows) m

/-- MNRMZ (09 R211). -/
def doMnrmz (m : Mat) : Mat := (m.zero 0x40000 0x80000).zero 0x100000 8

/-! ## MATAB (09 R213 to R215) -/

/-- w[j]: the rounded square root of the exact product of two norms, as an fp64 pattern. -/
def massRoot (a b : Nat) : Nat := (fSqrt fp64 0 (fvMul (unpack fp32 a) (unpack fp32 b)).1).1

/-- A finite fp64 pattern in units of the least subnormal. -/
def fp64Units (x : Nat) : Nat :=
  match unpack fp64 x with
  | .fin _ m e => m * 2 ^ (e + 1074).toNat
  | _ => 0

/-- Places an index and its remainder in a list ordered by falling remainder; a lower index stands first among equals. -/
def rankInsert (x : Nat × Nat) (l : List (Nat × Nat)) : List (Nat × Nat) :=
  match l with
  | [] => [x]
  | y :: t => if y.1 ≤ x.1 then x :: y :: t else y :: rankInsert x t

/-- Indices of a list of remainders, largest first, a lower index first among equals. -/
def rankDown (f : List Nat) : List Nat := (f.zipIdx.foldr rankInsert []).map Prod.snd

/-- matab_masses: T = k · 2^16 shared out by the weights, remainders to the largest fractions. -/
def masses (ws : List Nat) : List Nat :=
  let k := ws.length
  let t := k * 2 ^ 16
  let total := ws.foldl (· + ·) 0
  if total = 0 then ws.map (fun _ => 2 ^ 16)
  else
    let q := ws.map (fun w => t * w / total)
    let left := t - q.foldl (· + ·) 0
    let top := (rankDown (ws.map (fun w => t * w % total))).take left
    q.zipIdx.map (fun x => if top.contains x.2 then x.1 + 1 else x.1)

/-- vose: thresholds and aliases; fuel bounds the number of steps. -/
def vose (fuel : Nat) (small large : List Nat) (mass : List Nat) (out : List (Nat × Nat × Nat)) : List (Nat × Nat × Nat) :=
  match fuel, small, large with
  | k + 1, l :: ss, g :: ls =>
    let ml := mass.getD l 0
    let mg := mass.getD g 0 - (2 ^ 16 - ml)
    let mass' := mass.set g mg
    if mg < 2 ^ 16 then vose k (ss ++ [g]) ls mass' ((l, ml, g) :: out)
    else vose k ss (g :: ls) mass' ((l, ml, g) :: out)
  | _, ss, ls => out ++ (ls ++ ss).map (fun j => (j, 0xFFFF, j))

/-- MATAB (09 R213 to R215): an infinite or NaN weight builds nothing, sets tk to 0 and faults. So does poison among its norms or in nlen, for
which no rule names an element: selem is 0 (log 90, the model's choice). -/
def doMatab (m : Mat) (ra rb : Nat) : MatRes :=
  let k := m.nlen ra
  if m.nlenBad ra ∨ m.nlenBad rb ∨ m.bad (nmOff ra 0) (4 * k) ∨ m.bad (nmOff rb 0) (4 * k) then .fault (m.put 0x100008 8 0) 7 0 0
  else
    let w := (List.range k).map (fun j => massRoot (m.get (nmOff ra j) 4) (m.get (nmOff rb j) 4))
    match (List.range k).find? (fun j => !(unpack fp64 (w.getD j 0)).isFin) with
    | some j => .fault (m.put 0x100008 8 0) 1 0 j
    | none =>
      let q := masses (w.map fp64Units)
      let ix := List.range k
      let tab := vose (2 * k) (ix.filter (fun j => decide (q.getD j 0 < 2 ^ 16))) (ix.filter (fun j => decide (2 ^ 16 ≤ q.getD j 0))) q []
      let m := (m.zero 0xC0000 0x40000).put 0x100008 8 k
      .done (tab.foldl (fun m e =>
        let qj := q.getD e.1 0
        let recip := if qj = 0 then 0 else (fDiv fp32 0 (fvInt (k * 2 ^ 16 : Nat) 0 false) (fvInt qj 0 false)).1
        m.put (tabOff e.1) 8 (recip * 2 ^ 32 + e.2.2 * 2 ^ 16 + e.2.1)) m)

/-! ## MSAMP (09 R216 to R222) -/

/-- Fields of a sampling descriptor (09 Table 9.6). -/
structure Desc where
  abase : Nat
  bbase : Nat
  apitch : Nat
  bpitch : Nat
  m : Nat
  n : Nat
  afmt : Nat
  bfmt : Nat
  space : Nat
  rsvd : Bool
  deriving DecidableEq, Repr

/-- The fields of a descriptor's 32 bytes. -/
def descOf (bs : List Byte) : Desc :=
  let v := fun a n => leNat ((bs.drop a).take n)
  let w := v 24 8
  { abase := v 0 8, bbase := v 8 8, apitch := v 16 4, bpitch := v 20 4, m := w % 2 ^ 8, n := w / 2 ^ 8 % 2 ^ 9,
    afmt := w / 2 ^ 17 % 2 ^ 4, bfmt := w / 2 ^ 21 % 2 ^ 4, space := w / 2 ^ 25 % 4, rsvd := w / 2 ^ 27 != 0 }

/-- The formats of MNORM and of a descriptor. -/
def sampFmt (f : Nat) : Bool := [5, 6, 7, 9, 10, 11].contains f

/-- A legal descriptor (09 R227). -/
def Desc.legal (d : Desc) (g : Nat) : Bool :=
  !d.rsvd && d.space != 3 && sampFmt d.afmt && sampFmt d.bfmt && decide (1 ≤ d.m) && decide (d.m ≤ 128) &&
    decide (1 ≤ d.n) && decide (d.n ≤ 64 * g)

/-- A base or pitch that is no multiple of the element size of a non-PB format. -/
def misplaced (fmt base pitch : Nat) : Bool := !mfIsPb fmt && (base % mfSize fmt != 0 || pitch % mfSize fmt != 0)

/-- The generator words of sample s. -/
def drawWords (key base : Word) (s : Nat) : Nat × Nat × Nat × Nat :=
  let t := (base.toNat + s) % 2 ^ 64
  philox (t % 2 ^ 32, t / 2 ^ 32, 0, 0) (key.toNat % 2 ^ 32) (key.toNat / 2 ^ 32)

/-- The sign of probe element i of the vector that counter word 2 names (R220). -/
def probeNeg (key : Word) (i which : Nat) : Bool :=
  (philox (i, 0, which, 0) (key.toNat % 2 ^ 32) (key.toNat / 2 ^ 32)).1 % 2 == 1

/-- Exact sum of elements with probe signs, rounded to fp64. -/
def probeSum (key : Word) (which : Nat) (xs : List FV) : Nat :=
  (packFp fp64 0 false (xs.zipIdx.foldl (fun a x =>
    (fvAdd 0 a (if probeNeg key x.2 which then x.1.negate else x.1)).1) (.fin false 0 0))).1

/-- One sample: its weight, its row of Aᵀ and its row of B. -/
structure Draw where
  w : FV
  a : List FV
  b : List FV

/-- The probe statistics. -/
structure Stats where
  count : Nat
  mean : Nat
  var : Nat
  deriving DecidableEq, Repr

/-- One Welford step (R221), in fp64 under RNE. -/
def Stats.step (t : Stats) (y : Nat) : Stats :=
  let u := unpack fp64
  let nn := t.count + 1
  let d1 := (fAdd fp64 0 (u y) (u t.mean).negate).1
  let mean := (fAdd fp64 0 (u t.mean) (u (fDiv fp64 0 (u d1) (fvInt nn 0 false)).1)).1
  let d2 := (fAdd fp64 0 (u y) (u mean).negate).1
  let var := (fAdd fp64 0 (u t.var) (u (fMul fp64 0 (u d1) (u d2)).1)).1
  { count := nn, mean := mean, var := var }

/-- The stop test (R222), on exact reals. Where a statistic or stau is infinite the rule, which names NaN alone, leaves the test open: an
infinity is at most itself, and an infinity times zero is no number and stops nothing (log 89). -/
def Stats.stops (t : Stats) (smin tau : Word) (rel : Bool) : Bool :=
  let u := unpack fp64
  let cnt := fvInt ((t.count * (t.count - 1) : Nat) : Int) 0 false
  let lim := (fvMul (u tau.toNat) cnt).1
  let lim := if rel then (fvMul lim (fvMul (u t.mean) (u t.mean)).1).1 else lim
  t.count % 32 == 0 && decide (smin.toNat % 2 ^ 32 ≤ t.count) && !(u t.mean).isNan && !(u tau.toNat).isNan &&
    fvLe (u t.var) lim

/-- Adds a group of samples to the accumulator (R219): every word rounded once. -/
def addGroup (g acc : Nat) (d : Desc) (ds : List Draw) (m : Mat) : Mat :=
  if ds.isEmpty then m
  else
    (List.range d.m).foldl (fun m p => (List.range d.n).foldl (fun m q =>
      let sum := ds.foldl (fun a x =>
        (fvAdd 0 a (fvMul (fvMul x.w (x.a.getD p (.fin false 0 0))).1 (x.b.getD q (.fin false 0 0))).1).1)
        (unpack fp32 (m.get (accOff g acc p q) 4))
      m.put (accOff g acc p q) 4 (packFp fp32 0 false sum).1) m) m

/-- The tile-space state with the statistics of a run. -/
def Mat.setStats (m : Mat) (t : Stats) : Mat :=
  { m with scount := BitVec.ofNat 64 t.count, smean := BitVec.ofNat 64 t.mean, svar := BitVec.ofNat 64 t.var }

/-- What a run captured: key, counter base, stop parameters. -/
structure SampPar where
  key : Word
  base : Word
  smin : Word
  tau : Word
  rel : Bool
  deriving DecidableEq, Repr

/-- Samples from number t.count on, at most fuel of them; the group under way stands in order. A stopped sample leaves the
groups before its own added and the statistics of the samples before it (23 R408). A draw reads the threshold and alias of the entry it
hits and the reciprocal of the one it takes, 32-bit words each (09 Table 9.5; 24 Table 24.2). Where both its rows fault, the row of Aᵀ is
reported, and a poisoned word of the accumulator's area is met by the first sample, after its rows (log 90). look is memory as each
sample's readings see it (09 R225). -/
def sampleRun (s : State) (look : Nat → Nat → Byte) (sup : Bool) (g acc : Nat) (d : Desc) (c : SampPar) (fuel : Nat) (t : Stats) (grp : List Draw)
    (m : Mat) : MatRes × Nat :=
  match fuel with
  | 0 => (.done ((addGroup g acc d grp m).setStats t), t.count)
  | k + 1 =>
    let n := t.count
    let u := drawWords c.key c.base n
    let tk := m.tk
    let j := u.1 * tk / 2 ^ 32
    let e := m.get (tabOff j) 8
    let jj := if u.2.1 % 2 ^ 16 < e % 2 ^ 16 then j else e / 2 ^ 16 % 2 ^ 16
    let stop := fun (h : Halt) =>
      match h with
      | .fault kind va => ((MatRes.fault (m.setStats t) kind va n : MatRes), n)
      | h => (.wait h, n)
    if m.bad 0x100008 8 ∨ m.bad (tabOff j) 4 then stop (.fault 7 0)
    else if tk ≤ jj then stop (.fault 1 0)
    else if m.bad (tabOff jj + 4) 4 then stop (.fault 7 0)
    else
      match s.rowOf (look n) sup d.space d.afmt (d.abase + jj * d.apitch) d.m, s.rowOf (look n) sup d.space d.bfmt (d.bbase + jj * d.bpitch) d.n with
      | .error h, _ => stop h
      | _, .error h => stop h
      | .ok a, .ok b =>
        if (List.range d.m).any (fun p => m.bad (accOff g acc p 0) (4 * d.n)) then stop (.fault 7 0)
        else
        let w := unpack fp32 (m.get (tabOff jj) 8 / 2 ^ 32)
        let x : Draw := { w := w, a := a, b := b }
        let al := unpack fp64 (probeSum c.key 1 a)
        let be := unpack fp64 (probeSum c.key 2 b)
        let y := (packFp fp64 0 false (fvMul (fvMul w al).1 be).1).1
        let t' := t.step y
        let grp' := grp ++ [x]
        let full := t'.count % 4 == 0
        let m' := if full then addGroup g acc d grp' m else m
        let grp'' := if full then [] else grp'
        if k ≠ 0 ∧ t'.stops c.smin c.tau c.rel then (.done ((addGroup g acc d grp'' m').setStats t'), t'.count)
        else sampleRun s look sup g acc d c k t' grp'' m'

/-! ## MSCALE (09 R223) -/

/-- MSCALE on one word. -/
def scaleWord (sc a : Nat) : Nat := (fDiv fp32 0 (unpack fp32 a) (fvInt sc 0 false)).1

end Sys2Proof.Machine
end

