-- ==== Sys2Proof/Machine/Mat.lean ====
section
/-! DEFINITION. Machine/Mat.lean: the engine of the hoop array and the sampling unit: the instructions issued and not yet
performed, in program order (08 R201, R204; 09 R224), and how they are performed, stopped and waited for (23 R408). -/

namespace Sys2Proof.Machine

/-! ## Performing one instruction -/

/-- Accumulator number and .T of an rd field (08 Table 8.5). -/
def accT (r : BitVec 5) : Nat × Bool := (r.toNat % 4, r.getLsbD 2)

/-- Whether a poisoned word lies in the shape of a tile. -/
def Mat.tileBad (m : Mat) (t : Nat) (h : Shape) : Bool := m.bad (tileOff t) (h.rows * h.pitch)

/-- Whether an instruction comes behind the follow-on of the copy with a serial number, or is it: it observes all the copy wrote (08
R202; 13 Table 13.3 note 5). -/
def MatOp.follows (o : MatOp) (q : List MatOp) (copy : Nat) : Bool :=
  o.after == some copy || q.any (fun p => p.after == some copy && decide (p.serial ≤ o.serial))

/-- A byte of memory as an instruction reads it now: a completed copy's bytes are observed or not until a fence (11 R262), but by what
follows on that copy always. -/
def MatOp.byte (o : MatOp) (s : State) (k : Nat) : Byte :=
  match s.st.eng.unseen.findSome? (fun u => if u.cls = 4 ∧ !o.follows s.st.mat.queue u.serial then u.cells.find? (fun c => c.1 == k) else none) with
  | some c => c.2
  | none => s.mem.get k

/-- Memory as a reading of an instruction sees it: a line read before is as it stood then (08 R203, 09 R225). The rows that one sample of
an MSAMP or one MNORM reads of a line are seen at one moment, where the spec lets each read of a line have its own (log 11). -/
def MatOp.look (o : MatOp) (s : State) (reading k : Nat) : Byte :=
  match o.seen.find? (fun l => l.1 == reading && l.2.1 == k / 64) with
  | some l => l.2.2.getD (k % 64) 0
  | none => o.byte s k

/-- The state with the latch buffers of a held pair. -/
def HeldLatch.on (h : HeldLatch) (m : Mat) : Mat := { m with latch0 := h.latch0, latch1 := h.latch1, active := h.active }

/-- The state with the latch buffers that an instruction uses: those that stood at its issue (08 R190). -/
def Mat.atIssue (m : Mat) (serial : Nat) : Mat :=
  match m.held.find? (fun h => h.ops.contains serial) with
  | some h => h.on m
  | none => m

/-- A change of the latch buffers, made to the held ones too: what uses those comes later in the queue. -/
def Mat.onLatches (m : Mat) (g : Mat → Mat) : Mat :=
  { g m with held := m.held.map (fun h =>
      let r := g (h.on m)
      { h with latch0 := r.latch0, latch1 := r.latch1, active := r.active }) }

/-- A load of the shadow buffer: its empty-or-keep test and the rows it keeps are those of the buffers at its issue (08 R188, R190); the
buffer takes its result, in the held pairs too. -/
def Mat.latched (m : Mat) (serial : Nat) (g : Mat → Mat) : Mat :=
  let b := m.atIssue serial
  let r := g b
  { m.onLatches (fun m => m.setBuf (if b.active then 0 else 1) r.shadowBuf) with poison := r.poison }

/-- The state once an instruction has left the queue. -/
def Mat.release (m : Mat) (serial : Nat) : Mat :=
  { m with held := (m.held.map (fun h => { h with ops := h.ops.erase serial })).filter (fun h => !h.ops.isEmpty) }

/-- Bytes of the tiles that an instruction writes (08 R184, R195). -/
def MatOp.writesTile (o : MatOp) (off : Nat) : Bool :=
  match o.i with
  | .tzero f => decide (tileOff f.rd.toNat ≤ off) && decide (off < tileOff f.rd.toNat + 32768)
  | .hmov f =>
    let h := shapeOf (o.tcfg.toList.getD f.rd.toNat 0)
    let d := off - tileOff f.rd.toNat
    decide (tileOff f.rd.toNat ≤ off) && decide (d / max 1 h.pitch < h.rows) && decide (d % max 1 h.pitch < h.rowBytes)
  | _ => false

/-- Whether an instruction of the queue writes a tile. -/
def MatOp.toTile (o : MatOp) : Bool :=
  match o.i with
  | .tzero _ | .hmov _ => true
  | _ => false

/-- What an instruction of the two engines does to their state, and the count an MSAMP returns. MSCALE reads its accumulator under S = 0 too
(log 90, the model's choice). -/
def State.matDo (s : State) (o : MatOp) (m : Mat) : MatRes × Nat :=
  let g := s.st.br.g
  let h := fun t : Nat => shapeOf (o.tcfg.toList.getD t 0)
  match o.i with
  | .tzero f => (.done (m.zero (tileOff f.rd.toNat) 32768), 0)
  | .hload f =>
    let t := f.rs1.toNat
    if m.tileBad t (h t) then (.fault m 7 0 0, 0) else (.done (m.latched o.serial (fun m => doHload m t (h t) (f.rd = 1) (fieldOf o.x2 0 7))), 0)
  | .hloads f =>
    let t := f.rs1.toNat
    if m.tileBad t (h t) ∨ m.tileBad (t + 1) (h (t + 1)) then (.fault m 7 0 0, 0)
    else (.done (m.latched o.serial (fun m => doHloads m t (h t) (h (t + 1)) (f.rd = 1) (fieldOf o.x2 0 7) (fieldOf o.x2 8 2))), 0)
  | .hswap _ => (.done (m.onLatches (fun m => { m with active := !m.active })), 0)
  | .hmul f =>
    let a := accT f.rd
    let t := f.rs1.toNat
    let p := if a.2 then (h t).cols else (h t).rows
    let b := m.atIssue o.serial
    (productRows g a.1 b.activeBuf (if b.active then 1 else 0) (m.tileRow t (h t) a.2) (List.range p) m, 0)
  | .hmulp f =>
    let a := accT f.rd
    let c := pshapeOf o.x2
    let b := m.atIssue o.serial
    (productRows g a.1 b.activeBuf (if b.active then 1 else 0) (s.memRow (o.look s 0) o.sup o.x1.toNat c a.2)
      (if c.k = 0 then [] else List.range c.p) m, 0)
  | .hmulf f =>
    let a := f.rs1.toNat
    let b := f.rs2.toNat
    (doHmulf m g (f.rd.toNat % 4) a b (h a) (h b) (vtSl o.vtype + 1) (o.smode.getLsbD 1) (vtRm o.vtype), 0)
  | .hacc f => (doHacc m g (f.rd.toNat % 4) (if f.rs2 = 0 then none else some o.x1.toNat), 0)
  | .hmov f =>
    let t := f.rd.toNat
    (doHmov m g (f.rs1.toNat % 4) t (h t) (if vtVill o.vtype then 0 else vtRm o.vtype) (!vtVill o.vtype && vtSat o.vtype), 0)
  | .mnrmz _ => (.done (doMnrmz m), 0)
  | .mnorm f => (doMnorm s (o.look s 0) o.sup (f.rd.toNat % 4) o.x1.toNat o.x2 m, 0)
  | .matab f => (doMatab m (f.rs1.toNat % 4) (f.rs2.toNat % 4), 0)
  | .msamp _ =>
    let c : SampPar := { key := o.skey, base := o.sbase, smin := o.smin, tau := o.stau, rel := o.smode.getLsbD 0 }
    let t : Stats := { count := 0, mean := 0, var := 0 }
    sampleRun s (o.look s) o.sup g (fieldOf o.x2 0 2) (descOf o.desc) c o.x1.toNat t [] (m.setStats t)
  | .mscale f =>
    let a := f.rd.toNat % 4
    if m.bad (accOff g a 0 0) (32768 * g) then (.fault m 7 0 0, 0)
    else if o.x1 = 0 then (.done m, 0)
    else (.done (m.mapAcc g a (scaleWord o.x1.toNat)), 0)
  | _ => (.done m, 0)

/-- What an instruction does to the engines' state with the tiles as it observes them (08 R202). -/
def State.matRun (s : State) (o : MatOp) (m : Mat) : MatRes × Nat :=
  let hid := s.hiddenTiles (fun u => !o.follows s.st.mat.queue u.serial)
  if hid.isEmpty then s.matDo o m
  else
    let r := s.matDo o (m.veiled hid)
    match r.1 with
    | .done m' => (.done (m.unveiled m' hid o.writesTile), r.2)
    | x => (x.map (fun m' => m.unveiled m' hid (fun _ => false)), r.2)

/-- Whether an instruction belongs to the sampling unit: its faults carry source nibble 9. -/
def MatOp.isSamp (o : MatOp) : Bool :=
  match o.i with
  | .mnrmz _ | .mnorm _ | .matab _ | .msamp _ | .mscale _ => true
  | _ => false

/-- Whether an instruction is MSAMP. -/
def MatOp.isMsamp (o : MatOp) : Bool :=
  match o.i with
  | .msamp _ => true
  | _ => false

/-- The source nibble of an instruction's faults. -/
def MatOp.src (o : MatOp) : Nat := if o.isSamp then 9 else 8

/-- The state of the engines as the checks of a later instruction find it: every instruction issued before it is performed
(08 R206, 05 R126). An earlier follow-on whose copy has not landed is reflected with the tiles as they stand, since the query does not
wait (log 87). -/
def State.matView (s : State) : Mat :=
  s.st.mat.queue.foldl (fun m o =>
    match (s.matRun o m).1 with
    | .done m' => m'
    | .fault m' _ _ _ => m'
    | .wait _ => m) s.st.mat

/-! ## The head of the queue -/

/-- What the instruction at the head of the queue comes to. -/
inductive MatTurn where
  | idle
  /-- A follow-on whose copy has not landed (08 R202), or an instruction behind a fence. -/
  | held
  | done (m : Mat)
  | fault (m : Mat) (kind va elem : Nat)
  | wait (h : Halt)

/-- Whether a copy with a serial number is in flight. -/
def Eng.flying (e : Eng) (serial : Nat) : Bool := e.copies.any (fun c => c.serial == serial)

/-- Places beyond the tile space that a soft error names for what an MSAMP returns: x[rd], and the statistics 8, 16 and 24 further on. -/
abbrev statPlace : Nat := 0x1000000

/-- The result m of an instruction on state m0 as soft errors leave it: they change words that the instruction writes (24 R432). -/
def MatOp.flipped (o : MatOp) (m0 m : Mat) : Mat :=
  o.flips.foldl (fun m f =>
    if o.isMsamp ∧ statPlace ≤ f.1 then
      { m with
        scount := if f.1 = statPlace + 8 then m.scount ^^^ BitVec.ofNat 64 f.2 else m.scount
        smean := if f.1 = statPlace + 16 then m.smean ^^^ BitVec.ofNat 64 f.2 else m.smean
        svar := if f.1 = statPlace + 24 then m.svar ^^^ BitVec.ofNat 64 f.2 else m.svar }
    else if m0.get f.1 4 = m.get f.1 4 then m else m.put f.1 4 (m.get f.1 4 ^^^ f.2 % 2 ^ 32)) m

/-- The count that an MSAMP returns as soft errors leave it. -/
def MatOp.flippedCount (o : MatOp) (n : Nat) : Nat :=
  (o.flips.filter (fun f => o.isMsamp && f.1 == statPlace)).foldl (fun n f => n ^^^ f.2 % 2 ^ 64) n

/-- The head's turn, with the count of an MSAMP. -/
def State.matTurn (s : State) : MatTurn × Nat :=
  match s.st.mat.queue with
  | [] => (.idle, 0)
  | o :: _ =>
    if (o.after.any s.st.eng.flying) || !s.st.matOpen o then (.held, 0)
    else
      match s.matRun o s.st.mat with
      | (.done m, c) => (.done (o.flipped s.st.mat m), o.flippedCount c)
      | (.fault m k va e, c) => (.fault m k va e, c)
      | (.wait h, c) => (.wait h, c)

/-- The head leaves the queue with the engines' state m, and an MSAMP gives its count to x[rd] (09 R222), or, where it commits
nothing, leaves it (R227). State that changes makes ts dirty (02 R54). -/
def State.matPop (s : State) (m : Mat) (count : Option Nat) : State :=
  match s.st.mat.queue with
  | [] => s
  | o :: rest =>
    let m' := { m.release o.serial with queue := rest }
    let old := s.st.mat
    let t := if o.toTile then (s.setMat m').tileWrote o.serial old o.writesTile else s.setMat m'
    let s := if { old.release o.serial with queue := rest } = m' then t else t.dirtyTs
    let s := if o.after.isSome then s.setEng (s.st.eng.observe (fun u _ => !(u.cls == 4 && o.after == some u.serial))) else s
    match o.i with
    | .msamp f =>
      (match count with | some c => s.setX f.rd (BitVec.ofNat 64 c) | none => s).setEng { s.st.eng with pendX := s.st.eng.pendX.erase f.rd.toNat }
    | _ => s

/-- The head stops on an imprecise fault with the state it leaves (23 R408); kinds 1 and 8 leave stval 0 (23 Table 23.3). -/
def State.matFail (s : State) (m : Mat) (count : Option Nat) (kind va elem : Nat) : State :=
  match s.st.mat.queue with
  | [] => s
  | o :: _ =>
    ((s.endWaits s.st.fe o.src 0).matPop m count).raiseOnce
      { code := causeOf kind o.src, stval := BitVec.ofNat 64 (if kind = 1 ∨ kind = 8 then 0 else va),
        selem := BitVec.ofNat 64 elem, sorig := o.pc }

/-- An access of an engine, by its serial number, waits: a fault-buffer record is posted once per page (25 R442). The hoop and sampling
reads are those of one instruction at a time, with the number 0. -/
def State.postHalt (s : State) (src who : Nat) (h : Halt) : State :=
  match h with
  | .page va use => (s.pageFault s.st src who va use).2
  | .migrating va use => s.migrateWait s.st src who va use
  | .both a b => (s.postHalt src who a).postHalt src who b
  | _ => s

/-- Whether a wait has yet to be reported to the fault buffer. -/
def State.unreported (s : State) (src : Nat) (h : Halt) : Bool :=
  match h with
  | .page va _ | .migrating va _ => !s.pfWaits.any (fun p => p.isFor s.st.fe (va / 2 ^ 16) src 0)
  | .both a b => s.unreported src a || s.unreported src b
  | _ => false

/-- The head goes as far as it can in one step. -/
def runMat (s : State) : State :=
  match s.matTurn with
  | (.done m, c) => s.matPop m (some c)
  | (.fault m k va e, c) => s.matFail m (some c) k va e
  | (.wait h, _) => s.postHalt ((s.st.mat.queue.head?.map MatOp.src).getD 8) 0 h
  | _ => s

/-! ## Issue -/

/-- An instruction issued to the engines, with everything it captures (08 R190, R193; 09 R212, R216). -/
def State.matOp (s : State) (i : Instr) (x1 x2 : Word) : MatOp :=
  let c := s.st.csr
  { i := i, x1 := x1, x2 := x2, tcfg := s.st.mat.tcfg, vtype := s.st.vec.vtype, smode := c.smode, smin := c.smin,
    stau := c.stau, skey := c.skey, sbase := c.sbase, pc := s.st.pc, after := none, sup := s.sup, desc := [], seen := [], flips := [], serial := s.st.eng.serial }

/-- A line is read in this step for the first instruction in the queue that reads memory, where no fence holds it (08 R203, 09
R225; log 11). -/
def State.readLine (s : State) (reading line : Nat) : State :=
  let m := s.st.mat
  let first := (m.queue.find? MatOp.reads).map MatOp.serial
  let take := fun o : MatOp =>
    if some o.serial = first ∧ s.st.matOpen o ∧ !(o.after.any s.st.eng.flying) then
      { o with seen := (reading, line, (List.range 64).map (fun i => o.byte s (64 * line + i))) :: o.seen.filter (fun l => !(l.1 == reading && l.2.1 == line)) }
    else o
  s.setMat { m with queue := m.queue.map take }

/-- A soft error in the instruction at the head of the queue: unnoticed outside protected mode, where it changes a result word; in
protected mode the instruction runs again, and the event is transient (24 R423, R432). -/
def State.matSoft (s : State) (off mask : Nat) : State :=
  match s.st.mat.queue with
  | [] => s
  | o :: rest =>
    if s.st.br.prot then s.mismatch 0 0 0
    else s.setMat { s.st.mat with queue := { o with flips := o.flips ++ [(off, mask)] } :: rest }

/-- The instruction joins the queue; ts becomes dirty. -/
def State.matIssue (s : State) (o : MatOp) : State :=
  let m := s.st.mat
  ((s.setMat { m with queue := m.queue ++ [o] }).setEng { s.st.eng with serial := s.st.eng.serial + 1 }).dirtyTs

end Sys2Proof.Machine
end

