-- ==== Sys2Proof/Machine/Copy.lean ====
section
/-! DEFINITION. Machine/Copy.lean: copies: commands, extents, issue, performing, stopping (11 R251 to R260; 25 R439, R440),
latch images in the tile space (12 R296), and the records they post (11 R289, R290). -/

namespace Sys2Proof.Machine

/-! ## Records (11 Table 11.8) -/

/-- Word 0 of a record. -/
def recWord0 (kind : Nat) (cause : BitVec 8) (cls tag : Nat) (task : BitVec 32) : Word :=
  BitVec.ofNat 64 (kind * 2 ^ 56 + cause.toNat * 2 ^ 48 + cause.toNat % 16 * 2 ^ 44 + cls * 2 ^ 40 + tag * 2 ^ 32 + task.toNat)

/-- Word 2 of a record: origin offset and element. -/
def recWord2 (orig elem : Word) : Word := BitVec.ofNat 64 (orig.toNat % 2 ^ 23 * 2 ^ 41 + elem.toNat % 2 ^ 41)

/-- Completion-queue address of a strand's task. -/
def State.cqOf (s : State) (t : Strand) : Word :=
  match s.crewOf? t with
  | some c => c.pkt.cq
  | none => 0

/-- Posts a record in a record queue. -/
def State.postRec (s : State) (fe : Nat) (r : Rec) : State := { s with recq := s.recq ++ [(fe, r)] }

/-- Records a queue holds. -/
def State.recCount (s : State) (fe : Nat) : Nat := (s.recq.filter (fun p => p.1 == fe)).length

/-- A record of the strand whose turn it is. -/
def State.strandRec (s : State) (kind : Nat) (cause : BitVec 8) (cls tag : Nat) (addr orig elem : Word) : Rec :=
  { w0 := recWord0 kind cause cls tag s.st.br.task, w1 := addr, w2 := recWord2 orig elem, w3 := s.time,
    ctx := s.st.br.ctx, cq := s.cqOf s.st, isTask := false, ev := none, lost := none }

/-! ## Commands (11 Table 11.1) -/

/-- The command in four words. -/
def cmdOf (a b c d : Word) : CopyCmd :=
  { sa := a, da := b, dsp := c.getLsbD 61, ssp := c.getLsbD 60, tag := fieldOf c 54 6, rows := fieldOf c 38 16,
    rowb := fieldOf c 0 21, dstr := BitVec.ofNat 32 (fieldOf d 32 32), sstr := BitVec.ofNat 32 (fieldOf d 0 32),
    rsvd := fieldOf c 62 2 != 0 || fieldOf c 21 17 != 0 }

/-- The copy touches no memory (R254). -/
def CopyCmd.isEmpty (c : CopyCmd) : Bool := c.rows == 0 || c.rowb == 0

/-- The extent of one side (R255). -/
def CopyCmd.extent (c : CopyCmd) (base : Word) (stride : BitVec 32) : List (Nat × Nat) :=
  if c.isEmpty then []
  else
    let b : Int := base.toNat
    let e : Int := b + (c.rows - 1 : Nat) * stride.toInt
    pieces (min b e) (max b e + c.rowb - 1)

/-- Extent of the source. -/
def CopyCmd.srcExt (c : CopyCmd) : List (Nat × Nat) := c.extent c.sa c.sstr

/-- Extent of the destination. -/
def CopyCmd.dstExt (c : CopyCmd) : List (Nat × Nat) := c.extent c.da c.dstr

/-- Ranges of the tile space, rising: first offset and end (12 Table 12.3). -/
def tileRanges (g : Nat) : List (Nat × Nat) :=
  (0, 0x100010) :: ((List.range 4).map (fun a => (0x200000 + 0x20000 * a, 0x200000 + 0x20000 * a + 32768 * g)) ++
    [(0x400000, 0x400000 + 65536 * g), (0x440000, 0x440000 + 65536 * g), (0x480000, 0x480010)])

/-- Whether lo to hi lies within rising ranges. -/
def covered (rs : List (Nat × Nat)) (lo hi : Nat) : Bool :=
  match rs with
  | [] => false
  | r :: t => if r.1 ≤ lo ∧ lo < r.2 then (if hi < r.2 then true else covered t r.2 hi) else covered t lo hi

/-- Whether an extent lies within the tile space. -/
def inTileSpace (g : Nat) (e : List (Nat × Nat)) : Bool := e.all (fun p => covered (tileRanges g) p.1 p.2)

/-- Whether one side lies in the tile space. -/
def CopyCmd.tiles (c : CopyCmd) : Bool := c.dsp || c.ssp

/-- The illegal-state and overlap checks of CPY (R291): a cause, or none. -/
def copyBad (g : Nat) (c : CopyCmd) : Option (BitVec 8) :=
  if c.rsvd ∨ c.rowb > 1048576 then some 0x1B
  else if c.ssp ∧ !inTileSpace g c.srcExt then some 0x1B
  else if c.dsp ∧ !inTileSpace g c.dstExt then some 0x1C
  else if c.dsp == c.ssp ∧ meets c.srcExt c.dstExt then some 0x6B
  else none

/-! ## Multicast (11 R260) -/

/-- The pool offset a destination names, in the local pool or a remote-pool aperture. -/
def State.poolOffset (s : State) (da : Nat) : Option Nat :=
  if 0xFFFFFF1000000000 ≤ da ∧ da < 0xFFFFFF1000000000 + s.poolSize s.st (stackOf s.st.fe) then some (da - 0xFFFFFF1000000000)
  else
    let p := da - 0xFFFFFF4000000000
    if 0xFFFFFF4000000000 ≤ da ∧ p / 2 ^ 31 < 8 ∧ p % 2 ^ 31 < s.poolSize s.st (p / 2 ^ 31) then some (p % 2 ^ 31) else none

/-- Address of a pool offset in the remote-pool aperture of a stack (12 Table 12.2). -/
def remotePool (stack off : Nat) : Word := BitVec.ofNat 64 (0xFFFFFF4000000000 + stack * 2 ^ 31 + off)

/-- The stacks of the valid entries of a replica list. -/
def replicas (l : Word) : List Nat :=
  ((List.range 4).filter (fun r => l.getLsbD (16 * r + 15))).map (fun r => fieldOf l (16 * r) 3)

/-- A replica list within R260. -/
def replicasLegal (l : Word) : Bool :=
  let rs := replicas l
  (List.range 4).all (fun r => fieldOf l (16 * r + 3) 12 == 0) && !rs.isEmpty && rs.eraseDups.length == rs.length

/-- The checks of CPYM, in an order that 11 R291 leaves open: the command, the list and the destination, overlap (log 84, the model's
choice). -/
def State.multicastBad (s : State) (c : CopyCmd) (l : Word) : Option (BitVec 8) :=
  if c.rsvd ∨ c.rowb > 1048576 then some 0x1B
  else if c.ssp ∧ !inTileSpace s.st.br.g c.srcExt then some 0x1B
  else if c.dsp ∨ !replicasLegal l then some 0x1C
  else match s.poolOffset c.da.toNat with
    | none => some 0x1C
    | some off =>
      let own := stackOf s.st.fe
      let at_ := fun a : Word => meets c.srcExt (c.extent a c.dstr)
      let hit := fun r : Nat => at_ (remotePool r off) || (r == own && at_ (BitVec.ofNat 64 (0xFFFFFF1000000000 + off)))
      if !c.ssp ∧ (replicas l).any hit then some 0x6B else none

/-! ## Issue (11 R256) -/

/-- A tag as a bit of a 64-bit word. -/
def tagBit (t : Nat) : Word := BitVec.ofNat 64 (2 ^ (t % 64))

/-- Whether a copy on a tag is in flight. -/
def Eng.tagBusy (e : Eng) (t : Nat) : Bool := e.copies.any (fun c => c.cmd.tag == t)

/-- A copy issues: its tag is cleared, and ts becomes dirty where it writes the tile space in task mode (R253). An empty
copy completes its tag at once (R254). -/
def State.copyIssue (s : State) (c : CopyCmd) (reps : Option (List Nat)) : State :=
  let e := s.st.eng
  let b := tagBit c.tag
  let e := { e with tagset := e.tagset &&& ~~~b, tagerr := e.tagerr &&& ~~~b }
  let s := if c.dsp ∧ !c.isEmpty ∧ !s.sup then s.dirtyTs else s
  if c.isEmpty then s.setEng { e with tagset := e.tagset ||| b, serial := e.serial + 1 }
  else
    let cp : Copy := { serial := e.serial, cmd := c, reps := reps, pc := s.st.pc, err := false, sup := s.sup, done := [], errs := [],
                       late := [] }
    s.setEng { e with copies := e.copies ++ [cp], serial := e.serial + 1 }

/-! ## Bytes in loop order (11 R254) -/

/-- A run of bytes of one row that lies within one 64 KiB page: index of its first byte in loop order, address, length. -/
structure Chunk64 where
  idx : Nat
  va : Nat
  n : Nat
  deriving DecidableEq, Repr

/-- n bytes from an address, cut at pages; fuel bounds the pieces. -/
def cut (fuel idx va n : Nat) : List Chunk64 :=
  match fuel with
  | 0 => []
  | k + 1 =>
    if n = 0 then []
    else
      let m := min n (2 ^ 16 - va % 2 ^ 16)
      { idx := idx, va := va, n := m } :: cut k (idx + m) ((va + m) % 2 ^ 64) (n - m)

/-- The chunks of one side. -/
def CopyCmd.chunks (c : CopyCmd) (base : Word) (stride : BitVec 32) : List Chunk64 :=
  (List.range c.rows).flatMap (fun r =>
    cut (c.rowb / 2 ^ 16 + 2) (r * c.rowb) (wrap 64 ((base.toNat : Int) + r * stride.toInt)) c.rowb)

/-- Where an address leads for a path that may wait on its page. -/
def State.waitedAt (s : State) (src who va : Nat) (w : Walk) : Walk := if (s.pfHold s.st.fe va 1 src who).isSome then .notPresent else w

/-- Where the bytes of one side lie, in loop order, and what stops them, each with the index of its first byte. -/
structure Side where
  keys : List Nat
  halts : List (Nat × Halt)

/-- Locates one side for a use. -/
def State.side (s : State) (cp : Copy) (tiles : Bool) (base : Word) (stride : BitVec 32) (src : Nat) (use : Use) : Side :=
  (cp.cmd.chunks base stride).foldl (fun a c =>
    if tiles then { a with keys := a.keys ++ keysFrom c.va c.n }
    else
      match s.waitedAt src cp.serial c.va (s.locate s.st c.va cp.sup use) with
      | .at k => { a with keys := a.keys ++ keysFrom k c.n }
      | .notPresent =>
        { keys := a.keys ++ List.replicate c.n 0,
          halts := a.halts ++ [(c.idx, if s.gaveUp src cp.serial c.va then .fault 3 c.va else .page c.va use)] }
      | .migrating => { keys := a.keys ++ List.replicate c.n 0, halts := a.halts ++ [(c.idx, .migrating c.va use)] }
      | .fault k => { keys := a.keys ++ List.replicate c.n 0, halts := a.halts ++ [(c.idx, .fault k c.va)] })
    { keys := [], halts := [] }

/-- The address of the byte at an index of one side. -/
def CopyCmd.byteVa (c : CopyCmd) (base : Word) (stride : BitVec 32) (i : Nat) : Nat :=
  wrap 64 ((base.toNat : Int) + (i / max 1 c.rowb : Nat) * stride.toInt + (i % max 1 c.rowb : Nat))

/-! ## Latch images (12 R296) -/

/-- The buffer whose image an offset lies in, and the place in it. -/
def imagePlace (g off : Nat) : Option (Nat × Nat) :=
  if 0x400000 ≤ off ∧ off < 0x400000 + 65536 * g then some (0, off - 0x400000)
  else if 0x440000 ≤ off ∧ off < 0x440000 + 65536 * g then some (1, off - 0x440000)
  else none

/-- A buffer by number. -/
def Mat.buf (m : Mat) (b : Nat) : Latch := if b = 0 then m.latch0 else m.latch1

/-- The descriptor word of a buffer. -/
def Mat.descWord (m : Mat) (b : Nat) : Nat :=
  let l := m.buf b
  l.fmt + l.kind * 2 ^ 4 + (if l.t then 2 ^ 6 else 0) + l.n % 2 ^ 9 * 2 ^ 8 + (if b = 0 ∧ m.active then 2 ^ 63 else 0)

/-- The serial number of a buffer's image: equal contents have one image on a harness. -/
def State.imageOf (s : State) (l : Latch) : Nat :=
  ((s.images.find? (fun p => p.halves == s.st.br.halves && p.latch == l)).map LatchImage.serial).getD s.images.length

/-- A byte of a buffer's image; an empty buffer's image is zeros. -/
def State.imageByte (s : State) (l : Latch) (i : Nat) : Byte :=
  if l == Latch.empty then 0 else Config.latchByte (s.imageOf l) i

/-- A byte of the tile space as a copy reads it. -/
def State.tileByte (s : State) (off : Nat) : Byte :=
  let m := s.st.mat
  match imagePlace s.st.br.g off with
  | some (b, i) => s.imageByte (m.buf b) i
  | none =>
    if 0x480000 ≤ off ∧ off < 0x480010 then BitVec.ofNat 8 (m.descWord ((off - 0x480000) / 8) / 256 ^ ((off - 0x480000) % 8))
    else m.bytes.get off

/-- A byte of the tile space as copies of a class read it: what a hoop instruction or a tile move wrote is observed or not until a fence
(08 R202). -/
def State.tileFor (s : State) (cls off : Nat) : Byte :=
  match s.st.eng.unseen.findSome? (fun u => if u.cls = cls then u.cells.find? (fun c => c.1 == tileKey off) else none) with
  | some c => c.2
  | none => s.tileByte off

/-- Records the images of the buffers whose image a copy reads. -/
def State.takeImages (s : State) (offs : List Nat) : State :=
  [0, 1].foldl (fun s b =>
    let l := s.st.mat.buf b
    if l == Latch.empty ∨ !(offs.any (fun o => (imagePlace s.st.br.g o).map Prod.fst == some b)) ∨
        s.images.any (fun p => p.halves == s.st.br.halves && p.latch == l) then s
    else { s with images := { serial := s.images.length, halves := s.st.br.halves, latch := l } :: s.images }) s

/-- A buffer after a copy wrote part of its image or its descriptor: with the weights of an image saved on the same harness, where the image
written so far and the descriptor are that image's; otherwise with unpredictable ones. -/
def State.imageWeights (s : State) (m : Mat) (b : Nat) : Latch :=
  let l := m.buf b
  let base := 0x400000 + 0x40000 * b
  let n := 65536 * s.st.br.g
  let same := fun (x : Latch) => x.fmt == l.fmt && x.kind == l.kind && x.t == l.t && x.n == l.n &&
    (List.range n).all (fun i => m.bytes.get (base + i) == s.imageByte x i)
  match (Latch.empty :: (s.images.filter (fun p => p.halves == s.st.br.halves)).map LatchImage.latch).find? same with
  | some x => { l with w := x.w, foreign := x.foreign, loaded := x.loaded }
  | none => { l with w := [], foreign := some (2 * s.tick + b), loaded := [] }

/-- Writes cells of the tile space as a copy does: nlen and tk above 32,768 are stored as 32,768, the reserved bits
beside tk stay 0 (09 R209), and a written
descriptor or image changes its buffer (12 R296). -/
def State.tileWrite (s : State) (cells : List Host.Cell) : State :=
  let g := s.st.br.g
  let m := s.st.mat
  let inDesc := fun (c : Host.Cell) => decide (0x480000 ≤ c.1) && decide (c.1 < 0x480010)
  let m1 := m.write (cells.filter (fun c => !inDesc c))
  let hitAt := fun lo hi => cells.any (fun c => decide (lo ≤ c.1) && decide (c.1 < hi))
  let m2 := (List.range 4).foldl (fun m r =>
    let o := 0x100000 + 2 * r
    if hitAt o (o + 2) ∧ m.get o 2 > 32768 then m.put o 2 32768 else m) m1
  let m3 := if hitAt 0x100008 0x100010 ∧ m2.get 0x100008 8 ≠ min m2.tk 32768 then m2.put 0x100008 8 (min m2.tk 32768) else m2
  let word := fun b => leNat ((List.range 8).map (fun i =>
    match (cells.filter (fun c => c.1 == 0x480000 + 8 * b + i)).getLast? with
    | some c => c.2
    | none => BitVec.ofNat 8 (m.descWord b / 256 ^ i)))
  let m4 := [0, 1].foldl (fun m b =>
    if hitAt (0x480000 + 8 * b) (0x480008 + 8 * b) then
      let w := word b
      let l := m.buf b
      let m := m.setBuf b { l with fmt := w % 16, kind := w / 2 ^ 4 % 4, t := w / 2 ^ 6 % 2 == 1, n := w / 2 ^ 8 % 2 ^ 9 }
      if b = 0 then { m with active := w / 2 ^ 63 % 2 == 1 } else m
    else m) m3
  let changed := fun b => hitAt (0x400000 + 0x40000 * b) (0x400000 + 0x40000 * b + 65536 * g) ||
    ((m.buf b).fmt != (m4.buf b).fmt || (m.buf b).kind != (m4.buf b).kind || (m.buf b).t != (m4.buf b).t || (m.buf b).n != (m4.buf b).n)
  s.setMat ([0, 1].foldl (fun m b => if changed b then m.setBuf b (s.imageWeights m4 b) else m) m4)

/-! ## Performing -/

/-- Where a copy stands. -/
inductive CopyTurn where
  | ends
  /-- Index of the byte, unit of the cause, kind and address. -/
  | stops (elem unit kind va : Nat)
  /-- The units and pages it waits on. -/
  | waits (hs : List (Nat × Halt))

/-- The fault at the lowest index; the source's first. -/
def firstStop (l : List (Nat × Nat × Halt)) : Option (Nat × Nat × Nat × Nat) :=
  l.foldl (fun b x =>
    match x.2.2 with
    | .fault k va =>
      (match b with
       | none => some (x.1, x.2.1, k, va)
       | some y => if x.1 < y.1 then some (x.1, x.2.1, k, va) else b)
    | _ => b) none

/-- The source side of a copy. -/
def State.srcSide (s : State) (cp : Copy) : Side := s.side cp cp.cmd.ssp cp.cmd.sa cp.cmd.sstr 11 .read

/-- The destination side of a copy, or of one replica of it. -/
def State.dstSide (s : State) (cp : Copy) (base : Word) : Side := s.side cp cp.cmd.dsp base cp.cmd.dstr 12 .write

/-- Destination address of a copy, or of its replica on a stack. -/
def State.replicaAt (s : State) (cp : Copy) (rep : Nat) : Word :=
  if cp.reps.isSome then remotePool rep ((s.poolOffset cp.cmd.da.toNat).getD 0) else cp.cmd.da

/-- The destinations of a copy still running: replica numbers, 0 for path C. -/
def Copy.dests (cp : Copy) : List Nat := cp.reps.getD [0]

/-- The path class of a copy (11 Table 11.3). -/
def Copy.cls (cp : Copy) : Nat := if cp.reps.isSome then 6 else 3

/-- Whether byte i of a destination has been performed. -/
def Copy.doneAt (cp : Copy) (rep i : Nat) : Bool := cp.done.any (fun d => d.1 == rep && d.2.1 == i)

/-- Whether the source byte at a key is poisoned. -/
def State.srcBad (s : State) (tiles : Bool) (k : Nat) : Bool := if tiles then s.st.mat.bad k 1 else s.poisonedAt k

/-- The bytes a copy reads, as they stand; a multicast reads each byte once. -/
def State.srcBytes (s : State) (cp : Copy) (sd : Side) : List Byte :=
  sd.keys.zipIdx.map (fun k =>
    match (if cp.reps.isSome then cp.done.find? (fun d => d.2.1 == k.2) else none) with
    | some d => d.2.2
    | none => if cp.cmd.ssp then s.tileFor cp.cls k.1 else s.mem.get k.1)

/-- The stop that poison makes on the source side. -/
def State.srcPoison (s : State) (cp : Copy) (sd : Side) : List (Nat × Nat × Halt) :=
  match sd.keys.zipIdx.find? (fun p => s.srcBad cp.cmd.ssp p.1) with
  | some (_, i) => [(i, 11, .fault 7 (cp.cmd.byteVa cp.cmd.sa cp.cmd.sstr i))]
  | none => []

/-- The stop that a narrow write into poison makes on a destination side. -/
def State.dstPoison (s : State) (cp : Copy) (base : Word) (cells : List Host.Cell) : List (Nat × Nat × Halt) :=
  if cp.cmd.dsp then []
  else
    match cells.zipIdx.find? (fun p => s.dropsAt cells p.1.1) with
    | some (_, i) => [(i, 12, .fault 7 (cp.cmd.byteVa base cp.cmd.dstr i))]
    | none => []

/-- The stops that hardware errors make on the way to a destination (24 R425, 25 R438). -/
def State.copyErrs (s : State) (cp : Copy) (rep : Nat) : List (Nat × Nat × Halt) :=
  (cp.errs.filter (fun e => e.1 == rep || e.2.2.1 == 11)).map (fun e =>
    (e.2.1, e.2.2.1, .fault e.2.2.2 (if e.2.2.1 = 11 then cp.cmd.byteVa cp.cmd.sa cp.cmd.sstr e.2.1
                                     else cp.cmd.byteVa (s.replicaAt cp rep) cp.cmd.dstr e.2.1)))

/-- What stops or delays a copy to one destination. -/
def State.copyTurnTo (s : State) (cp : Copy) (rep : Nat) : CopyTurn :=
  let base := s.replicaAt cp rep
  let a := s.srcSide cp
  let b := s.dstSide cp base
  let cells := b.keys.zip (s.srcBytes cp a)
  let hs := a.halts.map (fun h => (h.1, 11, h.2)) ++ b.halts.map (fun h => (h.1, 12, h.2))
  let ps := if hs.isEmpty then s.srcPoison cp a ++ s.dstPoison cp base cells else []
  match firstStop (hs ++ ps ++ s.copyErrs cp rep) with
  | some (e, u, k, va) => .stops e u k va
  | none => if hs.isEmpty then .ends else .waits (hs.map (fun h => (h.2.1, h.2.2)))

/-- Where a copy, or a multicast as a whole, stands: a source fault stops all of it; a replica that fails stops alone. -/
def State.copyTurn (s : State) (cp : Copy) : CopyTurn :=
  cp.dests.foldl (fun t r =>
    match t with
    | .ends => s.copyTurnTo cp r
    | t => t) .ends

/-- The replica of a multicast that fails on its own side. -/
def State.failedReplica (s : State) (cp : Copy) : Option (Nat × Nat × Nat × Nat) :=
  if cp.reps.isNone then none
  else (cp.dests.filterMap (fun r =>
    match s.copyTurnTo cp r with
    | .stops e 12 k va => some (r, e, k, va)
    | _ => none)).head?

/-- The bytes that a copy writes to one destination: those not yet performed that a test selects, with their places. Where rows overlap at
the destination, a byte that a later index has been performed on stays (R254). -/
def State.copyCells (s : State) (cp : Copy) (rep : Nat) (sel : Nat → Bool) : List (Host.Cell × Nat) :=
  let b := s.dstSide cp (s.replicaAt cp rep)
  let done := (cp.done.filter (fun d => d.1 == rep)).map (fun d => (d.2.1, b.keys.getD d.2.1 0))
  (b.keys.zip (s.srcBytes cp (s.srcSide cp))).zipIdx.filter (fun p =>
    sel p.2 && !cp.doneAt rep p.2 && !done.any (fun d => decide (p.2 < d.1) && d.2 == p.1.1))

/-- Whether an instruction in the queue is ordered behind a copy: it follows on it, or a fence sets it there (08 R202). -/
def State.matBehind (s : State) (cp : Copy) (o : MatOp) : Bool :=
  o.follows s.st.mat.queue cp.serial ||
    s.st.eng.fences.any (fun f => f.a == cp.cls && f.b == 4 && decide (cp.serial < f.serial) && decide (f.serial ≤ o.serial))

/-- A copy writes cells of the tile space. The instructions in the queue that are not ordered behind it go on using the latch buffers as
they stood (08 R190), and its own path and the tiles' readers observe what it wrote. -/
def State.tileCopy (s : State) (cp : Copy) (cells : List Host.Cell) : State :=
  let old := s.st.mat
  let s := s.tileWrite cells
  let s := s.setEng (s.st.eng.observe (fun _ c => !cells.any (fun d => tileKey d.1 == c.1)))
  let m := s.st.mat
  let ops := ((m.queue.filter (fun o => !s.matBehind cp o)).map MatOp.serial).filter (fun n => !m.held.any (fun h => h.ops.contains n))
  if ops.isEmpty ∨ (m.latch0 = old.latch0 ∧ m.latch1 = old.latch1 ∧ m.active = old.active) then s
  else s.setMat { m with held := m.held ++ [{ ops := ops, latch0 := old.latch0, latch1 := old.latch1, active := old.active }] }

/-- A copy writes bytes to one destination. -/
def State.copyTo (s : State) (cp : Copy) (rep : Nat) (sel : Nat → Bool) : State :=
  let cells := (s.copyCells cp rep sel).map Prod.fst
  let s := if cp.cmd.ssp then s.takeImages (s.srcSide cp).keys else s
  if cp.cmd.dsp then s.tileCopy cp cells else s.write (.engine cp.cls) cells

/-- The copies without one, and its tag completed. -/
def State.copyGone (s : State) (cp : Copy) (err : Bool) : State :=
  let e := s.st.eng
  let b := tagBit cp.cmd.tag
  s.setEng { e with copies := e.copies.filter (fun c => c.serial != cp.serial), tagset := e.tagset ||| b,
                    tagerr := if err then e.tagerr ||| b else e.tagerr }

/-- What the paths that will not observe the copy at its end go on seeing: those that no fence given meanwhile sets behind it (11 R262,
R265). The scalar path observes a copy at its end. -/
def State.keepUnseen (s : State) (cp : Copy) (old : List Host.Cell) : State :=
  let e := s.st.eng
  let reach := e.behind [cp.cls, 0] cp.serial
  let us := (cp.late.filter (fun c => !reach.contains c)).map (fun c =>
    ({ cls := c, by_ := cp.cls, serial := cp.serial, cells := old, reach := reach } : Unseen))
  s.setEng { e with unseen := e.unseen ++ us }

/-- The bytes that a copy is about to write to one destination, as paths that do not observe it go on seeing them: of the tile space those
of tiles. -/
def State.copyOld (s : State) (cp : Copy) (rep : Nat) (sel : Nat → Bool) : List Host.Cell :=
  (s.copyCells cp rep sel).filterMap (fun c =>
    if cp.cmd.dsp then (if c.1.1 < 0x40000 then some (tileKey c.1.1, s.st.mat.bytes.get c.1.1) else none)
    else some (c.1.1, s.mem.get c.1.1))

/-- A copy writes bytes to one destination as it ends or stops: paths of the strand do not observe them yet (11 R262). -/
def State.copyLast (s : State) (cp : Copy) (rep : Nat) (sel : Nat → Bool) : State :=
  let old := if cp.late.isEmpty then [] else s.copyOld cp rep sel
  let s := s.copyTo cp rep sel
  if old.isEmpty then s else s.keepUnseen cp old

/-- A copy ends (R256). -/
def State.copyEnd (s : State) (cp : Copy) : State :=
  (cp.dests.foldl (fun s r => s.copyLast cp r (fun _ => true)) s).copyGone cp cp.err

/-- Posts the record of a copy that stopped (25 R439); the task's record will carry the first of them (25 R446). -/
def State.copyRecord (s : State) (cp : Copy) (elem unit kind va : Nat) : State :=
  let cause := causeOf kind unit
  let cls := if kind = 11 ∧ unit = 12 then 3 else 1
  let r := s.strandRec 1 cause cls cp.cmd.tag (BitVec.ofNat 64 va) (origOf cp.pc s.entryOf) (BitVec.ofNat 64 elem)
  let r := { r with lost := if kind = 11 then some (s.st.br.cnum, s.st.br.sidx) else none }
  (s.postRec s.st.fe r).mapCrews (fun c => if s.st.ofCrew c ∧ c.copyErr.isNone then { c with copyErr := some (r.w0, r.w1, r.w2) } else c)

/-- The bytes that go with byte i in one write: those of its aligned 8-byte word, where that lies within one row on a strongly ordered
or release-consistent page (13 R326). -/
def State.copyUnit (s : State) (cp : Copy) (rep i : Nat) : List Nat :=
  let va := cp.cmd.byteVa (s.replicaAt cp rep) cp.cmd.dstr i
  let b := i % max 1 cp.cmd.rowb
  if !cp.cmd.dsp ∧ va % 8 ≤ b ∧ b - va % 8 + 8 ≤ cp.cmd.rowb ∧ s.kindAt s.st va < 2 then keysFrom (i - va % 8) 8 else [i]

/-- Whether byte i of a copy may be performed before it ends: it has its place, and nothing there is poisoned. -/
def State.copyClear (s : State) (cp : Copy) (rep : Nat) : Nat → Bool :=
  let a := s.srcSide cp
  let b := s.dstSide cp (s.replicaAt cp rep)
  let out := fun (sd : Side) (i : Nat) => sd.halts.any (fun h => decide (h.1 ≤ i) && decide (i < h.1 + 2 ^ 16) && sd.keys.getD i 0 == 0)
  let all := b.keys.zip (s.srcBytes cp a)
  fun i => decide (i < b.keys.length) && !out a i && !out b i && !s.srcBad cp.cmd.ssp (a.keys.getD i 0) &&
    !(!cp.cmd.dsp && s.dropsAt all (b.keys.getD i 0)) && !cp.errs.any (fun e => e.2.1 == i)

/-- What a copy that stops has performed (25 R439, R440): any bytes, whole words where the page kind makes them one; a write that
was lost was performed or not. -/
def State.copyPart (s : State) (cp : Copy) (rep : Nat) : State :=
  let clear := s.copyClear { cp with errs := cp.errs.filter (fun e => e.2.2.1 == 11) } rep
  s.copyLast cp rep (fun i => let u := s.copyUnit cp rep i; Config.copyMark s.tick (u.headD i) && u.all clear)

/-- A copy waits on no page any more. -/
def State.copyUnwait (s : State) (cp : Copy) : State := (s.endWaits s.st.fe 11 cp.serial).endWaits s.st.fe 12 cp.serial

/-- A copy's writes to one destination wait on no page any more. -/
def State.replicaUnwait (s : State) (cp : Copy) (rep : Nat) : State :=
  let ps := (cp.cmd.chunks (s.replicaAt cp rep) cp.cmd.dstr).map (fun c => c.va / 2 ^ 16)
  { s with pfWaits := s.pfWaits.filter (fun w => !(w.fe == s.st.fe && w.src == 12 && w.who == cp.serial && ps.contains w.page)) }

/-- A copy stops on a fault: part of it stands, its follow-on is discarded, its tag completes with error, and a record is
posted (R257, R258). -/
def State.copyStop (s : State) (cp : Copy) (elem unit kind va : Nat) : State :=
  let s := cp.dests.foldl (fun s r => s.copyPart cp r) s
  let s := (s.copyUnwait cp).setMat { s.st.mat with queue := s.st.mat.queue.filter (fun o => o.after != some cp.serial) }
  let s := if kind = 7 ∧ cp.errs.any (fun e => e.2.1 == elem && e.2.2.1 == 11 && unit == 11) then s.badEntry 0x7B else s
  (s.copyGone cp true).copyRecord cp elem unit kind va

/-- The state with a copy in flight replaced. -/
def State.setCopy (s : State) (cp : Copy) : State :=
  s.setEng { s.st.eng with copies := s.st.eng.copies.map (fun c => if c.serial = cp.serial then cp else c) }

/-- A replica stops alone (25 R440). -/
def State.replicaStop (s : State) (cp : Copy) (r elem kind va : Nat) : State :=
  let s := (s.copyPart cp r).replicaUnwait cp r
  let s := s.setCopy { cp with reps := cp.reps.map (fun l => l.filter (fun q => q != r)), err := true }
  s.copyRecord cp elem 12 kind va

/-- The physical bytes that n bytes of work reach as their page stands (13 R321). Where it is not present or is migrating they may be any:
earlier work keeps later work of its path waiting until it is known where it goes (log 88), and later work makes no access there. -/
def State.reachOf (s : State) (earlier : Bool) (va n : Nat) (sup : Bool) (use : Use) : List (Nat × Nat) :=
  match s.locate s.st va sup use with
  | .at k => [(k, k + n - 1)]
  | .fault _ => []
  | _ => if earlier then [(0, tileKey 0 - 1)] else []

/-- Ranges of physical bytes that one side of a copy reaches; the tile space lies above all memory. -/
def State.sideRanges (s : State) (cp : Copy) (earlier tiles : Bool) (base : Word) (stride : BitVec 32) (use : Use) : List (Nat × Nat) :=
  (cp.cmd.chunks base stride).flatMap (fun c =>
    if tiles then [(tileKey c.va, tileKey c.va + c.n - 1)] else s.reachOf earlier c.va c.n cp.sup use)

/-- What a copy reads. -/
def State.srcRanges (s : State) (cp : Copy) (earlier : Bool) : List (Nat × Nat) := s.sideRanges cp earlier cp.cmd.ssp cp.cmd.sa cp.cmd.sstr .read

/-- What a copy writes. -/
def State.dstRanges (s : State) (cp : Copy) (earlier : Bool) : List (Nat × Nat) :=
  cp.dests.flatMap (fun r => s.sideRanges cp earlier cp.cmd.dsp (s.replicaAt cp r) cp.cmd.dstr .write)

/-- What a remote atomic reaches. -/
def State.ramoRange (s : State) (r : Ramo) (earlier : Bool) : List (Nat × Nat) :=
  s.reachOf earlier r.addr.toNat (if r.is32 then 4 else 8) r.sup .atomic

/-- Whether a copy may be performed: no fence holds it, and no earlier copy of its path in flight reads or writes a byte it writes;
multicasts and remote atomics of the same bytes keep their program order (13 Table 13.3 notes 4 and 7). -/
def State.copyFree (s : State) (cp : Copy) : Bool :=
  let w := s.dstRanges cp false
  let r := s.srcRanges cp false
  let x := cp.reps.isSome
  s.st.copyOpen cp &&
    !s.st.eng.copies.any (fun c => decide (c.serial < cp.serial) && c.reps.isSome == x &&
      (meets (s.dstRanges c true ++ s.srcRanges c true) w || (x && meets (s.dstRanges c true) r))) &&
    !(x && s.st.eng.ramos.any (fun q => q.res.isNone && decide (q.serial < cp.serial) && meets (s.ramoRange q true) (w ++ r)))

/-- The pages a copy waits on get their fault-buffer records (25 R442). -/
def State.postHalts (s : State) (cp : Copy) (hs : List (Nat × Halt)) : State := hs.foldl (fun s h => s.postHalt h.1 cp.serial h.2) s

/-- A copy goes as far as it can in one step; a stop waits while the record queue is full (11 R290). -/
def runCopy (s : State) (cp : Copy) : State :=
  if !s.copyFree cp then s
  else
  match s.failedReplica cp with
  | some (r, e, k, va) => if Config.recordQueue ≤ s.recCount s.st.fe then s else s.replicaStop cp r e k va
  | none =>
    match s.copyTurn cp with
    | .ends => s.copyEnd cp
    | .stops e u k va => if Config.recordQueue ≤ s.recCount s.st.fe then s else s.copyStop cp e u k va
    | .waits hs => s.postHalts cp hs

/-- Bytes lo to hi (hi excluded) of one destination are performed before the copy ends (13 R328 notes 3 and 4, R333): whole words
where the page kind makes them one, and of a tile whole 64-byte lines (08 R202). -/
def runCopyPart (s : State) (cp : Copy) (rep lo hi : Nat) : State :=
  if !s.copyFree cp ∨ !cp.dests.contains rep then s
  else
    let c := cp.cmd
    let line := fun i => c.byteVa c.da c.dstr i / 64
    let within := fun j => decide (lo ≤ j) && decide (j < hi)
    let clear := s.copyClear cp rep
    let sel := fun i => within i && (s.copyUnit cp rep i).all (fun j => within j && clear j) &&
      (!c.dsp || (List.range (c.rows * c.rowb)).all (fun j => line j != line i || (within j && clear j)))
    let cells := s.copyCells cp rep sel
    (s.copyTo cp rep sel).setCopy { cp with done := cp.done ++ cells.map (fun p => (rep, p.2, p.1.2)) }

/-- A path of the strand will not observe a copy at its end (11 R262): of V, G, M, F and P; a copy to the tile space, of M (08 R202). -/
def State.copyLate (s : State) (cp : Copy) (cls : Nat) : State :=
  if cls ∈ (if cp.cmd.dsp then [4] else [1, 2, 4, 5, 7]) ∧ !cp.late.contains cls then s.setCopy { cp with late := cp.late ++ [cls] } else s

/-- A path of the strand observes what completed copies have performed (11 R262). -/
def State.observes (s : State) (cls : Nat) : State := s.setEng (s.st.eng.observe (fun u _ => u.cls != cls))

/-- A hardware error on a copy: a staging entry whose parity fails (24 R425), or a lost write of a destination (25 R438). -/
def State.copyError (s : State) (cp : Copy) (rep i unit : Nat) : State :=
  if i < cp.cmd.rows * cp.cmd.rowb ∧ (unit = 11 ∨ (unit = 12 ∧ !cp.cmd.dsp ∧ cp.dests.contains rep)) then
    s.setCopy { cp with errs := cp.errs ++ [(rep, i, unit, if unit = 11 then 7 else 11)] }
  else s

end Sys2Proof.Machine
end

