-- ==== Sys2Proof/Machine/Remote.lean ====
section
/-! DEFINITION. Machine/Remote.lean: remote atomics and memory packets on their way (11 R274 to R276, R281 to R284; 25 R441,
R445). -/

namespace Sys2Proof.Machine

/-! ## Remote atomics -/

/-- The target that holds a key: an HBM stack, a pool of a stack, or a scratchpad (11 R274). -/
def targetOf (k : Nat) : Nat :=
  if isHbm k then k / 2 ^ 36
  else if k < 2 ^ 100 then 200 + (k - 2 ^ 60) / 2 ^ 19
  else 100 + (k - 2 ^ 100) / 2 ^ 31 % 8

/-- Bytes of a RAMO. -/
def Ramo.size (r : Ramo) : Nat := if r.is32 then 4 else 8

/-- The new value of an atomic (11 R274): ADD, AND, OR, XOR, SWAP, MIN, MAX, MINU, MAXU on w bits. -/
def ramoNew (op w old opd : Nat) : Nat :=
  let a := old % 2 ^ w
  let b := opd % 2 ^ w
  match op with
  | 0 => (a + b) % 2 ^ w
  | 1 => a &&& b
  | 2 => a ||| b
  | 3 => a ^^^ b
  | 4 => b
  | 5 => if sgn w b < sgn w a then b else a
  | 6 => if sgn w a < sgn w b then b else a
  | 7 => min a b
  | _ => max a b

/-- A result as x[rd] receives it. -/
def Ramo.result (r : Ramo) (old : Nat) : Word := if r.is32 then wordOf (sgn 32 old) else BitVec.ofNat 64 old

/-- What a target keeps for a requester (11 R275). -/
def State.windowOf (s : State) (target fe asid : Nat) : List (Nat × Nat × Word) :=
  match s.windows.find? (fun w => w.target == target && w.fe == fe && w.asid == asid) with
  | some w => w.ids
  | none => []

/-- The window of a target for a requester: identifiers with their results (11 R275). -/
def State.window (s : State) (target fe asid : Nat) : List (Nat × Word) := (s.windowOf target fe asid).map (fun p => (p.1, p.2.2))

/-- Records an identifier with its result in its place among those sent before and after it; a window holds the 64 sent last. -/
def State.setWindow (s : State) (target fe asid ident sent : Nat) (v : Word) : State :=
  let old := s.windowOf target fe asid
  let n := max sent (((old.find? (fun p => p.1 == ident)).map (fun p => p.2.1)).getD 0)
  let rest := old.filter (fun p => p.1 != ident)
  let w : Window := { target := target, fe := fe, asid := asid,
                      ids := (rest.filter (fun p => decide (n < p.2.1)) ++ (ident, n, v) :: rest.filter (fun p => decide (p.2.1 ≤ n))).take 64 }
  { s with windows := w :: s.windows.filter (fun x => !(x.target == target && x.fe == fe && x.asid == asid)) }

/-- Identifiers and targets that a front end keeps. -/
def State.identsOf (s : State) (fe : Nat) : List (Nat × Option Nat) := (lookup s.idents fe).getD []

/-- The front end notes an identifier that it sends, with its target where that is known; it keeps 64 (11 R276). -/
def State.noteIdent (s : State) (ident : Nat) (target : Option Nat) : State :=
  { s with idents := insert s.idents s.st.fe (((ident, target) :: (s.identsOf s.st.fe).filter (fun p => p.1 != ident)).take 64) }

/-- The target of an identifier that the front end keeps is known. -/
def State.knowIdent (s : State) (ident target : Nat) : State :=
  { s with idents := insert s.idents s.st.fe ((s.identsOf s.st.fe).map (fun p => if p.1 = ident then (ident, some target) else p)) }

/-- The state with a RAMO replaced. -/
def State.setRamo (s : State) (r : Ramo) : State :=
  s.setEng { s.st.eng with ramos := s.st.eng.ramos.map (fun q => if q.serial = r.serial then r else q) }

/-- A RAMO leaves the engine: x[rd] receives a value. -/
def State.ramoGone (s : State) (r : Ramo) (v : Word) : State :=
  let rd : BitVec 5 := BitVec.ofNat 5 r.rd
  let s := s.setX rd v
  s.setEng { s.st.eng with ramos := s.st.eng.ramos.filter (fun q => q.serial != r.serial), pendX := s.st.eng.pendX.erase r.rd }

/-- A RAMO that faults is not performed, and x[rd] = 0 (23 R408). -/
def State.ramoFail (s : State) (r : Ramo) (kind va : Nat) : State :=
  ((s.endWaits s.st.fe 14 r.serial).ramoGone r 0).raiseOnce
    { code := causeOf kind 14, stval := BitVec.ofNat 64 (if kind = 8 then 0 else va), selem := 0, sorig := r.pc }

/-- A RAMO performed at its target: an identifier in the window returns the recorded result (11 R275). -/
def State.ramoDo (s : State) (r : Ramo) (ks : List Nat) : State :=
  let fe := s.st.fe
  let asid := s.st.br.asid
  let tg := targetOf (ks.headD 0)
  let s := s.knowIdent r.ident tg
  match lookup (s.window tg fe asid) r.ident with
  | some v => (s.setWindow tg fe asid r.ident r.sent v).setRamo { r with res := some v }
  | none =>
    let old := leNat (ks.map s.mem.get)
    let v := r.result old
    let s := s.write (.engine 6) (ks.zip (leBytes r.size (ramoNew r.op (8 * r.size) old r.operand.toNat)))
    (s.setWindow tg fe asid r.ident r.sent v).setRamo { r with res := some v }

/-- The stack of a target. -/
def targetStack (tg : Nat) : Nat := if tg < 100 then tg / 2 else if tg < 200 then tg - 100 else stackOf (tg - 200)

/-- The stack that a RAMO is aimed at, where its page is strongly ordered. -/
def State.orderedTo (s : State) (r : Ramo) : Option Nat :=
  if s.kindAt s.st r.addr.toNat ≠ 0 then none
  else match s.locate s.st r.addr.toNat r.sup .atomic with
    | .at k => some (targetStack (targetOf k))
    | _ => none

/-- Whether an earlier RAMO comes before this one: to the same bytes (13 Table 13.3 note 7), or on strongly ordered pages of one
target stack (Table 13.4 note 11); one whose page is not present may reach any (log 88). -/
def State.ramoBefore (s : State) (q r : Ramo) : Bool :=
  meets (s.ramoRange q true) (s.ramoRange r false) || ((s.orderedTo q).isSome && s.orderedTo q == s.orderedTo r)

/-- Whether a RAMO may be performed: no fence holds it, and no earlier RAMO or CPYM that it follows is outstanding. -/
def State.ramoFree (s : State) (r : Ramo) : Bool :=
  s.st.ramoOpen r.serial &&
    !s.st.eng.ramos.any (fun q => q.res.isNone && decide (q.serial < r.serial) && s.ramoBefore q r) &&
    !s.st.eng.copies.any (fun c => c.reps.isSome && decide (c.serial < r.serial) &&
      meets (s.ramoRange r false) (s.dstRanges c true ++ s.srcRanges c true))

/-- What a RAMO not yet performed comes to at its target. -/
inductive RamoTurn where
  | held
  | does (ks : List Nat)
  | faults (kind va : Nat)
  | waits (h : Halt)

/-- A RAMO's turn: an atomic to host memory takes an access fault (12 R315). -/
def State.ramoTurn (s : State) (r : Ramo) : RamoTurn :=
  if !s.ramoFree r then .held
  else
    match s.pfHold s.st.fe r.addr.toNat r.size 14 r.serial with
    | some w => if w.gaveUp then .faults 3 r.addr.toNat else .waits (.page r.addr.toNat .atomic)
    | none =>
    match s.locateN s.st r.addr.toNat r.size r.sup .atomic with
    | .keys ks =>
      if ks.any isHost then .faults 4 r.addr.toNat
      else
        (match s.poisonVa r.addr.toNat ks with
         | some va => .faults 7 va
         | none => .does ks)
    | .stop .notPresent fva _ => .waits (.page fva .atomic)
    | .stop (.fault k) fva _ => .faults k fva
    | .stop _ fva _ => .waits (.migrating fva .atomic)

/-- A lost RAMO (25 R445): x[rd] = 0, the trap 0xBE, and a record of kind 3, for which it waits while the record queue is full (23
R409). -/
def State.ramoLost (s : State) (r : Ramo) : State :=
  if Config.recordQueue ≤ s.recCount s.st.fe then s
  else
  let s := s.ramoGone r 0
  let s := s.raiseOnce { code := 0xBE, stval := r.addr, selem := BitVec.ofNat 64 r.ident, sorig := r.pc }
  s.postRec s.st.fe { s.strandRec 3 0xBE 3 0xFF r.addr (origOf r.pc s.entryOf) (BitVec.ofNat 64 r.ident) with
    lost := some (s.st.br.cnum, s.st.br.sidx) }

/-- A RAMO stops on a fault; one with no route is lost. -/
def State.ramoStop (s : State) (r : Ramo) (kind va : Nat) : State := if kind = 11 then s.ramoLost r else s.ramoFail r kind va

/-- A RAMO goes as far as it can in one step. -/
def runRamo (s : State) (r : Ramo) : State :=
  match r.res with
  | some v => s.ramoGone r v
  | none =>
    match s.ramoTurn r with
    | .held => s
    | .does ks => s.ramoDo r ks
    | .faults k va => s.ramoStop r k va
    | .waits h => s.postHalt 14 r.serial h

/-! ## RAMOQ (11 R276) -/

/-- The answer about an identifier; a target with no route cannot be asked (25 R445). -/
def State.ramoAnswer (s : State) (ident : Nat) : Word :=
  match (lookup (s.identsOf s.st.fe) ident).join with
  | none => 2
  | some tg =>
    if !s.routeUp (stackOf s.st.fe) (targetStack tg) then 2
    else if (lookup (s.window tg s.st.fe s.st.br.asid) ident).isSome then 0 else 1

/-! ## Packets (11 R281 to R284) -/

/-- First byte and length of what a packet's line shares its order with: its granule, at least the line. -/
def State.packetUnit (s : State) (a : Nat) : Nat :=
  let n := max 64 (granBytes (s.granCode (a / 2 ^ 30)))
  a / n * n

/-- Whether a packet may be performed: packets to one granule are performed in issue order (R284). -/
def State.packetFree (s : State) (p : Packet) : Bool :=
  s.st.openTo 7 p.serial &&
    !s.st.eng.pkts.any (fun q => decide (q.serial < p.serial) && s.packetUnit q.addr.toNat == s.packetUnit p.addr.toNat)

/-- Cells a write packet writes. -/
def Packet.cells (p : Packet) : List Host.Cell :=
  ((List.range 64).filter (fun i => p.mask.getLsbD i)).map (fun i => (p.addr.toNat + i, p.data.extractLsb' (8 * i) 8))

/-- A packet performed at its base die, with its reply: a reserved region, poison, or done (25 R441). -/
def State.packetDo (s : State) (p : Packet) : State × Reply :=
  let a := p.addr.toNat
  let reply := fun (cls : Nat) (cause : BitVec 8) (d : BitVec 512) =>
    ({ tag := p.tag, addr := p.addr, isRead := p.isRead, cls := cls, cause := cause, data := d } : Reply)
  if s.reserved.contains (a / 2 ^ 30) then (s, reply 1 0x4D 0)
  else if p.isRead then
    if (List.range 64).any (fun i => s.poisonedAt (a + i)) then (s, reply 1 0x7D 0)
    else (s, reply 0 0 (BitVec.ofNat 512 (leNat ((List.range 64).map (fun i => s.byteFor 7 (a + i))))))
  else if s.meetsPoison p.cells then (s.write (.engine 7) p.cells, reply 1 0x7D 0)
  else (s.write (.engine 7) p.cells, reply 0 0 0)

/-- A packet leaves for its reply. -/
def State.packetGone (s : State) (p : Packet) (r : Reply) : State :=
  s.setEng { s.st.eng with pkts := s.st.eng.pkts.filter (fun q => q.serial != p.serial), flight := s.st.eng.flight ++ [r] }

/-- A lost packet still replies: class 1 for a read, 3 for a write, which was performed or not (25 R438, R441). -/
def State.packetLost (s : State) (p : Packet) : State :=
  let s := if !p.isRead && Config.lostDone s.tick then (s.packetDo p).1 else s
  s.packetGone p { tag := p.tag, addr := p.addr, isRead := p.isRead, cls := if p.isRead then 1 else 3, cause := 0xBD, data := 0 }

/-- A packet goes as far as it can in one step; one with no route is lost. -/
def runPacket (s : State) (p : Packet) : State :=
  if !s.packetFree p then s
  else if s.reaches (stackOf s.st.fe) p.addr.toNat then
    let r := s.packetDo p
    r.1.packetGone p r.2
  else s.packetLost p

/-- The reply at a place of those under way arrives at the port: its tag is free and it queues (R282). -/
def State.replyIn (s : State) (n : Nat) : State :=
  match s.st.eng.flight[n]? with
  | some r => s.setEng { s.st.eng with flight := s.st.eng.flight.eraseIdx n, replies := s.st.eng.replies ++ [r] }
  | none => s

end Sys2Proof.Machine
end

