-- ==== Sys2Proof/Machine/Wait.lean ====
section
/-! DEFINITION. Machine/Wait.lean: what an instruction that waits does in a step: an engine it waits for goes on. -/

namespace Sys2Proof.Machine

/-! ## The strand's oldest work -/

/-- Work of the strand's engines. -/
inductive Work where
  | pass
  | run
  | copy (c : Copy)
  | mat
  | ramo (r : Ramo)
  | packet (p : Packet)

/-- All work outstanding, each with its serial number; of the matrix engines the head of their queue. -/
def Strand.works (t : Strand) : List (Nat × Work) :=
  (match t.vec.pass with | some p => if p.held then [] else [(p.serial, Work.pass)] | none => []) ++
    (match t.fab.run with | some r => [(r.serial, Work.run)] | none => []) ++
    t.eng.copies.map (fun c => (c.serial, Work.copy c)) ++
    (t.mat.queue.head?.map (fun o => (o.serial, Work.mat))).toList ++
    t.eng.ramos.map (fun r => (r.serial, Work.ramo r)) ++
    t.eng.pkts.map (fun p => (p.serial, Work.packet p))

/-- The work with the lowest serial number. -/
def oldest (l : List (Nat × Work)) : Option Work :=
  (l.foldl (fun (b : Option (Nat × Work)) w =>
    match b with
    | none => some w
    | some x => if w.1 < x.1 then some w else b) none).map Prod.snd

/-- A run goes on by one bobbin's turn, or ends. -/
def runFabric (s : State) : Out :=
  match runNext s with
  | some i => runWord i s
  | none => ok s

/-- A piece of work goes on. -/
def doWork (s : State) (w : Work) : Out :=
  match w with
  | .pass => ok (runPass s)
  | .run => runFabric s
  | .copy c => ok (runCopy s c)
  | .mat => ok (runMat s)
  | .ramo r => ok (runRamo s r)
  | .packet p => ok (runPacket s p)

/-- Whether a run could go on but for a fence. -/
def Strand.runHeld (t : Strand) : Bool :=
  match t.fab.run with
  | some r => r.allHalted && !t.openTo 5 r.serial
  | none => false

/-- The head of the matrix engines' queue can go on: no copy is under way that it follows, and no fence holds it. -/
def State.matFree (s : State) : Bool :=
  match s.st.mat.queue with
  | o :: _ => s.st.matOpen o && !s.st.eng.copies.any (fun c => o.after == some c.serial)
  | [] => false

/-- Whether a piece of work can go on: no other work comes before it. -/
def State.workFree (s : State) (w : Work) : Bool :=
  match w with
  | .pass => s.st.vec.pass.any (fun p => s.st.passOpen p)
  | .run => !s.st.runHeld
  | .copy c => s.copyFree c
  | .mat => s.matFree
  | .ramo r => r.res.isSome || s.ramoFree r
  | .packet p => s.packetFree p

/-- An instruction waits for work that other work of the strand comes before: the oldest that can go on does. Where none can, a held pass
keeps the instruction waiting, which takes 0x12 in supervisor mode (23 R402). -/
def waitOldest (i : Instr) (s : State) : Out :=
  match oldest (s.st.works.filter (fun w => s.workFree w.2)) with
  | some w => doWork s w
  | none => if s.sup && s.st.vec.pass.any (fun p => p.held) then trapI s 0x12 i else ok s

/-! ## Waits -/

/-- An instruction waits for the pass in flight (04 R87): the pass goes on, or what a fence holds it behind. -/
def waitPass (i : Instr) (s : State) : Out :=
  match s.st.vec.pass with
  | some p => if s.st.passOpen p then ok (runPass s) else waitOldest i s
  | none => ok s

/-- An instruction waits for the run in flight (10 R249). -/
def waitRun (i : Instr) (s : State) : Out := if s.st.runHeld then waitOldest i s else runFabric s

/-- An instruction waits for the matrix engines: the head goes on, or the copy that it follows or that a fence holds it
behind. -/
def waitMat (i : Instr) (s : State) : Out :=
  match s.st.mat.queue with
  | [] => ok s
  | o :: _ =>
    match s.st.eng.copies.find? (fun c => o.after == some c.serial) with
    | some c => if s.copyFree c then ok (runCopy s c) else waitOldest i s
    | none => if s.st.matOpen o then ok (runMat s) else waitOldest i s

/-- An instruction waits for the first copy that a test selects. -/
def waitCopy (i : Instr) (s : State) (sel : Copy → Bool) : Out :=
  match s.st.eng.copies.find? sel with
  | some c => if s.copyFree c then ok (runCopy s c) else waitOldest i s
  | none => ok s

/-- An instruction waits for remote atomics. -/
def waitRamo (i : Instr) (s : State) : Out :=
  match s.st.eng.ramos with
  | r :: _ => if r.res.isSome || s.ramoFree r then ok (runRamo s r) else waitOldest i s
  | [] => ok s

/-- An instruction waits for packets to be performed. -/
def waitPacket (i : Instr) (s : State) : Out :=
  match s.st.eng.pkts with
  | p :: _ => if s.packetFree p then ok (runPacket s p) else waitOldest i s
  | [] => ok s

/-- An instruction waits for an x register that a VLQ, an MSAMP or a RAMO has yet to write (06 R155, 09 R222, 11 R274). -/
def waitX (i : Instr) (s : State) : Out :=
  if s.st.vec.asked.any (fun a => s.st.vec.asks a.1) then waitPass i s
  else if s.st.mat.queue.any MatOp.isMsamp then waitMat i s
  else waitRamo i s

/-- An instruction that a held pass keeps waiting in supervisor mode takes 0x12 (23 R402); any other waits for the pass. -/
def afterPass (s : State) (i : Instr) (k : Out) : Out :=
  match s.st.vec.pass with
  | some p => if p.held && s.sup then trapI s 0x12 i else waitPass i s
  | none => k

/-- Waits for a fabric run in flight to end. -/
def afterRun (i : Instr) (s : State) (k : Out) : Out := if s.st.fab.run.isSome then waitRun i s else k

/-- Waits until nothing of path a stands before now, as seen by class b (11 R265). -/
def afterClass (s : State) (i : Instr) (a b : Nat) (k : Out) : Out :=
  if s.st.outstanding a b s.st.eng.serial then
    match a with
    | 1 | 2 => afterPass s i (ok s)
    | 3 => waitCopy i s (fun c => c.reps.isNone)
    | 4 => waitMat i s
    | 5 => waitRun i s
    | 6 => if s.st.eng.ramos.any (fun r => r.res.isNone) then waitRamo i s else waitCopy i s (fun c => c.reps.isSome)
    | _ => waitPacket i s
  else k

/-- Waits until every path of the strand has been performed (11 R265, R271, R272, R287). -/
def afterAll (s : State) (i : Instr) (k : Out) : Out :=
  afterPass s i (afterRun i s (
    if !s.st.eng.copies.isEmpty then waitCopy i s (fun _ => true)
    else if !s.st.mat.queue.isEmpty then waitMat i s
    else if !s.st.eng.ramos.isEmpty then waitRamo i s
    else if !s.st.eng.pkts.isEmpty then waitPacket i s
    else k))

/-- An access of a class made now waits for what a fence sets before it. -/
def afterFence (i : Instr) (s : State) (cls : Nat) (k : Out) : Out := if s.openNow cls then k else waitOldest i s

end Sys2Proof.Machine
end

