-- ==== Sys2Proof/Machine/Note.lean ====
section
/-! DEFINITION. Machine/Note.lean: noting (04 R77 to R92; 05 R115 to R117, R125; 06 R129 to R133). -/

namespace Sys2Proof.Machine

/-! ## Tests at noting -/

/-- The class of a slot (05 R116). -/
inductive Cls where
  | int | float | any
  deriving DecidableEq, Repr

/-- Whether an element type is outside a class. -/
def Cls.excludes (c : Cls) (et : Nat) : Bool :=
  match c with
  | .int => etFloat et
  | .float => !etFloat et
  | .any => false

/-- An operand a noting reads: a value read as an element type, or a mask. -/
inductive Rd where
  | val (x : Src) (ty : Nat)
  | msk (x : Src)
  deriving DecidableEq, Repr

/-- The tests of one operand: widths (06 R130, R140), and in stream mode the recipe's VL and type or the resident bound
(04 R91). -/
def State.readable (s : State) (r : Rd) : Bool :=
  let v := s.st.vec
  let stream := vtSm v.vtype
  match r with
  | .val (.node sl part) ty =>
    (match v.pk.node? sl with
     | some n => n.partWidth part == etWidth ty && (!stream || (n.vl == v.vl && vtEt n.vtype == ty))
     | none => true)
  | .val (.vreg _) ty => decide (v.vl ≤ vlMax s.st.lanes ty)
  | .msk (.node sl _) =>
    (match v.pk.node? sl with
     | some n => !stream || n.vl == v.vl
     | none => true)
  | .msk (.kreg _) => !stream || decide (v.vl ≤ s.st.lanes * 64)
  | _ => true

/-- last as an operand read as a type (04 R81): not void, no sink, a value, and of the type's width. -/
def State.lastUsable (s : State) (ty : Nat) : Bool :=
  let p := s.st.vec.pk
  match p.last with
  | some sl =>
    (match p.node? sl with
     | some n => !n.op.isSink && !n.op.isMask && s.readable (.val (.node sl 0) ty)
     | none => false)
  | none => false

/-- Whether a node fits: 64 nodes, 16 load streams, 8 sinks (04 R82). -/
def Pricking.fits (p : Pricking) (op : NOp) : Bool :=
  decide (p.nodes.length < Config.maxNodes) &&
    (!op.isLoad || decide ((p.nodes.filter (fun n => n.op.isLoad)).length < Config.maxLoads)) &&
    (!op.isSink || decide ((p.nodes.filter (fun n => n.op.isSink)).length < Config.maxSinks))

/-! ## The gate of vector instructions (05 R125, 02 R38, R54; 04 R87; 23 R402) -/

/-- Before a noted or executed vector instruction takes effect: its x operands stand, vs is on, vill is 0 where vill traps
it, and no pass and no fabric run is in flight; a held pass in supervisor mode traps. -/
def vecGate (s : State) (i : Instr) (xs : List (BitVec 5)) (vill : Option (BitVec 8)) (k : Out) : Out :=
  if s.waitsX xs then waitX i s
  else if s.st.sstat.vs = 0 then trapI s 0xD2 i
  else if vill.isSome ∧ vtVill s.st.vec.vtype then trapI s (vill.getD 0x12) i
  else afterPass s i (afterRun i s k)

/-- A force that an executed instruction needs and waits for: where a pass starts, or is refused with its trap to come, the instruction
issues again after it. Where it is refused in supervisor mode its fault is held, and the instruction goes on with the registers as they stand
(log 21). -/
def forceThen (s : State) (k : State → Out) : Out :=
  let s' := force s
  if s'.st.vec.pass.isSome then ok s'
  else if !s.sup && !s'.st.held.isEmpty then ok s'
  else k s'

/-! ## The vector command queue (02 R35; 04 R87)

While a pass is in flight the scalar core goes on issuing. Instructions that 04 Table 4.2 does not have wait join the pricking that the
queue fills behind the pass (log 23). -/

/-- Entries of the vector command queue that are taken. -/
def Vec.queued (v : Vec) : Nat := (v.ahead.map (fun a => a.count)).foldl (· + ·) 0

/-- Whether the command queue takes one more instruction: it has room, the pass is not held, no fabric run is in flight, and no pricking
in the queue will be refused. -/
def State.queueOpen (s : State) : Bool :=
  let v := s.st.vec
  v.pass.all (fun p => !p.held) && s.st.fab.run.isNone && decide (v.queued < 128) &&
    v.ahead.all (fun a => a.force.isNone || (refusedStore (a.pk.passNodes a.stream none)).isNone)

/-- The strand as its next vector instruction finds it: no pass, and the pricking that it joins. -/
def State.afterQueue (s : State) : State := s.setVec { s.st.vec with pk := s.st.vec.newest, pass := none, ahead := [] }

/-- The gate of a vector instruction that joins the command queue: the tests of vecGate, but a pass in flight keeps it waiting only
where the queue does not take it; a held pass in supervisor mode traps (23 R402). -/
def queueGate (s : State) (i : Instr) (xs : List (BitVec 5)) (vill : Option (BitVec 8)) (k : Out) : Out :=
  if s.waitsX xs then waitX i s
  else if s.st.sstat.vs = 0 then trapI s 0xD2 i
  else if vill.isSome ∧ vtVill s.st.vec.vtype then trapI s (vill.getD 0x12) i
  else if s.queueOpen then k
  else afterPass s i (afterRun i s k)

/-- A force that a noting needs and does not wait for (04 Table 4.2): it goes on behind the pass that starts or is in flight. Where the
pass will be refused with its trap to come, the noting issues again after it; in supervisor mode it goes on (log 21). -/
def forceOn (s : State) (k : State → Out) : Out :=
  let s' := force s
  if !s'.queueOpen then ok s'
  else if s'.st.vec.pass.isNone ∧ !s.sup ∧ !s'.st.held.isEmpty then ok s'
  else k s'

/-! ## Noting -/

/-- What a noting binds (04 R80). -/
inductive Bind where
  | none
  | v (d : BitVec 5)
  | v2 (d : BitVec 5)
  | k (d : Fin 8)
  | vk (d : BitVec 5) (c : Fin 8)
  deriving DecidableEq, Repr

/-- Binds v[d] to part of a node. -/
def Pricking.bindV (p : Pricking) (d : BitVec 5) (slot part : Nat) : Pricking :=
  { p with vb := p.vb.set d.toNat (some (slot, part)) d.isLt }

/-- Binds k[d] to part of a node. -/
def Pricking.bindK (p : Pricking) (d : Fin 8) (slot part : Nat) : Pricking := { p with kb := p.kb.set d (some (slot, part)) }

/-- Binds the names of a noting. -/
def Pricking.bind (p : Pricking) (b : Bind) (slot : Nat) : Pricking :=
  match b with
  | .none => p
  | .v d => p.bindV d slot 0
  | .v2 d => (p.bindV d slot 0).bindV (d + 1) slot 1
  | .k d => p.bindK d slot 0
  | .vk d c => (p.bindV d slot 0).bindK c slot 1

/-- Adds a node in the lowest free slot and rebinds its names; last refers to it, and a sink makes the pricking due (04 R80
to R85). In stream mode an unmasked node does not read its under operand (06 R132). A pending watermark attachment goes to the
first stream of its kind (11 R267). -/
def Pricking.note (p : Pricking) (n : Node) (b : Bind) : Pricking :=
  let sl := p.freeSlot
  let pubs := n.op == .store || n.op == .storex || n.op == .amo
  let bare := vtSm n.vtype && n.mask.isNone
  let n' := { n with
    slot := sl, under := if bare then .zero else n.under, under2 := if bare then .zero else n.under2,
    wm := if pubs then p.pub else if n.op.isLoad then p.lnk else none }
  { (({ p with nodes := p.nodes ++ [n'] } : Pricking).bind b sl) with
    last := some sl
    due := p.due || n.op.isSink
    pub := if pubs then none else p.pub
    lnk := if n.op.isLoad then none else p.lnk }

/-- What a noting asks for. -/
structure Note where
  /-- An illegal state of the instruction itself, and its cause. -/
  bad   : Bool
  code  : BitVec 8
  reads : List Rd
  /-- The o register that operand B is, and the one that the node's seed comes from. -/
  ob    : Option Nat
  oseed : Option Nat
  /-- KSHL or KSHR of a pending mask in resident mode (06 R451). -/
  kforce : Bool
  /-- last is an operand, read as this type. -/
  last  : Option Nat
  node  : Node
  bind  : Bind

/-- Whether a noting forces first (04 Table 4.2). -/
def Note.forces (n : Note) (s : State) : Bool := n.kforce || (n.ob.toList ++ n.oseed.toList).any s.st.vec.pk.redTargets

/-- The node of a noting: an o register that a pass ahead has yet to write is captured once that pass has ended, and of a VOSET that waits
the value is taken (04 R79, R87). -/
def Note.nodeIn (n : Note) (v : Vec) : Node :=
  let b := match n.ob with
    | some o => (match v.oAhead o with
      | some (some w) => .scalar w
      | some none => .oreg o
      | none => n.node.b)
    | none => n.node.b
  match n.oseed with
  | some o => (match v.oAhead o with
    | some (some w) => { n.node with b := b, seed := w }
    | some none => { n.node with b := b, seedO := some o }
    | none => { n.node with b := b })
  | none => { n.node with b := b }

/-- The last step of a noting: the node joins the newest pricking, and the instruction completes. -/
def noteNode (s : State) (i : Instr) (n : Note) : Out :=
  let f := s.afterQueue
  if n.last.isSome ∧ !f.lastUsable (n.last.getD 0) then trapI s 0x12 i
  else
    let s' := (s.setVec (s.st.vec.setNewest (f.st.vec.pk.note (n.nodeIn s.st.vec) n.bind))).dirtyVs
    retire (s'.setVec { s'.st.vec with answer := none, squashed := false })

/-- The capacity step of a noting (04 R82, R92): a pricking without room is forced first. Where that force is refused in supervisor mode
and leaves none, 0x92 is taken in either mode of the pricking (log 21). -/
def noteRoom (s : State) (i : Instr) (mk : State → Note) : Out :=
  if s.st.vec.newest.fits (mk s.afterQueue).node.op then noteNode s i (mk s.afterQueue)
  else forceOn s (fun s =>
    let f := s.afterQueue
    let n := mk f
    if f.st.vec.pk.fits n.node.op then noteNode s i n
    else if n.last.isSome ∧ !f.lastUsable (n.last.getD 0) then trapI s 0x12 i
    else trapI s 0x92 i)

/-- A noting (05 R125): the illegal states of step 4, the force that the operands need, capacity, and last. Where an illegal state of the
instruction itself (07 R166, R182; 02 R45) and one of its operands (04 R91, 06 R130) both hold, the first is taken: R125 puts both in
step 4 and gives no order (log 84). -/
def noteGo (s : State) (i : Instr) (mk : State → Note) : Out :=
  let f := s.afterQueue
  let n := mk f
  if n.bad then trapI s n.code i
  else if !n.reads.all f.readable then trapI s 0x12 i
  else if n.forces f then forceOn s (fun s => noteRoom s i mk)
  else noteRoom s i mk

/-- A noting: it joins the pricking, or the one that the command queue fills behind a pass in flight. -/
def noteGate (s : State) (i : Instr) (xs : List (BitVec 5)) (v : Option (BitVec 8)) (mk : State → Note) : Out :=
  queueGate s i xs v (noteGo s i mk)

/-- A node with the recorded state of the strand and nothing else (04 R79). -/
def State.blankNode (s : State) (op : NOp) : Node :=
  { slot := 0, op := op, a := .zero, b := .zero, c := .zero, under := .zero, under2 := .zero, mask := none,
    vl := s.st.vec.vl, vtype := s.st.vec.vtype, vmt := s.st.csr.vmt, pc := s.st.pc, sel := 0, dst := 0, seed := 0,
    seed2 := 0, seedO := none, base := 0, stride := 0, mf := 0, scaled := false, wm := none, counted := false }

/-- k0 as captured when m = 1. -/
def State.maskOf (s : State) (m : Bool) : Option Src := if m then some (kSrc s.st.vec.pk 0) else none

/-- The reads of a mask operand. -/
def maskReads (m : Option Src) : List Rd := (m.map Rd.msk).toList

/-! ## V format (05 Table 5.4) -/

/-- Operand forms of V-format words. -/
inductive Form where
  | binary | ternary | compare | unary | move | selected | generated | reduction
  deriving DecidableEq, Repr

/-- Whether a form reads operand A. -/
def Form.readsA (f : Form) : Bool :=
  match f with
  | .move | .generated => false
  | _ => true

/-- Whether a form reads operand B. -/
def Form.readsB (f : Form) : Bool :=
  match f with
  | .binary | .ternary | .compare | .move => true
  | _ => false

/-- The type operand A is read as: the source type for VCVT, otherwise et. -/
def aType (op : NOp) (f : VF) (et : Nat) : Nat := if op = .cvt then f.b.toNat else et

/-- Whether an operation takes its seed from o0 (05 R117). -/
def NOp.seeded (o : NOp) : Bool :=
  match o with
  | .scanAdd | .scanMax | .fscan | .lrec | .prev => true
  | _ => false

/-- What a V-format word notes. -/
def vNote (f : VF) (op : NOp) (cls : Cls) (form : Form) (bad : Bool) (s : State) : Note :=
  let p := s.st.vec.pk
  let et := vtEt s.st.vec.vtype
  let float := cls == .float || (op == .lrec && etFloat et)
  let a := if form.readsA then (opA p f).getD .zero else .zero
  let b := if form.readsB then opB s float f else .zero
  let c := if form = .ternary then vSrc p f.d else .zero
  let d3 := low3 f.d
  let under := match form with
    | .compare => if f.nb then .zero else kSrc p d3
    | .reduction => .zero
    | .ternary => vSrc p f.d
    | _ => if f.nb then .zero else vSrc p f.d
  let two := op == .nms || op == .nmst
  let mask := s.maskOf f.m
  let red := form == .reduction
  { bad := bad || cls.excludes et
    code := 0x12
    reads := (if form.readsA && !f.ak then [.val a (aType op f et)] else []) ++ (if form.readsB then [.val b et] else []) ++
      (if form = .ternary then [.val c et] else []) ++ maskReads mask ++
      (if f.m && vtSm s.st.vec.vtype then [if form = .compare then .msk under else .val under et] else [])
    ob := if form.readsB && f.bk == 2 then some (low3 f.b).val else none
    oseed := if red then some d3.val else if op.seeded then some 0 else none
    kforce := false
    last := if form.readsA && f.ak then some (aType op f et) else none
    node := { s.blankNode op with
      a := a, b := b, c := c, under := under, under2 := if two then vSrc p (f.d + 1) else .zero, mask := mask,
      sel := f.b.toNat, dst := d3.val,
      seed := if op = .rand then s.st.csr.vkey else if red then s.o d3 else s.o 0,
      seed2 := s.st.csr.vctr }
    bind := if f.nb || red then .none else if form = .compare then .k d3 else if two then .v2 f.d else .v f.d }

/-- Notes a V-format word. -/
def noteV (i : Instr) (f : VF) (op : NOp) (cls : Cls) (form : Form) (bad : State → Bool) (s : State) : Out :=
  noteGate s i (if form.readsB then vfX f else []) (some 0x12) (fun s => vNote f op cls form (bad s) s)

/-- No illegal state of its own. -/
def never : State → Bool := fun _ => false

/-! ## K format (05 Table 5.7) and the noted R-format members (05 Table 5.9) -/

/-- What a noting without m or nb asks for: node, reads, bind. -/
def plainNote (cls : Cls) (s : State) (reads : List Rd) (n : Node) (b : Bind) : Note :=
  { bad := cls.excludes (vtEt s.st.vec.vtype), code := 0x12, reads := reads, ob := none, oseed := none, kforce := false, last := none,
    node := n, bind := b }

/-- What a mask-logic word notes (06 R147). -/
def kNote (f : KF) (op : NOp) (s : State) : Note :=
  let p := s.st.vec.pk
  let a := kSrc p (low3 f.a)
  let b := if op = .knot then Src.zero else kSrc p (low3 f.b)
  plainNote .any s [.msk a, .msk b] { s.blankNode op with a := a, b := b, under := kSrc p (low3 f.d) } (.k (low3 f.d))

/-- Notes a mask-logic word. -/
def noteK (i : Instr) (f : KF) (op : NOp) (s : State) : Out := noteGate s i [] (some 0x12) (kNote f op)

/-- Whether a mask shift reaches beyond the groups a lane keeps: D > 15 with n < VL, for a recipe in stream mode
(06 R451). -/
def shiftTooFar (s : State) (n : Nat) : Bool :=
  let v := s.st.vec
  let e := max 1 (s.st.lanes * 64 / etWidth (vtEt v.vtype))
  decide (n < v.vl) && decide (15 < ceilDiv n e)

/-- What KSHL or KSHR notes (06 R147, R451): where n ≥ VL in stream mode, the operand is not read, and the node refers to none. -/
def kShiftNote (f : KF) (op : NOp) (s : State) : Note :=
  let p := s.st.vec.pk
  let n := s.x f.b
  let unread := vtSm s.st.vec.vtype && decide (s.st.vec.vl ≤ n.toNat)
  let a := if unread then Src.zero else kSrc p (low3 f.a)
  let pend := a.slot?.isSome
  let stream := vtSm s.st.vec.vtype
  { bad := pend && stream && shiftTooFar s n.toNat
    code := 0x12
    reads := [.msk a], ob := none, oseed := none, kforce := pend && !stream, last := none
    node := { s.blankNode op with a := a, under := kSrc p (low3 f.d), seed := n }
    bind := .k (low3 f.d) }

/-- Notes KSHL or KSHR. -/
def noteKShift (i : Instr) (f : KF) (op : NOp) (s : State) : Out :=
  noteGate s i [f.b] (some 0x12) (kShiftNote f op)

/-- What a carry word notes (06 R150): k3 is read as carry-in and rebound to the carry-out. -/
def carryNote (f : KF) (op : NOp) (s : State) : Note :=
  let p := s.st.vec.pk
  let et := vtEt s.st.vec.vtype
  let c : Fin 8 := ⟨f.k3.toNat, f.k3.isLt⟩
  let a := vSrc p f.a
  let b := if op = .addk then Src.zero else vSrc p f.b
  plainNote .int s [.val a et, .val b et, .msk (kSrc p c)]
    { s.blankNode op with a := a, b := b, c := kSrc p c, under := vSrc p f.d, under2 := kSrc p c } (.vk f.d c)

/-- Notes a carry word. -/
def noteCarry (i : Instr) (f : KF) (op : NOp) (s : State) : Out := noteGate s i [] (some 0x12) (carryNote f op)

/-- What an unmasked R-format member with a v destination and a source notes (06 R149, R151). -/
def rNote (f : RF) (op : NOp) (cls : Cls) (src : State → Src) (rd : State → List Rd) (s : State) : Note :=
  plainNote cls s (rd s) { s.blankNode op with a := src s, under := vSrc s.st.vec.pk f.rd } (.v f.rd)

/-- v[rs1] as a source. -/
def rVal (f : RF) (s : State) : Src := vSrc s.st.vec.pk f.rs1

/-- The read of v[rs1] as et. -/
def rReads (f : RF) (s : State) : List Rd := [.val (rVal f s) (vtEt s.st.vec.vtype)]

/-- k[rs1] as a source. -/
def rMask (f : RF) (s : State) : Src := kSrc s.st.vec.pk (low3 f.rs1)

/-- What KSET notes (06 R149). -/
def ksetNote (f : RF) (s : State) : Note :=
  plainNote .any s [] { s.blankNode .kset with under := kSrc s.st.vec.pk (low3 f.rd), seed := s.x f.rs1 } (.k (low3 f.rd))

/-- Notes an unmasked R-format member with a v destination and a source (06 R149, R151). -/
def noteR (i : Instr) (f : RF) (op : NOp) (cls : Cls) (src : State → Src) (rd : State → List Rd) (s : State) : Out :=
  noteGate s i [] (some 0x12) (rNote f op cls src rd)

/-! ## VM format (05 Table 5.6; 07 R161 to R166) -/

/-- The integer element type of a width (07 R164). -/
def intType (w : Nat) : Nat :=
  match w with
  | 8 => 1 | 16 => 2 | 32 => 3 | _ => 4

/-- The cause of an illegal state of a memory stream (07 R182). -/
def NOp.stateCode (o : NOp) : BitVec 8 :=
  match o with
  | .load => 0x13 | .store => 0x14 | .loadx => 0x15 | _ => 0x16

/-- What a unit or strided stream notes (07 R161, R163). -/
def streamNote (f : VM) (op : NOp) (s : State) : Note :=
  let p := s.st.vec.pk
  let et := vtEt s.st.vec.vtype
  let sub0 := f.sub.getLsbD 0
  let ld := op == .load
  let mf := f.mf.toNat
  let data := if sub0 then (lastSrc p).getD .zero else vSrc p f.d
  let under := if ld && !sub0 then vSrc p f.d else .zero
  let mask := s.maskOf f.m
  { bad := !vmtLegal s.st.csr.vmt || (!ld && f.m && mfIsPb mf)
    code := op.stateCode
    reads := (if !ld && !sub0 then [.val data et] else []) ++ maskReads mask ++
      (if ld && f.m && vtSm s.st.vec.vtype then [.val under et] else [])
    ob := none, oseed := none, kforce := false
    last := if !ld && sub0 then some et else none
    node := { s.blankNode op with
      a := if ld then .zero else data, under := under, mask := mask, base := s.x f.a, mf := mf, counted := true
      stride := if f.b = 0 then BitVec.ofNat 64 (mfSize (mfOf mf et)) else s.x f.b }
    bind := if ld && !sub0 then .v f.d else .none }

/-- What a gather, scatter or atomic notes (07 R164 to R166). -/
def indexNote (f : VM) (op : NOp) (bad : Bool) (s : State) : Note :=
  let p := s.st.vec.pk
  let et := vtEt s.st.vec.vtype
  let sub0 := f.sub.getLsbD 0
  let ld := op == .loadx
  let amo := op == .amo
  let lastData := op == .storex && sub0
  let data := if lastData then (lastSrc p).getD .zero else vSrc p f.d
  let under := if ld && !sub0 then vSrc p f.d else .zero
  let mask := s.maskOf f.m
  let idx := vSrc p f.b
  { bad := !vmtLegal s.st.csr.vmt || bad
    code := op.stateCode
    reads := [.val idx (intType (etWidth et))] ++ (if !ld && !lastData then [.val data et] else []) ++ maskReads mask ++
      (if ld && f.m && vtSm s.st.vec.vtype then [.val under et] else [])
    ob := none, oseed := none, kforce := false
    last := if lastData then some et else none
    node := { s.blankNode op with
      a := if ld then .zero else data, b := idx, under := under, mask := mask, base := s.x f.a, mf := f.mf.toNat,
      scaled := amo || f.sub.getLsbD 1, sel := f.sub.toNat, counted := true }
    bind := if ld && !sub0 then .v f.d else .none }

end Sys2Proof.Machine
end

