-- ==== Sys2Proof/Machine/VecExec.lean ====
section
/-! DEFINITION. Machine/VecExec.lean: set-length, queries, the operand file, masks to scalars, spills, segment moves and
permutations (06 R152 to R157; 07 R174 to R181). -/

namespace Sys2Proof.Machine

/-! ## Set-length (06 R153, R154) -/

/-- The first set-length clears vector state (02 R39). -/
def Vec.clearFirst (v : Vec) : Vec :=
  if v.first then v
  else { v with v := Vector.replicate 32 0, k := Vector.replicate 8 0, o := Vector.replicate 8 0, pk := Pricking.empty,
                first := true, bad := [], answer := none, squashed := false }

/-- Every name bound to a recipe becomes resident and holds zero; the recipes are freed (06 R154). Behind a pass in flight the registers
change once the command queue comes to it. -/
def Vec.releaseRecipes (v : Vec) : Vec :=
  let pk := v.newest
  let kept := ({ pk with vb := Vector.replicate 32 none, kb := Vector.replicate 8 none, last := none } : Pricking).gc
  let vs := (List.range 32).filter (fun i => (pk.vb.toList.getD i none).isSome)
  let ks := (List.range 8).filter (fun i => (pk.kb.toList.getD i none).isSome)
  match v.pass with
  | none => { v with pk := kept }.zeroed vs ks
  | some _ => (v.refill { v.filling with pk := kept }).acting (.zero vs ks)

/-- The new vl and vtype of a set-length. -/
def newLength (lanes : Nat) (prot : Bool) (avl : Nat) (req : Word) : Nat × Word :=
  if vtLegal req prot then (min avl (if vtSm req then 2 ^ 40 - 1 else vlMax lanes (vtEt req)), req)
  else (0, 0x8000000000000000)

/-- An instruction that joins the command queue now gives x[rd] a value, which is not to be read or written before the passes in front of it
have ended; and, where the test says so, vl, vtype and vstart (06 R153, R155; 04 R87; log 23). n is the serial number that the
strand's next piece of work had when the instruction issued. -/
def Vec.asking (v : Vec) (rd : BitVec 5) (length : Bool) (n : Nat) : Vec :=
  { v with asked := v.asked ++ (if rd = 0 then [] else [(rd.toNat, n)]) ++ (if length then [(Vec.lengthAsked, n)] else []) }

/-- A set-length (06 R153, R154): it forces where it changes vl or vtype of a pricking that holds a node, and does not wait for that pass (04
Table 4.2). Behind a pass in flight it joins the command queue: the instructions after it there find the new length, and what reads it
elsewhere waits for the pass. -/
def setLength (avl : Nat) (req : Word) (rd : BitVec 5) (s : State) : Out :=
  let n := newLength s.st.lanes s.st.br.prot avl req
  let a := s.dirtyIf (s.setVec s.st.vec.clearFirst)
  let v := a.st.vec
  let b := if !v.newest.nodes.isEmpty ∧ (n.1 ≠ v.vl ∨ n.2 ≠ v.vtype) then force a else a
  let c := if vtSm v.vtype && !vtSm n.2 then b.setVec b.st.vec.releaseRecipes else b
  let d := b.dirtyIf (c.setVec { c.st.vec with vl := n.1, vtype := n.2, vstart := 0, answer := none })
  if b.st.vec.pass.isSome && !b.queueOpen then ok b
  else
    let v := d.st.vec
    let d := if s.st.vec.pass.isSome then d.setVec ((v.setNewest v.newest).asking rd true s.st.eng.serial) else d
    retire (d.setX rd (BitVec.ofNat 64 n.1))

/-- The gate of a set-length: the first one (02 R39) follows every pass, as it clears what a pass would write. -/
def lengthGate (s : State) (i : Instr) (xs : List (BitVec 5)) (k : Out) : Out :=
  if s.st.vec.first then queueGate s i xs none k else vecGate s i xs none k

/-- VSETL (R153). -/
def execVsetl (f : RF) (s : State) : Out :=
  lengthGate s (.vsetl f) [f.rs1, f.rs2, f.rd] (setLength (s.x f.rs1).toNat (s.x f.rs2) f.rd s)

/-- VSETLI (R153): imm12 zero-extended. -/
def execVsetli (f : IF) (s : State) : Out :=
  lengthGate s (.vsetli f) [f.rs1, f.rd] (setLength (s.x f.rs1).toNat (f.imm.zeroExtend 64) f.rd s)

/-! ## Queries (06 R155) -/

/-- Size of a frame (07 R177). -/
def frameSize (g : Nat) : Nat := 8192 + 75776 * g

/-- The answer to a query (06 Table 6.7). Query 5 counts instructions as R85 does: the VLQ itself is not yet among them (log 26). -/
def State.vlq (s : State) (q : Nat) : Nat :=
  let v := s.st.vec
  let p := v.pk
  let vill := vtVill v.vtype
  let cap := if vill then 0 else vlMax s.st.lanes (vtEt v.vtype)
  match q with
  | 0 => cap
  | 1 => s.st.lanes
  | 2 => if vill then 0 else s.st.lanes * 64 / etWidth (vtEt v.vtype)
  | 3 => frameSize s.st.br.g
  | 4 =>
    (64 - p.nodes.length) + (16 - (p.nodes.filter (fun n => n.op.isLoad)).length) * 2 ^ 8 +
      (8 - (p.nodes.filter (fun n => n.op.isSink)).length) * 2 ^ 16 +
      (p.vb.toList.filter Option.isNone).length * 2 ^ 24 + (p.kb.toList.filter Option.isNone).length * 2 ^ 32
  | 5 => (if p.nodes.isEmpty then 0 else 1) + (if p.due then 2 + p.count % 64 * 2 ^ 8 else 0)
  | 6 => if vill then 0 else if vtSm v.vtype then 2 ^ 40 - 1 else cap
  | _ => s.st.br.g

/-- A VLQ joins the command queue: it answers as the instructions before it will leave the strand, and its x register is not to be read
or written before the passes in front of it have ended (R155; 04 R87; log 23). -/
def State.vlqLater (s : State) (f : RF) : State :=
  (s.setVec ((s.st.vec.setNewest s.st.vec.newest).asking f.rd false s.st.eng.serial)).setX f.rd (BitVec.ofNat 64 (s.afterQueue.vlq f.rs1.toNat))

/-- VLQ (R155): no force point; it answers at once while a pass is held (23 R402). -/
def execVlq (f : RF) (s : State) : Out :=
  let i := Instr.vlq f
  if s.waitsX [f.rd] then waitX i s
  else if s.st.sstat.vs = 0 then trapI s 0xD2 i
  else if s.st.vec.pass.any (fun p => !p.held) then (if s.queueOpen then retire (s.vlqLater f) else waitPass i s)
  else afterRun i s (retire (s.setX f.rd (BitVec.ofNat 64 (s.vlq f.rs1.toNat))))

/-! ## Force and the operand file (06 R156, R157) -/

/-- VFORCE (R156): behind a pass in flight it closes the pricking that the command queue fills (04 R87). -/
def execVforce (f : RF) (s : State) : Out := queueGate s (.vforce f) [] (some 0x12) (retire (force s))

/-- VOSET (R157): it writes once a pass in flight has ended, waiting for it in the command queue (04 R87); where a pending reduction targets
its o register it forces, and follows that pass (04 Table 4.2). -/
def execVoset (f : RF) (s : State) : Out :=
  let d := low3 f.rd
  let w := s.x f.rs1
  let go := fun s : State =>
    retire (s.dirtyIf (if s.st.vec.pass.isSome then s.setVec (s.st.vec.acting (.setO d w)) else s.setO d w))
  queueGate s (.voset f) [f.rs1] (some 0x12) (if s.st.vec.newest.redTargets d then forceOn s go else go s)

/-- VOGET (R157). -/
def execVoget (f : RF) (s : State) : Out :=
  vecGate s (.voget f) [f.rd] (some 0x12) (forceThen s (fun s => retire (s.setX f.rd (s.o (low3 f.rs1)))))

/-! ## Masks to scalars (06 R152) -/

/-- Reads bits 0 to VL − 1 of a mask: a recipe in stream mode is computed by the pass that the force starts, and a mask that R91 does
not let be read takes 0x12 (R154). Where the alias rule refuses that pass in supervisor mode, no rule gives the mask (log 21). -/
def maskThen (s : State) (i : Instr) (k : Fin 8) (go : Nat → State → Out) : Out :=
  let vl := s.st.vec.vl
  let fresh := s.setVec { s.st.vec with answer := none }
  match s.st.vec.answer with
  | some (k', bits) => if k' = k.val then go (bits % 2 ^ vl) fresh else ok fresh
  | none =>
    if !s.readable (.msk (kSrc s.st.vec.pk k)) then trapI s 0x12 i
    else
    let recipe := vtSm s.st.vec.vtype && (s.st.vec.pk.kb[k]).isSome
    let s' := forceFor (if recipe then some k.val else none) s
    if s'.st.vec.pass.isSome then ok s'
    else if !s.sup && !s'.st.held.isEmpty then ok s'
    else
      let bits := if recipe then (Config.unsettled 3 (BitVec.ofNat 64 k.val) s.tick).toNat else (s'.st.vec.k[k]).toNat
      go (bits % 2 ^ vl) s'

/-- Indices of set bits below n, rising. -/
def setBits (bits n : Nat) : List Nat := (List.range n).filter (fun i => bits.testBit i)

/-- KPOPC. -/
def execKpopc (f : RF) (s : State) : Out :=
  vecGate s (.kpopc f) [f.rd] (some 0x12) (maskThen s (.kpopc f) (low3 f.rs1) (fun b s =>
    retire (s.setX f.rd (BitVec.ofNat 64 (setBits b s.st.vec.vl).length))))

/-- KFIRST. -/
def execKfirst (f : RF) (s : State) : Out :=
  vecGate s (.kfirst f) [f.rd] (some 0x12) (maskThen s (.kfirst f) (low3 f.rs1) (fun b s =>
    retire (s.setX f.rd (match (setBits b s.st.vec.vl).head? with | some i => BitVec.ofNat 64 i | none => -1))))

/-- KLAST. -/
def execKlast (f : RF) (s : State) : Out :=
  vecGate s (.klast f) [f.rd] (some 0x12) (maskThen s (.klast f) (low3 f.rs1) (fun b s =>
    retire (s.setX f.rd (match (setBits b s.st.vec.vl).getLast? with | some i => BitVec.ofNat 64 i | none => -1))))

/-- KMV. -/
def execKmv (f : RF) (s : State) : Out :=
  vecGate s (.kmv f) [f.rd, f.rs2] (some 0x12) (maskThen s (.kmv f) (low3 f.rs1) (fun b s =>
    retire (s.setX f.rd (BitVec.ofNat 64 (b / 2 ^ min (s.x f.rs2).toNat s.st.vec.vl)))))

/-! ## Resident-only instructions (04 R78, 07 R174) -/

/-- The outline of a resident-only instruction: it forces, waits, and traps in stream mode. Where vmt is illegal too, the 0x12 of stream
mode is taken before 0x17: both are tested after the force, and no rule gives their order (log 84). -/
def resident (s : State) (i : Instr) (xs : List (BitVec 5)) (k : State → Out) : Out :=
  vecGate s i xs (some 0x12) (forceThen s (fun s => if vtSm s.st.vec.vtype then trapI s 0x12 i else k s))

/-- v[n]. -/
def State.v (s : State) (n : BitVec 5) : VReg := s.st.vec.v[n.toNat]'n.isLt

/-- Width of et. -/
def State.ew (s : State) : Nat := etWidth (vtEt s.st.vec.vtype)

/-- Writes v[n], which is resident from then on. -/
def State.setV (s : State) (n : BitVec 5) (r : VReg) : State :=
  let v := s.st.vec
  s.setVec { v with v := v.v.set n.toNat r n.isLt, pk := { v.pk with vb := v.pk.vb.set n.toNat none n.isLt }, answer := none }

/-- Elements below VL of a register. -/
def State.elems (s : State) (n : BitVec 5) : List Nat := (List.range s.st.vec.vl).map (elemOf (s.v n) s.ew)

/-- Writes the elements below VL of v[n], with vstart 0; words written in full are sound again (24 R417). -/
def State.putElems (s : State) (n : BitVec 5) (xs : List Nat) : State :=
  let s' := (s.setV n (below (s.v n) s.ew s.st.vec.vl xs)).wroteWords (fun r j => r == n.toNat && decide (64 * (j + 1) ≤ s.ew * s.st.vec.vl))
  s.dirtyIf (s'.setVec { s'.st.vec with vstart := 0 })

/-- 64-bit words that the elements below VL take. -/
def State.vlWords (s : State) : Nat := ceilDiv (s.ew * s.st.vec.vl) 64

/-- Register words that an executed vector instruction reads: one that cannot be rebuilt is 0x77 (24 R417; log 73). -/
def withWords (s : State) (ws : List (Nat × Nat)) (k : State → Out) : Out :=
  match s.st.firstLost ws with
  | some w => trapV (s.logLost w.1 w.2 0x77) 0x77 0
  | none => k (s.readWords ws)

/-- vstart takes a value; where that changes it, vs becomes dirty (02 R54). -/
def State.setVstart (s : State) (v : Word) : State :=
  if s.st.vec.vstart = v then s else (s.setVec { s.st.vec with vstart := v }).dirtyVs

/-! ## Spill, fill and segment moves (07 R175, R176) -/

/-- One element access: in the space of vmt, aligned, with source 7. Done, waiting, or a trap of the instruction. -/
def State.vAccess (s : State) (i a n : Nat) (use : Use) : Got (Nat × List Nat) :=
  let va := s.spaceVa s.st.csr.vmt a n
  if a % n ≠ 0 then .trap 0x57 (BitVec.ofNat 64 va.1) s
  else if !va.2 then .trap 0x47 (BitVec.ofNat 64 va.1) s
  else
    match s.access va.1 n 7 use with
    | .val ks s =>
      (match s.compared (some i) with
       | .val _ s => .val (va.1, ks) s
       | .wait s => .wait s
       | .trap c v s => .trap c v s)
    | .wait s => .wait s
    | .trap c v s => .trap c v s

/-- Reads an element. -/
def State.vRead (s : State) (i a n : Nat) : Got Nat :=
  match s.vAccess i a n .read with
  | .val (va, ks) s =>
    (match s.poisonVa va ks with
     | some p => .trap 0x77 (BitVec.ofNat 64 p) s
     | none => .val (leNat (ks.map (s.byteFor 1))) s)
  | .wait s => .wait s
  | .trap c v s => .trap c v s

/-- Writes an element: poison that it does not cover tells the instruction. -/
def State.vWrite (s : State) (i a n v : Nat) : Got Unit :=
  match s.vAccess i a n .write with
  | .val (va, ks) s =>
    let cells := ks.zip (leBytes n v)
    if s.meetsPoison cells then .trap 0x77 (BitVec.ofNat 64 ((s.poisonVa va ks).getD va)) s
    else s.sends 7 va (fun s => s.write (.engine 1) cells)
  | .wait s => .wait s
  | .trap c v s => .trap c v s

/-- The address of field f of element i of records of nf fields. -/
def recAddr (base nf w i f : Nat) : Nat := (base + (i * nf + f) * (w / 8)) % 2 ^ 64

/-- Element i of v[n] is loaded; a word whose every element this run has loaded is sound again (24 R417). -/
def State.loadElem (s : State) (n : BitVec 5) (i x : Nat) : State :=
  let w := s.ew
  let per := 64 / w
  let s' := s.dirtyIf (s.setV n (setElem (s.v n) w i x))
  if i % per = per - 1 ∧ s.st.vec.vstart.toNat ≤ i + 1 - per then s'.wroteWords (fun r j => r == n.toNat && j == i / per) else s'

/-- Loads or stores of elements and fields in order; a stop leaves vstart at its element, and a trap names the element
(23 R394). -/
def vLoop (store : Bool) (r : BitVec 5) (nf base : Nat) (is : List (Nat × Nat)) (s : State) (k : State → Out) : Out :=
  match is with
  | [] => k s
  | (i, f) :: rest =>
    let w := s.ew
    let reg := r + BitVec.ofNat 5 f
    let at_ := fun s : State => s.setVstart (BitVec.ofNat 64 i)
    let a := recAddr base nf w i f
    if store then
      if s.st.lost reg.toNat (i * w / 64) then trapE ((at_ s).logLost reg.toNat (i * w / 64) 0x77) 0x77 0 i
      else
        match (s.readWords [(reg.toNat, i * w / 64)]).vWrite i a (w / 8) (elemOf (s.v reg) w i) with
        | .val _ s => vLoop store r nf base rest s k
        | .wait s => stall (at_ s)
        | .trap c v s => trapE (at_ s) c v i
    else
      match s.vRead i a (w / 8) with
      | .val x s => vLoop store r nf base rest (s.loadElem reg i x) k
      | .wait s => stall (at_ s)
      | .trap c v s => trapE (at_ s) c v i

/-- Elements and fields from vstart to VL − 1. -/
def State.todo (s : State) (nf : Nat) : List (Nat × Nat) :=
  let from_ := min s.st.vec.vstart.toNat s.st.vec.vl
  (List.range (s.st.vec.vl - from_)).flatMap (fun i => (List.range nf).map (fun f => (from_ + i, f)))

/-- The move of a spill, fill or segment instruction after its force. -/
def vMove (s : State) (i : Instr) (store : Bool) (r : BitVec 5) (nf base : Nat) (k : State → Out) : Out :=
  if !vmtLegal s.st.csr.vmt then trapI s 0x17 i
  else afterFence i s 1 (vLoop store r nf base (s.todo nf) s (fun s => k (s.setVstart 0)))

/-- VSPILL (R176). -/
def execVspill (f : RF) (s : State) : Out :=
  resident s (.vspill f) [f.rs1] (fun s => vMove s (.vspill f) true f.rs2 1 (s.x f.rs1).toNat retire)

/-- VFILL leaves what lies at or above VL undefined, but moves nothing at VL = 0 (04 R105, R106). -/
def State.fillTail (s : State) (d : BitVec 5) : State :=
  let n := s.ew * s.st.vec.vl
  if n = 0 then s
  else s.dirtyIf (s.setV d (BitVec.ofNat 65536 ((Config.fillTail s.tick).toNat / 2 ^ n * 2 ^ n + (s.v d).toNat % 2 ^ n)))

/-- VFILL (R176). -/
def execVfill (f : RF) (s : State) : Out :=
  resident s (.vfill f) [f.rs1] (fun s => vMove s (.vfill f) false f.rd 1 (s.x f.rs1).toNat (fun s => retire (s.fillTail f.rd)))

/-- VLDSG (R175). -/
def execVldsg (f : RF) (s : State) : Out :=
  resident s (.vldsg f) [f.rs1] (fun s => vMove s (.vldsg f) false f.rd (f.rs2.toNat + 1) (s.x f.rs1).toNat retire)

/-- VSTSG (R175). -/
def execVstsg (f : RF) (s : State) : Out :=
  resident s (.vstsg f) [f.rs1] (fun s => vMove s (.vstsg f) true f.rd (f.rs2.toNat + 1) (s.x f.rs1).toNat retire)

/-! ## Permutations (07 R180) -/

/-- What a permutation takes at issue. -/
def State.perm (s : State) (op : PermOp) (f : RF) : Perm :=
  { op := op, rd := f.rd, rs1 := f.rs1, rs2 := f.rs2, n := (s.x f.rs2).toNat, w := s.ew, vl := s.st.vec.vl, pc := s.st.pc }

/-- A permutation behind a pass in flight joins the command queue, once a force has closed the pricking before it (04 R87, Table 4.2). -/
def permuteLater (f : RF) (op : PermOp) (s : State) : Out :=
  retire (s.dirtyIf (s.setVec { s.st.vec.acting (.permute (s.perm op f)) with vstart := 0 }))

/-- A permutation: it forces, and follows the pass. In task mode it waits for the pass in the command queue, and the scalar core goes on
(04 R87); the core waits in stream mode, where it traps, and in supervisor mode, so that no trap of it comes after the return (log 23). -/
def permute (i : Instr) (f : RF) (xs : List (BitVec 5)) (op : PermOp) (s : State) : Out :=
  queueGate s i xs (some 0x12) (
    if s.st.vec.pass.isSome && !s.sup && !vtSm s.st.vec.vtype then forceOn s (permuteLater f op)
    else afterPass s i (forceThen s (fun s =>
      if vtSm s.st.vec.vtype then trapI s 0x12 i
      else
        let p := s.perm op f
        withWords s p.words (fun s => retire (s.putElems f.rd (p.elems s.st.vec))))))

/-- VSLDUP. -/
def execVsldup (f : RF) (s : State) : Out := permute (.vsldup f) f [f.rs2] .sldup s

/-- VSLDDN. -/
def execVslddn (f : RF) (s : State) : Out := permute (.vslddn f) f [f.rs2] .slddn s

/-- VPERM. -/
def execVperm (f : RF) (s : State) : Out := permute (.vperm f) f [] .perm s

/-- VCOMPR. -/
def execVcompr (f : RF) (s : State) : Out := permute (.vcompr f) f [] .compr s

/-- VEXPND. -/
def execVexpnd (f : RF) (s : State) : Out := permute (.vexpnd f) f [] .expnd s

/-- VREV. -/
def execVrev (f : RF) (s : State) : Out := permute (.vrev f) f [] .rev s

end Sys2Proof.Machine
end

