-- ==== Sys2Proof/Machine/HoopIns.lean ====
section
/-! DEFINITION. Machine/HoopIns.lean: the issue of the hoop instructions with their checks (08 R183 to R207), HQ, and the
tile moves (08 R185). -/

namespace Sys2Proof.Machine

/-! ## Checks at issue (08 R207), shared with CPYF's follow-on (05 R126) -/

/-- First use (02 R54, 08 R207): HMOV and HMULF read vtype, and take 0xD2 first. -/
def hoopFirst (s : State) (i : Instr) : Option (BitVec 8) :=
  let vt := match i with
    | .hmov _ | .hmulf _ | .vtroww _ | .vtrowr _ | .vtcolw _ | .vtcolr _ => true
    | _ => false
  if vt && s.st.sstat.vs == 0 then some 0xD2
  else if s.st.sstat.ts = 0 then some 0xD8
  else none

/-- tcfg of a tile. -/
def State.tcfgOf (s : State) (t : Nat) : Word := s.st.mat.tcfg.toList.getD t 0

/-- Whether a tile has a legal shape (02 R47). -/
def State.tileOk (s : State) (t : Nat) : Bool := tcfgLegal (s.tcfgOf t)

/-- The shape of a tile. -/
def State.shape (s : State) (t : Nat) : Shape := shapeOf (s.tcfgOf t)

/-- HLOAD's check (R188). -/
def State.hloadOk (s : State) (t : Nat) (tr : Bool) (x2 : Word) : Bool :=
  let h := s.shape t
  let n := if tr then h.rows else h.cols
  let kt := if tr then h.cols else h.rows
  s.tileOk t && fieldOf x2 7 57 == 0 && hoopFmt h.fmt && decide (1 ≤ n) && decide (n ≤ 64 * s.st.br.g) &&
    decide (fieldOf x2 0 7 + ceilDiv kt (hoopD h.fmt) ≤ 128)

/-- HLOADS's check (R199). -/
def State.hloadsOk (s : State) (t : Nat) (tr : Bool) (x2 : Word) : Bool :=
  let h := s.shape t
  let hm := s.shape (t + 1)
  let kind := fieldOf x2 8 2
  let e := 2 * hoopD h.fmt
  let common := s.tileOk t && s.tileOk (t + 1) && fieldOf x2 7 1 == 0 && fieldOf x2 10 54 == 0 && hoopFmt h.fmt && hm.fmt == 1
  let room := fun n kt : Nat => decide (1 ≤ n) && decide (n ≤ 64 * s.st.br.g) && decide (fieldOf x2 0 7 + ceilDiv kt e ≤ 128)
  if kind < 2 then common && !tr && hm.rows == h.rows && hm.cols == h.cols && room h.rows (2 * h.cols)
  else if kind = 2 then
    let n := 2 * h.cols
    common && h.rows % 4 == 0 && n % 4 == 0 && hm.rows == h.rows / 4 && hm.cols == n / 4 &&
      (if tr then room h.rows n else room n h.rows)
  else false

/-- The checks of a product on its activations: P, KA and their format, against the active buffer (R186, R191). -/
def productOk (b : Latch) (p ka fmt : Nat) : Bool :=
  b.fmt != 0 && hoopPair fmt b.fmt && decide (p ≤ 128) && decide (ka ≤ 128 * b.e)

/-- HMULP's check on its shape word (R193). -/
def hmulpOk (b : Latch) (x2 : Word) : Bool :=
  let c := pshapeOf x2
  fieldOf x2 27 5 == 0 && c.space != 3 && decide (c.k ≤ 4096) && productOk b c.p c.k c.fmt

/-- HMULF's check (R200). -/
def State.hmulfOk (s : State) (a b : Nat) : Bool :=
  let ha := s.shape a
  let hb := s.shape b
  s.tileOk a && s.tileOk b && ha.fmt == 8 && hb.fmt == 8 && decide (ha.rows ≤ 128) && hb.rows == ha.cols &&
    decide (hb.cols ≤ min 64 (32 * s.st.br.g)) && !vtVill s.st.vec.vtype && decide (2 ≤ vtSl s.st.vec.vtype)

/-- HMOV's check (R195). -/
def State.hmovOk (s : State) (t : Nat) : Bool :=
  let h := s.shape t
  s.tileOk t && decide (h.cols ≤ (if h.fmt = 8 then 32 else 64) * s.st.br.g)

/-- The illegal-state checks of a hoop instruction at its place in the hoop order (R207): a cause, or none. -/
def hoopCheck (s : State) (i : Instr) (x1 x2 : Word) : Option (BitVec 8) :=
  match i with
  | .hload f => if s.hloadOk f.rs1.toNat (f.rd = 1) x2 then none else some 0x18
  | .hloads f => if s.hloadsOk f.rs1.toNat (f.rd = 1) x2 then none else some 0x18
  | .hmul f =>
    let h := s.shape f.rs1.toNat
    let tr := f.rd.getLsbD 2
    let p := if tr then h.cols else h.rows
    let ka := if tr then h.rows else h.cols
    if s.tileOk f.rs1.toNat && productOk s.matView.activeBuf p ka h.fmt then none else some 0x18
  | .hmulp _ =>
    if !hmulpOk s.matView.activeBuf x2 then some 0x18
    else
      let c := pshapeOf x2
      if !mfIsPb c.fmt && (x1.toNat % mfSize c.fmt != 0 || c.pitch % mfSize c.fmt != 0) then some 0x58 else none
  | .hmulf f => if s.hmulfOk f.rs1.toNat f.rs2.toNat then none else some 0x18
  | .hmov f => if s.hmovOk f.rd.toNat then none else some 0x18
  | _ => none

/-- The issue of a hoop instruction whose x operands stand in x1 and x2. An HMULP that is misaligned in its pitch alone has the base's address
in stval too (log 90, the model's choice). -/
def hoopIssue (s : State) (i : Instr) (xs : List (BitVec 5)) (x1 x2 : Word) : Out :=
  if s.waitsX xs then waitX i s
  else
    match hoopFirst s i with
    | some c => trapI s c i
    | none =>
      match hoopCheck s i x1 x2 with
      | some c =>
        if c = 0x58 then trapV s c (BitVec.ofNat 64 (s.spaceVa (BitVec.ofNat 64 (pshapeOf x2).space) x1.toNat 1).1) else trapI s c i
      | none => retire (s.matIssue (s.matOp i x1 x2))

/-! ## The hoop instructions -/

/-- TZERO (R184). -/
def execTzero (f : RF) (s : State) : Out := hoopIssue s (.tzero f) [] 0 0

/-- HLOAD (R188). -/
def execHload (f : RF) (s : State) : Out := hoopIssue s (.hload f) [f.rs2] 0 (s.x f.rs2)

/-- HLOADS (R199). -/
def execHloads (f : RF) (s : State) : Out := hoopIssue s (.hloads f) [f.rs2] 0 (s.x f.rs2)

/-- HSWAP (R189). -/
def execHswap (f : RF) (s : State) : Out := hoopIssue s (.hswap f) [] 0 0

/-- HMUL (R191, R192). -/
def execHmul (f : RF) (s : State) : Out := hoopIssue s (.hmul f) [] 0 0

/-- HMULP (R193). -/
def execHmulp (f : RF) (s : State) : Out := hoopIssue s (.hmulp f) [f.rs1, f.rs2] (s.x f.rs1) (s.x f.rs2)

/-- HMULF (R200). -/
def execHmulf (f : RF) (s : State) : Out := hoopIssue s (.hmulf f) [] 0 0

/-- HACC (R194): op 0 reads no x register. -/
def execHacc (f : RF) (s : State) : Out :=
  if f.rs2 = 0 then hoopIssue s (.hacc f) [] 0 0 else hoopIssue s (.hacc f) [f.rs1] (s.x f.rs1) 0

/-- HMOV (R195). -/
def execHmov (f : RF) (s : State) : Out := hoopIssue s (.hmov f) [] 0 0

/-! ## HQ (R206) -/

/-- One more than the highest cell row that holds a present weight. -/
def Latch.top (b : Latch) : Nat :=
  let w := if b.foreign.isNone then b.w.map Prod.fst else (List.range b.n).flatMap (fun j => (b.column j (128 * b.e)).map Prod.fst)
  w.foldl (fun t k => max t (k / b.e + 1)) 0

/-- The descriptor of a buffer as a query returns it (08 Table 8.9). -/
def Latch.query (b : Latch) : Nat :=
  if b.fmt = 0 then 0
  else b.fmt + b.kind * 2 ^ 4 + (if b.t then 2 ^ 6 else 0) + b.n * 2 ^ 8 + b.top * 2 ^ 24

/-- The answer of HQ. -/
def State.hq (s : State) (q : Nat) : Word :=
  BitVec.ofNat 64 (match q with
    | 0 => s.matView.activeBuf.query
    | 1 => s.matView.shadowBuf.query
    | 2 => 128 * 2 ^ 16 + 64 * s.st.br.g
    | _ => (if s.matView.active then 2 ^ 8 else 0) + min 255 s.st.mat.queue.length)

/-- HQ: no force point, and no wait but for an MSAMP or RAMO that has yet to write x[rd]. -/
def execHq (f : RF) (s : State) : Out :=
  if s.waitsX [f.rd] then waitX (.hq f) s
  else if s.st.sstat.ts = 0 then trapI s 0xD8 (.hq f)
  else retire (s.setX f.rd (s.hq f.rs1.toNat))

/-! ## Tile moves (R185) -/

/-- The checks of a tile move before its force: vill, the shape, the index and VL. -/
def State.moveOk (s : State) (t : Nat) (col store : Bool) (x : Word) : Bool :=
  let h := s.shape t
  let vl := s.st.vec.vl
  !vtVill s.st.vec.vtype && s.tileOk t &&
    (if col then decide (x.toNat < h.cols) && decide (vl ≤ h.rows) && !(store && mfIsPb h.fmt)
     else decide (x.toNat < h.rows) && decide (vl ≤ h.cols))

/-- Waits for the hoop instructions before a move (R201). -/
def afterMat (i : Instr) (s : State) (k : Out) : Out := if s.st.mat.queue.isEmpty then k else waitMat i s

/-- The outline of a tile move: first use, its checks, the waits and the force, the stream-mode trap, then the move. -/
def tileMove (s : State) (i : Instr) (t : Nat) (col store : Bool) (xr : BitVec 5) (k : State → Out) : Out :=
  if s.waitsX [xr] then waitX i s
  else
    match hoopFirst s i with
    | some c => trapI s c i
    | none =>
      if !s.moveOk t col store (s.x xr) then trapI s 0x18 i
      else afterPass s i (afterRun i s (forceThen s (fun s =>
        if vtSm s.st.vec.vtype then trapI s 0x12 i else afterMat i s (afterFence i s 4 (k s)))))

/-- The state after a move, in or out: its conversions' flags, vstart 0, and ts dirty (R207). -/
def State.moved (s : State) (fl : FFlags) : State :=
  ((s.setCsr { s.st.csr with vfflags := s.st.csr.vfflags ||| fl }).setVstart 0).dirtyTs

/-- Writes the elements below VL of v[n] to a row or a column of a tile. -/
def moveIn (s : State) (t : Nat) (col : Bool) (x : Nat) (n : BitVec 5) : Out :=
  let h := s.shape t
  let ty := s.st.vec.vtype
  withWords s (wordsOf [n.toNat] s.vlWords) (fun s =>
    let xs := s.elems n
    let r := if col then
        xs.zipIdx.foldl (fun (a : Mat × FFlags) y =>
          let c := if vtEt ty = h.fmt then (y.1, 0) else cvt y.1 (vtEt ty) h.fmt (vtRm ty) (vtSat ty)
          (a.1.put (tileOff t + (h.place y.2 x).1) (mfSize h.fmt) c.1, a.2 ||| c.2)) (s.st.mat, 0)
      else s.st.mat.putRow t h x (vtEt ty) (vtRm ty) (vtSat ty) xs
    let place := fun i : Nat => if col then h.place i x else h.place x i
    let wrote := fun off => (List.range s.st.vec.vl).any (fun i =>
      decide (tileOff t + (place i).1 ≤ off) && decide (off < tileOff t + (place i).1 + (place i).2.1))
    retire (((s.setMat r.1).tileWrote s.st.eng.serial s.st.mat wrote).moved r.2))

/-- Reads a row or a column of a tile into the elements below VL of v[n]. A poisoned word of a tile raises 0x78 (24
R426). -/
def moveOut (s : State) (t : Nat) (col : Bool) (x : Nat) (n : BitVec 5) : Out :=
  let h := s.shape t
  let ty := s.st.vec.vtype
  let at_ := fun i : Nat => if col then (i, x) else (x, i)
  let is := List.range s.st.vec.vl
  match is.find? (fun i => s.st.mat.elemBad t h (at_ i).1 (at_ i).2) with
  | some i =>
    ok ((advance s).raiseOnce { code := 0x78, stval := 0, selem := BitVec.ofNat 64 i, sorig := s.st.pc })
  | none =>
    let cs := is.map (fun i =>
      convIn h.fmt (s.seenMat.raw t h (at_ i).1 (at_ i).2) (h.place (at_ i).1 (at_ i).2).2.2 (vtEt ty) (vtRm ty) (vtSat ty))
    retire ((s.putElems n (cs.map Prod.fst)).moved (cs.foldl (fun a c => a ||| c.2) 0))

/-- VTROWW. -/
def execVtroww (f : RF) (s : State) : Out :=
  tileMove s (.vtroww f) f.rd.toNat false true f.rs2 (fun s => moveIn s f.rd.toNat false (s.x f.rs2).toNat f.rs1)

/-- VTROWR. -/
def execVtrowr (f : RF) (s : State) : Out :=
  tileMove s (.vtrowr f) f.rs1.toNat false false f.rs2 (fun s => moveOut s f.rs1.toNat false (s.x f.rs2).toNat f.rd)

/-- VTCOLW. -/
def execVtcolw (f : RF) (s : State) : Out :=
  tileMove s (.vtcolw f) f.rd.toNat true true f.rs2 (fun s => moveIn s f.rd.toNat true (s.x f.rs2).toNat f.rs1)

/-- VTCOLR. -/
def execVtcolr (f : RF) (s : State) : Out :=
  tileMove s (.vtcolr f) f.rs1.toNat true false f.rs2 (fun s => moveOut s f.rs1.toNat true (s.x f.rs2).toNat f.rd)

end Sys2Proof.Machine
end

