-- ==== Sys2Proof/Machine/SampleIns.lean ====
section
/-! DEFINITION. Machine/SampleIns.lean: the issue of the sampling instructions with their checks (09 R208 to R227). -/

namespace Sys2Proof.Machine

/-- First use of sampling state: its source nibble is 9 (02 R54, 09 R227). -/
def sampFirst (s : State) (i : Instr) (k : Out) : Out := if s.st.sstat.ts = 0 then trapI s 0xD9 i else k

/-- MNRMZ (R211). -/
def execMnrmz (f : RF) (s : State) : Out :=
  let i := Instr.mnrmz f
  sampFirst s i (retire (s.matIssue (s.matOp i 0 0)))

/-- MNORM's chunk word within R212. -/
def chunkOk (c : Chunk) : Bool :=
  c.space != 3 && sampFmt c.fmt && decide (c.cols ≤ 256) && decide (c.row0 + c.rows ≤ 32768)

/-- MNORM (R212). -/
def execMnorm (f : RF) (s : State) : Out :=
  let i := Instr.mnorm f
  let a := s.x f.rs1
  let w := s.x f.rs2
  if s.waitsX [f.rs1, f.rs2] then waitX i s
  else sampFirst s i (
    if !chunkOk (chunkOf w) then trapI s 0x19 i
    else if misplaced (chunkOf w).fmt a.toNat (chunkOf w).pitch then
      trapV s 0x59 (BitVec.ofNat 64 (s.spaceVa (BitVec.ofNat 64 (chunkOf w).space) a.toNat 1).1)
    else retire (s.matIssue (s.matOp i a w)))

/-- MATAB (R213): it waits for the engines before its check on nlen (R227); a poisoned nlen faults when the table is built (24 R426). -/
def execMatab (f : RF) (s : State) : Out :=
  let i := Instr.matab f
  sampFirst s i (afterMat i s (
    let k := s.st.mat.nlen (f.rs1.toNat % 4)
    if !s.st.mat.nlenBad (f.rs1.toNat % 4) ∧ !s.st.mat.nlenBad (f.rs2.toNat % 4) ∧ (s.st.mat.nlen (f.rs2.toNat % 4) ≠ k ∨ k = 0) then trapI s 0x19 i
    else retire (s.matIssue (s.matOp i 0 0))))

/-- The base of the matrix whose base or pitch lies off its format's size, where one does: Aᵀ's before B's, and its base where the pitch
alone does (log 90). -/
def Desc.misplacedAt (d : Desc) : Option Nat :=
  if misplaced d.afmt d.abase d.apitch then some d.abase
  else if misplaced d.bfmt d.bbase d.bpitch then some d.bbase
  else none

/-- MSAMP issues: it clears the statistics, and x[rd] is to come (R221, R222). -/
def msampIssue (f : RF) (s : State) (bs : List Byte) : Out :=
  let o := { s.matOp (.msamp f) (s.x f.rs1) (s.x f.rs2) with desc := bs }
  let s := s.setMat { s.st.mat with scount := 0, smean := 0, svar := 0 }
  let s := s.matIssue o
  retire (if f.rd = 0 then s else s.setEng { s.st.eng with pendX := s.st.eng.pendX ++ [f.rd.toNat] })

/-- A descriptor read at issue; a request for it with no route is reported imprecisely, and the instruction has no effect (23 Tables 23.1
and 23.4; 25 R438). -/
def State.readDesc (s : State) (a : Nat) (k : List Byte → State → Out) : Out :=
  match s.readN a 32 9 .read with
  | .trap c v s => if c = 0xB9 then ok ((advance s).raiseOnce { code := c, stval := v, selem := 0, sorig := s.st.pc }) else trapV s c v
  | g => g.andThen k

/-- MSAMP (R216): it waits for the engines before its check on tk (R227). -/
def execMsamp (f : RF) (s : State) : Out :=
  let i := Instr.msamp f
  let c := s.x f.rs1
  let w := s.x f.rs2
  if s.waitsX [f.rs1, f.rs2, f.rd] then waitX i s
  else sampFirst s i (afterMat i s (
    if fieldOf c 32 32 ≠ 0 ∨ fieldOf w 2 3 ≠ 0 ∨ (!s.st.mat.bad 0x100008 8 ∧ s.st.mat.tk = 0) then trapI s 0x19 i
    else afterFence i s 4 (
      s.readDesc (w.toNat / 32 * 32) (fun bs s =>
        let d := descOf bs
        if !d.legal s.st.br.g then trapI s 0x19 i
        else
          match d.misplacedAt with
          | some a => trapV s 0x59 (BitVec.ofNat 64 (s.spaceVa (BitVec.ofNat 64 d.space) a 1).1)
          | none => msampIssue f s bs))))

/-- MSCALE (R223). -/
def execMscale (f : RF) (s : State) : Out :=
  let i := Instr.mscale f
  if s.waitsX [f.rs1] then waitX i s else sampFirst s i (retire (s.matIssue (s.matOp i (s.x f.rs1) 0)))

end Sys2Proof.Machine
end

