-- ==== Sys2Proof/Machine/CopyIns.lean ====
section
/-! DEFINITION. Machine/CopyIns.lean: the copy and tag instructions (11 R251 to R262, R291; 05 R126) and the events of
the copy engine and of the matrix engines (11 R256 to R258; 25 R439, R440; 08 R204; 09 R222; 23 R408). -/

namespace Sys2Proof.Machine

/-! ## CPY, CPYF, CPYM -/

/-- The command in x[n] to x[n + 3] (R251). -/
def State.command (s : State) (n : BitVec 5) : CopyCmd := cmdOf (s.x n) (s.x (n + 1)) (s.x (n + 2)) (s.x (n + 3))

/-- The registers of a command. -/
def quad (n : BitVec 5) : List (BitVec 5) := [n, n + 1, n + 2, n + 3]

/-- Whether a copy through the tile space takes the first-use trap (R253). -/
def State.tileFirst (s : State) (c : CopyCmd) : Bool := c.tiles && !s.sup && s.st.sstat.ts == 0

/-- The trap of a refused command: 0x6B gives da, the others the word (23 Table 23.3). -/
def copyTrap (s : State) (code : BitVec 8) (i : Instr) (c : CopyCmd) : Out :=
  if code = 0x6B then trapV s code c.da else trapI s code i

/-- A copy that passes its checks waits for its tag and issues (R256). -/
def copyStart (s : State) (i : Instr) (c : CopyCmd) (reps : Option (List Nat)) (k : State → Out) : Out :=
  if s.st.eng.tagBusy c.tag then waitCopy i s (fun p => p.cmd.tag == c.tag) else k (s.copyIssue c reps)

/-- CPY (R258). -/
def execCpy (f : RF) (s : State) : Out :=
  let i := Instr.cpy f
  let c := s.command f.rs1
  if s.waitsX (quad f.rs1) then waitX i s
  else if s.tileFirst c then trapI s 0xD8 i
  else
    match copyBad s.st.br.g c with
    | some code => copyTrap s code i c
    | none => copyStart s i c none retire

/-- CPYM (R260). -/
def execCpym (f : RF) (s : State) : Out :=
  let i := Instr.cpym f
  let c := s.command f.rs1
  let l := s.x f.rs2
  if s.waitsX (f.rs2 :: quad f.rs1) then waitX i s
  else if s.tileFirst c then trapI s 0xD8 i
  else
    match s.multicastBad c l with
    | some code => copyTrap s code i c
    | none => copyStart s i c (some (replicas l)) retire

/-- The follow-on a word stands for: from TZERO to HMOV (05 R126). -/
def followOn (w : Word) : Option Instr :=
  if fieldOf w 32 32 ≠ 0 then none
  else
    match decode (BitVec.ofNat 32 w.toNat) with
    | .ok (.tzero f) => some (.tzero f)
    | .ok (.hload f) => some (.hload f)
    | .ok (.hloads f) => some (.hloads f)
    | .ok (.hswap f) => some (.hswap f)
    | .ok (.hmul f) => some (.hmul f)
    | .ok (.hmulp f) => some (.hmulp f)
    | .ok (.hmulf f) => some (.hmulf f)
    | .ok (.hacc f) => some (.hacc f)
    | .ok (.hmov f) => some (.hmov f)
    | _ => none

/-- The x operands a follow-on names: its first and its second. -/
def followRegs (i : Instr) : Option (BitVec 5) × Option (BitVec 5) :=
  match i with
  | .hload f => (none, some f.rs2)
  | .hloads f => (none, some f.rs2)
  | .hmulp f => (some f.rs1, some f.rs2)
  | .hacc f => (if f.rs2 = 0 then none else some f.rs1, none)
  | _ => (none, none)

/-- The value of an operand, or 0 where the word names none. -/
def State.xOr (s : State) (r : Option (BitVec 5)) : Word :=
  match r with
  | some r => s.x r
  | none => 0

/-- The follow-on joins the hoop order behind the copy with a serial number (R202). -/
def State.followIssue (s : State) (i : Instr) (copy : Nat) : State :=
  let r := followRegs i
  s.matIssue { s.matOp i (s.xOr r.1) (s.xOr r.2) with after := some copy }

/-- CPYF (R258, 05 R126). The command's causes come before the follow-on's 0x18 and 0x58 (log 38). -/
def execCpyf (f : RF) (s : State) : Out :=
  let i := Instr.cpyf f
  let c := s.command f.rs1
  let w := s.x f.rs2
  if s.waitsX (f.rs2 :: quad f.rs1) then waitX i s
  else
    match followOn w with
    | none => trapV s 0x00 w
    | some fo =>
      let r := followRegs fo
      if s.waitsX (r.1.toList ++ r.2.toList) then waitX i s
      else if s.tileFirst c then trapI s 0xD8 i
      else
        match hoopFirst s fo with
        | some code => trapV s code w
        | none =>
          match copyBad s.st.br.g c with
          | some code => copyTrap s code i c
          | none =>
            match hoopCheck s fo (s.xOr r.1) (s.xOr r.2) with
            | some code => trapV s code w
            | none => copyStart s i c none (fun s' => retire (s'.followIssue fo s.st.eng.serial))

/-! ## CPYB (R259) -/

/-- The command in elements 4q to 4q + 3 of a register at i64. -/
def batchCmd (v : VReg) (q : Nat) : CopyCmd :=
  let e := fun j => BitVec.ofNat 64 (elemOf v 64 (4 * q + j))
  cmdOf (e 0) (e 1) (e 2) (e 3)

/-- Whether the batch issues a command: it meets R251, R252, R255 and R253, and its tag is free. -/
def State.batchTakes (s : State) (c : CopyCmd) : Bool :=
  !s.tileFirst c && (copyBad s.st.br.g c).isNone && !s.st.eng.tagBusy c.tag

/-- The commands of a batch in order, with the mask they leave. -/
def batch (v : VReg) (k0 : KReg) (qs : List Nat) (s : State) (k : KReg) : State × KReg :=
  match qs with
  | [] => (s, k)
  | q :: t =>
    let c := batchCmd v q
    let take := k0.getLsbD (4 * q) && s.batchTakes c
    let s' := if take then s.copyIssue c none else s
    let bits := BitVec.ofNat 8192 (15 * 2 ^ (4 * q))
    batch v k0 t s' (if take then k ||| bits else k &&& ~~~bits)

/-- Writes k[n], which is resident from then on. -/
def State.setK (s : State) (n : Fin 8) (r : KReg) : State :=
  let v := s.st.vec
  s.setVec { v with k := v.k.set n r, pk := { v.pk with kb := v.pk.kb.set n none }, answer := none }

/-- CPYB after its force. -/
def batchRun (f : RF) (s : State) : Out :=
  if s.st.vec.vl = 0 then retire s
  else withWords s (wordsOf [f.rs1.toNat] s.st.vec.vl) (fun s =>
    let d := low3 f.rd
    let r := batch (s.v f.rs1) s.st.vec.k[0] (List.range (s.st.vec.vl / 4)) s s.st.vec.k[d]
    retire (r.1.dirtyIf (r.1.setK d r.2)))

/-- CPYB (R259): its 0x1B is tested at issue (R291). -/
def execCpyb (f : RF) (s : State) : Out :=
  let i := Instr.cpyb f
  vecGate s i [] (some 0x1B) (
    if vtEt s.st.vec.vtype ≠ 4 ∨ s.st.vec.vl % 4 ≠ 0 then trapI s 0x1B i
    else forceThen s (fun s => if vtSm s.st.vec.vtype then trapI s 0x12 i else batchRun f s))

/-! ## Tags (R261) -/

/-- Whether a copy on a tag of a mask is in flight. -/
def Copy.ofMask (m : Word) (c : Copy) : Bool := m.getLsbD c.cmd.tag

/-- TWANY. -/
def execTwany (f : RF) (s : State) : Out :=
  let i := Instr.twany f
  let m := s.x f.rs1
  if s.waitsX [f.rs1] then waitX i s
  else if s.st.eng.tagset &&& m = 0 && s.st.eng.copies.any (Copy.ofMask m) then waitCopy i s (Copy.ofMask m)
  else retire s

/-- TWALL. -/
def execTwall (f : RF) (s : State) : Out :=
  let i := Instr.twall f
  let m := s.x f.rs1
  if s.waitsX [f.rs1] then waitX i s
  else if s.st.eng.copies.any (Copy.ofMask m) then waitCopy i s (Copy.ofMask m)
  else retire s

/-- The lowest set bit of a word, or −1. -/
def lowestBit (w : Word) : Word :=
  match (List.range 64).find? (fun i => w.getLsbD i) with
  | some i => BitVec.ofNat 64 i
  | none => -1

/-- TFFR. -/
def execTffr (f : RF) (s : State) : Out :=
  if s.waitsX [f.rd] then waitX (.tffr f) s else retire (s.setX f.rd (lowestBit s.st.eng.tagset))

/-- Tags with a copy in flight. -/
def Eng.flyingTags (e : Eng) : Word := e.copies.foldl (fun a c => a ||| tagBit c.cmd.tag) 0

/-- TCLR. -/
def execTclr (f : RF) (s : State) : Out :=
  if s.waitsX [f.rs1] then waitX (.tclr f) s
  else
    let e := s.st.eng
    let gone := s.x f.rs1 &&& ~~~e.flyingTags
    retire (s.setEng { e with tagset := e.tagset &&& ~~~gone, tagerr := e.tagerr &&& ~~~gone })

/-! ## Events of the copy engine -/

/-- The copy in flight with a serial number. -/
def State.copy? (s : State) (n : Nat) : Option Copy := s.st.eng.copies.find? (fun c => c.serial == n)

/-- COPY_COMPLETE (R256): a copy that nothing stops ends; one that meets a page fault posts its record (25 R442). -/
def execCopyComplete (n : Nat) (s : State) : Out :=
  match s.copy? n with
  | some c =>
    if !s.copyFree c then ok s
    else
      match s.copyTurn c with
      | .ends => ok (s.copyEnd c)
      | .waits hs => ok (s.postHalts c hs)
      | _ => ok s
  | none => ok s

/-- COPY_FAULT_STOP (25 R439): it waits while the record queue is full (11 R290). -/
def execCopyFaultStop (n : Nat) (s : State) : Out :=
  match s.copy? n with
  | some c =>
    match s.failedReplica c, s.copyTurn c with
    | none, .stops e u k va =>
      if s.copyFree c && decide (s.recCount s.st.fe < Config.recordQueue) then ok (s.copyStop c e u k va) else ok s
    | _, _ => ok s
  | none => ok s

/-- CPYM_REPLICA_STOP (25 R440). -/
def execCpymReplicaStop (n r : Nat) (s : State) : Out :=
  match s.copy? n with
  | some c =>
    if (c.reps.getD []).contains r && s.copyFree c && decide (s.recCount s.st.fe < Config.recordQueue) then
      match s.copyTurnTo c r with
      | .stops e 12 k va => ok (s.replicaStop c r e k va)
      | _ => ok s
    else ok s
  | none => ok s

/-! ## Events of the matrix engines -/

/-- The head of the queue, where a test selects it, is performed; one that meets a page fault posts its record. -/
def headDone (sel : MatOp → Bool) (s : State) : Out :=
  match s.st.mat.queue.head? with
  | some o =>
    if sel o then
      match s.matTurn with
      | (.done m, c) => ok (s.matPop m (some c))
      | (.wait h, _) => ok (s.postHalt o.src 0 h)
      | _ => ok s
    else ok s
  | none => ok s

/-- FOLLOW_ON_RUN (R258): a follow-on whose copy has landed. -/
def execFollowOnRun (s : State) : Out := headDone (fun o => o.after.isSome) s

/-- HOOP_OP_COMPLETE (08 R204). -/
def execHoopOpComplete (s : State) : Out := headDone (fun o => o.after.isNone && !o.isMsamp) s

/-- MSAMP_END (09 R222). -/
def execMsampEnd (s : State) : Out := headDone MatOp.isMsamp s

/-! ### ENGINE_FAULT (23 R408) -/

/-- A mismatch that comes again stops the head of the queue in a protected harness: it commits nothing (24 R422, R423). -/
def engineStop (s : State) (kind : Nat) : State :=
  match s.st.mat.queue, s.matTurn.1 with
  | o :: _, .done _ =>
    if kind = 8 ∧ s.st.br.prot then
      (s.mismatch 0 2 (causeOf 8 o.src)).matFail s.st.mat none 8 0 0
    else s
  | _, _ => s

/-- ENGINE_FAULT: kind 0 is the engine's own fault; another kind is a hardware error it meets. -/
def execEngineFault (src kind _elem : Nat) (s : State) : Out :=
  if src = 8 ∨ src = 9 then
    if (s.st.mat.queue.head?.map MatOp.src) ≠ some src then ok s
    else if kind = 0 then
      match s.matTurn with
      | (.fault m k va e, c) => ok (s.matFail m (some c) k va e)
      | _ => ok s
    else ok (engineStop s kind)
  else if src = 10 then ok (s.fabricStop kind 0)
  else if src = 14 then
    match s.st.eng.ramos.find? (fun r => r.res.isNone && s.ramoFree r) with
    | some r =>
      match s.ramoTurn r with
      | .faults k va => if kind = 0 then ok (s.ramoStop r k va) else ok s
      | _ => ok s
    | none => ok s
  else ok s

end Sys2Proof.Machine
end

