-- ==== Sys2Proof/Machine/Sync.lean ====
section
/-! DEFINITION. Machine/Sync.lean: counters, fences, watermarks and the crew barrier (11 R263 to R271, R291; 23 R410). -/

namespace Sys2Proof.Machine

/-! ## Counters (02 R48, 04 R88) -/

/-- The nodes whose streams ctrs counts: those that a pass in flight reads, or one that starts after it, and those of the pricking
that notings join. -/
def State.countNodes (s : State) : List Node :=
  let v := s.st.vec
  ((match v.pass with
    | some p => p.nodes ++ v.ahead.flatMap (fun a => if a.force.isSome then a.pk.passNodes a.stream none else [])
    | none => []) ++ v.newest.nodes).filter (fun n => n.counted)

/-- Load streams and gathers outstanding. -/
def State.ldCount (s : State) : Nat := (s.countNodes.filter (fun n => n.op.isLoad)).length

/-- Store streams, scatters and atomics outstanding. -/
def State.stCount (s : State) : Nat :=
  (s.countNodes.filter (fun n => n.op == .store || n.op == .storex || n.op == .amo)).length

/-- ctrs (02 Table 2.9). -/
def State.ctrs (s : State) : Word :=
  BitVec.ofNat 64 (min 255 s.ldCount + min 255 s.stCount * 2 ^ 8 + min 255 s.st.eng.copies.length * 2 ^ 16 +
    min 255 s.st.mat.queue.length * 2 ^ 24)

/-- WAITC (R263); with a limit on streams it takes 0x12 in supervisor mode while a pass is held (23 R402). -/
def execWaitc (f : IF) (s : State) : Out :=
  let lim := fun lo : Nat => f.imm.toNat / 2 ^ lo % 8
  let above := fun n lo : Nat => lim lo != 7 && decide (lim lo < n)
  let i := Instr.waitc f
  let counts := lim 9 ≠ 7 ∨ lim 6 ≠ 7
  let s' := if counts then force s else s
  if counts ∧ s'.sup ∧ s'.st.vec.pass.any (fun p => p.held) then trapI s' 0x12 i
  else if above s'.ldCount 9 || above s'.stCount 6 then afterPass s' i (ok s')
  else if above s'.st.eng.copies.length 3 then waitCopy i s' (fun _ => true)
  else if above s'.st.mat.queue.length 0 then waitMat i s'
  else retire s'

/-! ## Fences (R265) -/

/-- A FENCEP that orders path a before S is done: of what path a and other agents wrote until now, a FENCE.I can supply the new words (05
R111; log 85). -/
def State.fencedFetch (s : State) (a : Nat) : State :=
  let n := s.wlog.length
  { s with st := { s.st with icFence := Vector.ofFn (fun c : Fin 8 => if c.val = 0 ∨ c.val = a then n else s.st.icFence[c]) } }

/-- FENCEP. -/
def execFencep (f : RF) (s : State) : Out :=
  let i := Instr.fencep f
  let a := f.rs1.toNat
  let b := f.rs2.toNat
  let v := a = 1 ∨ b = 1
  let s' := if v then force s else s
  if v ∧ s.sup ∧ s.st.vec.pass.any (fun p => p.held) then trapI s 0x12 i
  else if b = 0 then afterClass s' i a 0 (retire ((s'.setEng (s'.st.eng.ordered a 0)).fencedFetch a))
  else retire (s'.addFence a b)

/-- Every path of the strand observes what its copies have performed (11 R262). -/
def State.observesAll (s : State) : State := if s.st.eng.unseen.isEmpty then s else s.setEng { s.st.eng with unseen := [] }

/-- After a FENCE, a FENCE.I can supply everything written until now (05 R111). -/
def State.fencedAll (s : State) : State := { s with st := { s.st with icFence := Vector.replicate 8 s.wlog.length } }

/-- FENCE, whatever its fields hold: every path before every path. -/
def execFence (fm pred succ : BitVec 4) (rs1 rd : BitVec 5) (s : State) : Out :=
  let s' := force s
  afterAll s' (.fence fm pred succ rs1 rd) (retire s'.observesAll.fencedAll)

/-! ## Watermarks (R266) -/

/-- WMSET: the object word's reserved bits are zero (R291). -/
def execWmset (f : RF) (s : State) : Out :=
  if s.waitsX [f.rs1, f.rs2] then waitX (.wmset f) s
  else if 64 ≤ (s.x f.rs1).toNat ∨ fieldOf (s.x f.rs2) 41 22 ≠ 0 then trapI s 0x1F (.wmset f)
  else retire (s.mapCtx (fun c => c.setObject (s.x f.rs1).toNat (s.x f.rs2)))

/-- WMGET. -/
def execWmget (f : RF) (s : State) : Out :=
  if s.waitsX [f.rs1, f.rd] then waitX (.wmget f) s
  else if 64 ≤ (s.x f.rs1).toNat then trapI s 0x1F (.wmget f)
  else retire (s.setX f.rd (s.object (s.x f.rs1).toNat))

/-! ## The crew barrier (R271) -/

/-- The latest phase a strand of a crew has arrived in; 0 before its first arrival. -/
def Crew.phaseOf (c : Crew) (sidx : Nat) : Nat := (lookup c.arrived sidx).getD 0

/-- Whether every strand of the crew has ended or has arrived in a phase. -/
def Crew.phaseDone (c : Crew) (phase : Nat) : Bool :=
  (List.range c.pkt.crew).all (fun i => c.ended.contains i || decide (phase ≤ c.phaseOf i))

/-- Whether a phase of the strand's crew has passed; a strand with no crew is alone. -/
def State.phaseDone (s : State) (phase : Nat) : Bool :=
  match s.crewOf? s.st with
  | some c => c.phaseDone phase
  | none => true

/-- The strand's arrival in its next phase. -/
def State.arrive (s : State) (a : Arrival) : State :=
  (s.mapCrews (fun c => if s.st.ofCrew c then { c with arrived := insert c.arrived s.st.br.sidx a.phase } else c)).setEng
    { s.st.eng with arrival := some a }

/-- The phase a strand arrives in next. -/
def State.nextPhase (s : State) : Nat :=
  match s.crewOf? s.st with
  | some c => c.phaseOf s.st.br.sidx + 1
  | none => 1

/-- A wait for a phase: it completes once the phase has passed. -/
def phaseWait (s : State) (a : Arrival) : Out :=
  if s.phaseDone a.phase then retire (s.observesAll.setEng { s.observesAll.st.eng with arrival := none })
  else ok (s.setEng { s.st.eng with arrival := some { a with waitPc := some s.st.pc } })

/-- The arrival of a strand, whose request is lost where an error says so: posted once or not at all (25 R438, Table 25.1). -/
def arriveThen (s : State) (a : Arrival) (k : State → Out) : Out :=
  (s.sends 15 0 (fun s => s.arrive a)).andThen (fun _ s => k s)

/-- BARA. -/
def execBara (f : RF) (s : State) : Out :=
  let i := Instr.bara f
  if s.st.eng.arrival.isSome then trapI s 0xCF i
  else
    let s' := force s
    afterAll s' i (arriveThen s' { phase := s'.nextPhase, barc := false, waitPc := none } retire)

/-- BARW. -/
def execBarw (f : RF) (s : State) : Out :=
  match s.st.eng.arrival with
  | some a => phaseWait s a
  | none => trapI s 0xCF (.barw f)

/-- BARC: arrival and wait in one; run again while it waits, it does not arrive again (02 R55). -/
def execBarc (f : RF) (s : State) : Out :=
  let i := Instr.barc f
  match s.st.eng.arrival with
  | some a => if a.barc && a.waitPc == some s.st.pc then phaseWait s a else trapI s 0xCF i
  | none =>
    let s' := force s
    afterAll (s'.setEng { s'.st.eng with barcAt := some s'.st.pc }) i (
      let a : Arrival := { phase := s'.nextPhase, barc := true, waitPc := some s'.st.pc }
      arriveThen (s'.setEng { s'.st.eng with barcAt := none }) a (fun s => phaseWait s a))

/-- Whether the strand waits in BARC or BARW at its pc, for its earlier accesses or for the phase (02 R55). -/
def State.atBarrier (s : State) : Bool :=
  match s.st.eng.arrival with
  | some a => a.waitPc == some s.st.pc
  | none => s.st.eng.barcAt == some s.st.pc

/-- BARRIER_PHASE_PASS: a waiting BARC or BARW proceeds. -/
def execBarrierPhasePass (s : State) : Out :=
  match s.st.eng.arrival with
  | some a => if s.atBarrier && s.phaseDone a.phase then phaseWait s a else ok s
  | none => ok s

/-- BARRIER_TIMEOUT (23 R410): BARC or BARW has waited 1 s for its phase. -/
def execBarrierTimeout (s : State) : Out :=
  match s.st.eng.arrival with
  | some a => if s.atBarrier && !s.phaseDone a.phase then trapV s 0xAF 0 else ok s
  | none => ok s

end Sys2Proof.Machine
end

