-- ==== Sys2Proof/Machine/Csr.lean ====
section
/-! DEFINITION. Machine/Csr.lean: the CSRs (02 R41 to R54; 05 R109, R110). -/

namespace Sys2Proof.Machine

/-! ## Values -/

/-- Arithmetic-clock cycles since the bind (R49; log 7). -/
def State.cycles (s : State) : Word :=
  BitVec.ofNat 64 ((List.range (s.tick - s.st.boundAt)).foldl (fun a i => a + Config.gap (2 * (s.st.boundAt + i) + 1)) 0)

/-- harn (Table 2.9). -/
def State.harn (s : State) : Word :=
  BitVec.ofNat 64 (s.st.br.g % 8 + s.st.lanes % 2 ^ 8 * 2 ^ 8 + (if s.st.br.prot then 2 ^ 16 else 0) + s.st.fe % 2 ^ 9 * 2 ^ 32)

/-- sstat (Table 2.11). -/
def State.sstatWord (s : State) : Word :=
  let c := s.st.sstat
  BitVec.ofNat 64 (c.vs.toNat + c.ts.toNat * 2 ^ 2 + (if c.mode then 2 ^ 5 else 0) + (if c.pmode then 2 ^ 6 else 0) +
    (if c.pp then 2 ^ 7 else 0) + (if s.st.br.lc then 2 ^ 8 else 0) + (if s.st.br.prot then 2 ^ 9 else 0))

/-- sctx (R52). -/
def State.sctx (s : State) : Word := BitVec.ofNat 64 (s.st.br.asid % 2 ^ 14 + s.st.br.ctx * 2 ^ 14)

/-- The value of a CSR. -/
def State.csrVal (s : State) (a : BitVec 12) : Word :=
  let c := s.st.csr
  match a.toNat with
  | 0x001 => s.st.fflags.zeroExtend 64
  | 0x002 => s.st.frm.zeroExtend 64
  | 0x003 => BitVec.ofNat 64 (s.st.fflags.toNat + s.st.frm.toNat * 2 ^ 5)
  | 0xC00 | 0xCCB => s.cycles
  | 0xC01 => s.time
  | 0xC02 => s.st.instret
  | 0x800 => s.st.vec.vstart
  | 0x801 => c.vmt
  | 0x802 => c.vslip
  | 0x803 => c.vfflags.zeroExtend 64
  | 0x804 => c.vkey
  | 0x805 => c.vctr
  | 0x810 => s.st.mat.tcfg[0] | 0x811 => s.st.mat.tcfg[1] | 0x812 => s.st.mat.tcfg[2] | 0x813 => s.st.mat.tcfg[3]
  | 0x814 => s.st.mat.tcfg[4] | 0x815 => s.st.mat.tcfg[5] | 0x816 => s.st.mat.tcfg[6] | 0x817 => s.st.mat.tcfg[7]
  | 0x820 => c.skey
  | 0x821 => c.sbase
  | 0x822 => c.smin
  | 0x823 => c.stau
  | 0x824 => c.smode
  | 0xCC0 => BitVec.ofNat 64 (s.st.vec.vl % 2 ^ 40)
  | 0xCC1 => s.st.vec.vtype
  | 0xCC2 => BitVec.ofNat 64 (s.vlq 0)
  | 0xCC3 => s.harn
  | 0xCC4 => s.st.eng.tagset
  | 0xCC5 => s.st.eng.tagerr
  | 0xCC6 => s.ctrs
  | 0xCC8 => s.st.mat.scount
  | 0xCC9 => s.st.mat.smean
  | 0xCCA => s.st.mat.svar
  | 0x5C0 => c.scause
  | 0x5C1 => c.sepc
  | 0x5C2 => c.stval
  | 0x5C3 => c.selem
  | 0x5C4 => c.sorig
  | 0x5C5 => s.sstatWord
  | 0x5C6 => c.stvec
  | 0x5C7 => c.sscratch
  | 0x5C8 => s.sctx
  | 0x5C9 => c.sresume
  | _ => 0

/-! ## Gates (R41, R54) -/

/-- A supervisor CSR. -/
def csrSup (a : BitVec 12) : Bool := decide (0x5C0 ≤ a.toNat) && decide (a.toNat ≤ 0x5C9)

/-- The first-use trap of a CSR, by the state it covers (R54). -/
def State.csrFirst (s : State) (a : BitVec 12) : Option (BitVec 8) :=
  let n := a.toNat
  if n = 0xCC0 ∨ n = 0xCC1 ∨ n = 0x800 then (if s.st.sstat.vs = 0 then some 0xD2 else none)
  else if 0x810 ≤ n ∧ n ≤ 0x817 then (if s.st.sstat.ts = 0 then some 0xD8 else none)
  else if 0xCC8 ≤ n ∧ n ≤ 0xCCA then (if s.st.sstat.ts = 0 then some 0xD9 else none)
  else none

/-- A CSR that a set-length behind a pass has yet to write: vl, vtype, vlcap and vstart (06 R153). -/
def State.csrWaits (s : State) (a : BitVec 12) : Bool :=
  (a == 0xCC0 || a == 0xCC1 || a == 0xCC2 || a == 0x800) && s.st.vec.asks Vec.lengthAsked

/-- Before a CSR instruction takes effect: its x operands stand, its mode may access the CSR, the state behind the CSR is on, and a
set-length in the command queue has written it. -/
def csrGate (s : State) (i : Instr) (c : CsrF) (k : Out) : Out :=
  if s.waitsX (if c.uimm then [c.rd] else [c.src, c.rd]) then waitX i s
  else if csrSup c.csr && !s.sup then trapI s 0x2F i
  else
    match s.csrFirst c.csr with
    | some code => trapI s code i
    | none => if s.csrWaits c.csr then waitX i s else k

/-! ## Reads and writes -/

/-- The source value of a Zicsr instruction. -/
def State.csrSrc (s : State) (c : CsrF) : Word := if c.uimm then c.src.zeroExtend 64 else s.x c.src

/-- The value a Zicsr instruction writes. -/
def csrNew (o : CsrOp) (old src : Word) : Word :=
  match o with
  | .rw => src
  | .rs => old ||| src
  | .rc => old &&& ~~~src

/-- A Zicsr instruction whose write is put. -/
def csrStep (s : State) (i : Instr) (c : CsrF) (put : Word → State → State) : Out :=
  csrGate s i c (
    let old := s.csrVal c.csr
    retire ((put (csrNew c.op old (s.csrSrc c)) s).setX c.rd old))

/-- A Zicsr instruction that only reads. -/
def csrReadStep (s : State) (i : Instr) (c : CsrF) : Out := csrGate s i c (retire (s.setX c.rd (s.csrVal c.csr)))

/-- A write of a CSR that has no behaviour of its own; reserved fields read as zero (00 R6). -/
def State.csrPut (s : State) (a : BitVec 12) (v : Word) : State :=
  let c := s.st.csr
  match a.toNat with
  | 0x001 => { s with st := { s.st with fflags := v.truncate 5 } }
  | 0x002 => { s with st := { s.st with frm := v.truncate 3 } }
  | 0x003 => { s with st := { s.st with fflags := v.truncate 5, frm := (v >>> 5).truncate 3 } }
  | 0x800 => s.setVstart v
  | 0x804 => s.setCsr { c with vkey := v }
  | 0x805 => s.setCsr { c with vctr := v }
  | 0x820 => s.setCsr { c with skey := v }
  | 0x821 => s.setCsr { c with sbase := v }
  | 0x822 => s.setCsr { c with smin := BitVec.ofNat 64 (v.toNat % 2 ^ 32) }
  | 0x823 => s.setCsr { c with stau := v }
  | 0x824 => s.setCsr { c with smode := v &&& 3 }
  | 0x5C0 => s.setCsr { c with scause := v &&& 0x3FF }
  | 0x5C1 => s.setCsr { c with sepc := v }
  | 0x5C2 => s.setCsr { c with stval := v }
  | 0x5C3 => s.setCsr { c with selem := v }
  | 0x5C4 => s.setCsr { c with sorig := v }
  | 0x5C6 => s.setCsr { c with stvec := v }
  | 0x5C7 => s.setCsr { c with sscratch := v }
  | 0x5C9 => s.setCsr { c with sresume := v }
  | _ => s

/-- CSR_WRITE (R41). -/
def execCsrWrite (c : CsrF) (s : State) : Out := csrStep s (.csrWrite c) c (fun v s => s.csrPut c.csr v)

/-- VFFLAGS_WRITE (R46): it waits for the pass in flight. -/
def execVfflagsWrite (c : CsrF) (s : State) : Out :=
  let i := Instr.vfflagsWrite c
  csrGate s i c (afterPass s i (csrStep s i c (fun v s => s.setCsr { s.st.csr with vfflags := v.truncate 5 })))

/-- The slip a write to vslip stores (R46). -/
def slipOf (v : Word) : Word := BitVec.ofNat 64 (max 1 (min 16 (fieldOf v 0 5)))

/-- VSLIP_WRITE (R46). -/
def execVslipWrite (c : CsrF) (s : State) : Out :=
  csrStep s (.vslipWrite c) c (fun v s => s.setCsr { s.st.csr with vslip := slipOf v })

/-- VMT_WRITE (R45): as written, reserved bits included. -/
def execVmtWrite (c : CsrF) (s : State) : Out :=
  csrStep s (.vmtWrite c) c (fun v s => s.setCsr { s.st.csr with vmt := v })

/-- The state with tcfg t replaced; ts becomes dirty where that changes it (R54). -/
def State.setTcfg (s : State) (t : Nat) (v : Word) : State :=
  if s.st.mat.tcfg.toList.getD t 0 = v then s
  else (s.setMat { s.st.mat with tcfg := s.st.mat.tcfg.setIfInBounds t v }).dirtyTs

/-- TCFG_WRITE (R47): as written; no tile byte changes. -/
def execTcfgWrite (c : CsrF) (s : State) : Out :=
  csrStep s (.tcfgWrite c) c (fun v s => s.setTcfg (c.csr.toNat - 0x810) v)

/-- SSTAT_WRITE (R54, Table 2.11): pmode and the dirty-state fields; a write of them changes no state they cover. -/
def execSstatWrite (c : CsrF) (s : State) : Out :=
  csrStep s (.sstatWrite c) c (fun v s =>
    s.setSStat { s.st.sstat with pmode := v.getLsbD 6, ts := v.extractLsb' 2 2, vs := v.extractLsb' 0 2 })

/-- SAMPLING_STATS_READ (R49): it waits for every earlier MSAMP. -/
def execSamplingStatsRead (c : CsrF) (s : State) : Out :=
  let i := Instr.samplingStatsRead c
  csrGate s i c (if s.st.mat.queue.any MatOp.isMsamp then waitMat i s else csrReadStep s i c)

end Sys2Proof.Machine
end

