-- ==== Sys2Proof/Machine/Launch.lean ====
section
/-! DEFINITION. Machine/Launch.lean: launch packets, ports and queues, and SIG (14 R339 to R342; 11 R272; 23 R413). -/

namespace Sys2Proof.Machine

/-! ## Packets (14 Table 14.1) -/

/-- Word i of a line. -/
def lineWord (l : BitVec 512) (i : Nat) : Word := l.extractLsb' (64 * i) 64

/-- The launch packet of two lines. -/
def launchOf (a b : BitVec 512) : Launch :=
  { entry := lineWord a 0, crew := fieldOf (lineWord a 1) 48 10, hold := (lineWord a 1).getLsbD 46,
    lc := (lineWord a 1).getLsbD 45, prot := (lineWord a 1).getLsbD 44, g := fieldOf (lineWord a 1) 41 3,
    n := fieldOf (lineWord a 1) 0 41, ctx := fieldOf (lineWord a 2) 0 50, cq := lineWord a 3,
    pre0 := fieldOf (lineWord a 4) 32 32, task := fieldOf (lineWord a 4) 0 32, thr := fieldOf (lineWord a 5) 39 25,
    wen := (lineWord a 5).getLsbD 38, wobj := fieldOf (lineWord a 5) 32 6, pre1 := fieldOf (lineWord a 5) 0 32,
    args := Vector.ofFn (fun i : Fin 10 => if i.val < 2 then lineWord a (6 + i.val) else lineWord b (i.val - 2)) }

/-- Whether a reserved field of a packet's first line is non-zero. -/
def launchRsvd (a : BitVec 512) : Bool :=
  fieldOf (lineWord a 1) 58 6 != 0 || (lineWord a 1).getLsbD 47 || fieldOf (lineWord a 2) 50 14 != 0

/-! ## Queues (14 R341, R342) -/

/-- A queue as a new context has it (14 R342). -/
def Queue.new : Queue := { pri := 0, waiting := [], half := none, refused := 0 }

/-- Queue q of a context. -/
def Context.queue (c : Context) (q : Nat) : Queue := (lookup c.queues q).getD Queue.new

/-- The context with a queue changed. -/
def Context.mapQueue (c : Context) (q : Nat) (f : Queue → Queue) : Context :=
  { c with queues := insert c.queues q (f (c.queue q)) }

/-- The context with a handle. -/
def State.ctx? (s : State) (h : Nat) : Option Context := s.fw.contexts.find? (fun c => c.handle == h)

/-- The context with an ASID that is not being destroyed: its launch window lies at 64 KiB times the ASID (14 Table 14.6). -/
def State.ctxAsid? (s : State) (a : Nat) : Option Context := s.fw.contexts.find? (fun c => c.asid == a && !c.dying)

/-- The state with the context of a handle changed. -/
def State.mapCtxOf (s : State) (h : Nat) (f : Context → Context) : State :=
  { s with fw := { s.fw with contexts := s.fw.contexts.map (fun c => if c.handle == h then f c else c) } }

/-- The state with a queue of a context changed. -/
def State.mapQueue (s : State) (h q : Nat) (f : Queue → Queue) : State := s.mapCtxOf h (fun c => c.mapQueue q f)

/-- The port counts a refused packet or a discarded write (Table 14.2). -/
def Queue.refuse (q : Queue) : Queue := { q with refused := (q.refused + 1) % 2 ^ 16 }

/-- Why a packet is refused: the first reason of 23 Table 23.8 that holds (R340). -/
def launchBad (a : BitVec 512) (p : Launch) (handle waiting : Nat) : Option Nat :=
  if launchRsvd a then some 0
  else if p.g ≠ 1 ∧ p.g ≠ 2 ∧ p.g ≠ 4 then some 1
  else if p.crew = 0 ∨ Config.frontEnds / p.g < p.crew then some 2
  else if p.entry.toNat % 4 ≠ 0 then some 3
  else if p.task = 0 then some 4
  else if p.ctx ≠ handle then some 5
  else if 64 ≤ waiting then some 6
  else none

/-- Whether a completion-queue address is a canonical global address (R340, 12 R293, R294). -/
def cqUsable (cq : Word) : Bool := canonical cq.toNat && decide (cq.toNat < 0xFFFFFF0000000000)

/-- A stack's firmware posts a record in its record queue; while that is full, the record waits behind it, under 1,024 and the
stack's number (23 R409). -/
def State.postFirmware (s : State) (stack : Nat) (r : Rec) : State :=
  s.postRec (if Config.recordQueue ≤ s.recCount (512 + stack) then 1024 + stack else 512 + stack) r

/-- The record of a refused packet, posted by the firmware of the stack that received it (R340; 23 R413). -/
def State.refusedRec (s : State) (stack handle : Nat) (p : Launch) (reason : Nat) : State :=
  if cqUsable p.cq then
    s.postFirmware stack
      { w0 := recWord0 0 0x1F 1 0xFF (BitVec.ofNat 32 p.task), w1 := p.entry, w2 := recWord2 0 (BitVec.ofNat 64 reason),
        w3 := s.time, ctx := handle, cq := p.cq, isTask := false, ev := none, lost := none }
  else s

/-- A complete packet at a port: refused, or appended to its queue (R340, R341). -/
def State.takePacket (s : State) (stack handle q : Nat) (a b : BitVec 512) : State :=
  match s.ctx? handle with
  | none => s
  | some c =>
    let p := launchOf a b
    match launchBad a p handle (c.queue q).waiting.length with
    | some r => (s.mapQueue handle q Queue.refuse).refusedRec stack handle p r
    | none =>
      s.mapQueue handle q (fun u => { u with waiting := u.waiting ++ [{ pkt := p, age := 0, cnum := none, at_ := s.tick }] })

/-- A whole write of line 0 (R341). -/
def State.line0 (s : State) (handle q : Nat) (a : BitVec 512) : State := s.mapQueue handle q (fun u => { u with half := some a })

/-- A whole write of line 1 (R341). -/
def State.line1 (s : State) (stack handle q : Nat) (b : BitVec 512) : State :=
  match (s.ctx? handle).bind (fun c => (c.queue q).half) with
  | some a => (s.mapQueue handle q (fun u => { u with half := none })).takePacket stack handle q a b
  | none => s.mapQueue handle q Queue.refuse

/-- A write to the port of an ASID's window: a context owns the window, and it has 256 ports. With no route left it is lost (25
R437). -/
def portWrite (asid q : Nat) (s : State) (f : Context → State) : Out :=
  if 16384 ≤ asid then .fault (.noSuchUnit asid)
  else if 256 ≤ q then .fault (.noSuchUnit q)
  else
    match s.ctxAsid? asid with
    | some c => if s.dieReaches 0 s.fw.coordinator then ok (f c) else ok s
    | none => ok s

/-- LAUNCH_LINE0_WRITE. -/
def execLaunchLine0Write (asid queue : Nat) (data : BitVec 512) (s : State) : Out :=
  portWrite asid queue s (fun c => s.line0 c.handle queue data)

/-- LAUNCH_LINE1_WRITE: a host's write is received by the coordinator's stack. -/
def execLaunchLine1Write (asid queue : Nat) (data : BitVec 512) (s : State) : Out :=
  portWrite asid queue s (fun c => s.line1 s.fw.coordinator c.handle queue data)

/-- PORT_WRITE_DISCARD. -/
def execPortWriteDiscard (asid queue : Nat) (s : State) : Out :=
  portWrite asid queue s (fun c => s.mapQueue c.handle queue Queue.refuse)

/-- The status word of a port (14 Table 14.2): pend holds at 64, also where crews that wait again bring the queue above it (log 92). -/
def Queue.statusWord (q : Queue) : Word :=
  BitVec.ofNat 64 (q.pri % 8 * 2 ^ 40 + q.refused % 2 ^ 16 * 2 ^ 16 + (if q.half.isSome then 2 ^ 7 else 0) + min 64 q.waiting.length)

/-- The host reads an aligned word of a port: packet bytes are write-only and read as zero; the status word stands at offset 128 (14
Tables 14.1, 14.2; 00 R5). -/
def State.portRead (s : State) (asid queue off : Nat) : State :=
  match (s.ctxAsid? asid).filter (fun _ => decide (queue < 256) && s.dieReaches 0 s.fw.coordinator) with
  | some c => { s with host := s.host ++ [.portWord asid queue off (if off = 128 then (c.queue queue).statusWord else 0)] }
  | none => s

/-! ## SIG (11 R272, R291) -/

/-- Whether an event that the strand has posted still waits in a record queue. -/
def State.eventWaits (s : State) : Bool :=
  s.recq.any (fun p => p.2.ctx == s.st.br.ctx && p.2.ev == some (s.st.br.cnum, s.st.br.sidx))

/-- SIG kind 0: both lines of the packet reach the port as one pair (14 R341), after the strand's earlier events (R272). -/
def sigLaunch (f : RF) (q : Nat) (s : State) : Out :=
  let a := s.x f.rs2
  if 0xFFFFFF0000000000 ≤ a.toNat then trapV s 0x4F a
  else if s.eventWaits then stall s
  else
    (s.readN a.toNat 128 15 .read).andThen (fun bs s =>
      let l0 := BitVec.ofNat 512 (leNat (bs.take 64))
      let l1 := BitVec.ofNat 512 (leNat (bs.drop 64))
      let h := s.st.br.ctx
      let post := fun s : State => (s.line0 h q l0).line1 (stackOf s.st.fe) h q l1
      (s.sends 15 a.toNat post).andThen (fun _ s => retire s))

/-- The record of a SIG of kind 1. -/
def State.sigRec (s : State) (f : RF) : State :=
  s.postRec s.st.fe { s.strandRec 2 0 0 0xFF (s.x f.rs2) (origOf s.st.pc s.entryOf) 0 with ev := some (s.st.br.cnum, s.st.br.sidx) }

/-- SIG kind 1: an event record; it waits while the record queue is full. An event that is lost was posted or not (25 R438). -/
def sigEvent (f : RF) (s : State) : Out :=
  if Config.recordQueue ≤ s.recCount s.st.fe then stall s
  else
    (s.sends 15 (s.x f.rs2).toNat (fun s => s.sigRec f)).andThen (fun _ s => retire s)

/-- SIG. Its target word is tested before the alignment of the packet's address (log 84, the model's choice). -/
def execSig (f : RF) (s : State) : Out :=
  let i := Instr.sig f
  let w := s.x f.rs1
  if s.waitsX [f.rs1, f.rs2] then waitX i s
  else if 2 ≤ fieldOf w 0 2 ∨ fieldOf w 2 8 ≠ 0 ∨ fieldOf w 18 46 ≠ 0 then trapI s 0x1F i
  else if fieldOf w 0 2 = 0 ∧ (s.x f.rs2).toNat % 64 ≠ 0 then trapV s 0x5F (s.x f.rs2)
  else
    let s' := force s
    afterAll s' i (if fieldOf w 0 2 = 0 then sigLaunch f (fieldOf w 10 8) s' else sigEvent f s')

end Sys2Proof.Machine
end

