-- ==== Sys2Proof/Machine/End.lean ====
section
/-! DEFINITION. Machine/End.lean: how strands leave their slots: TEND, SYIELD, kills and the deadlines of a pre-emption (11
R273, R287; 02 R55; 23 R411, R412; 25 R446, R447). -/

namespace Sys2Proof.Machine

/-! ## Slots -/

/-- A free slot with a zero record. -/
def Slot.empty : Slot := { state := .free, br := BindRec.zero, left := none }

/-- The slot of a front end. -/
def State.slot (s : State) (fe : Nat) : Slot := (lookup s.slots fe).getD Slot.empty

/-- The state with a slot changed. -/
def State.mapSlot (s : State) (fe : Nat) (f : Slot → Slot) : State := { s with slots := insert s.slots fe (f (s.slot fe)) }

/-- The front ends that a strand of gang g led at fe occupies (01 R15). -/
def spanOf (fe g : Nat) : List Nat := (List.range g).map (fun i => fe + i)

/-- A slot that frees is held for the reservation (14 R352). -/
def State.noteFree (s : State) (fe : Nat) : State :=
  { s with fw := { s.fw with reservation := s.fw.reservation.map (fun r => { r with held := fe :: r.held }) } }

/-- What a strand leaves on a front end it occupied (14 R348). -/
def Strand.leaves (t : Strand) (fe : Nat) : Left :=
  { asid := t.br.asid, g := t.br.g, leader := t.fe, halves := t.br.halves,
    mat := if fe = t.fe then some { t.mat with queue := [] } else none }

/-- The strand whose turn it is leaves its front ends, whose slots take a state and, at the leader, a record. -/
def State.unbind (s : State) (to_ : SlotState) (br : BindRec) : State :=
  let t := s.st
  let s := (spanOf t.fe t.br.g).foldl (fun s fe =>
    let s := s.mapSlot fe (fun u => { state := to_, br := if fe = t.fe then br else u.br, left := some (t.leaves fe) })
    if to_ = .free then s.noteFree fe else s) s
  { s with st := Strand.reset, pfWaits := s.pfWaits.filter (fun w => w.fe != t.fe || w.src == 31) }

/-! ## Crews -/

/-- The crew of a number and a context. -/
def State.crew? (s : State) (ctx cnum : Nat) : Option Crew := s.fw.crews.find? (fun c => c.cnum == cnum && c.pkt.ctx == ctx)

/-- Whether two crews are the same. -/
def Crew.same (c d : Crew) : Bool := c.cnum == d.cnum && c.pkt.ctx == d.pkt.ctx

/-- The state with one crew changed. -/
def State.mapCrew (s : State) (c : Crew) (f : Crew → Crew) : State := s.mapCrews (fun d => if c.same d then f d else d)

/-- The strands of a crew changed. -/
def State.mapStrands (s : State) (c : Crew) (f : Strand → Strand) : State :=
  let g := fun t : Strand => if t.ofCrew c then f t else t
  { s with st := g s.st, others := s.others.map g }

/-- Strand indices of a crew. -/
def Crew.indices (c : Crew) : List Nat := List.range c.pkt.crew

/-- Whether every strand of a crew has ended or yielded (02 R55). -/
def Crew.gone (c : Crew) : Bool := c.indices.all (fun i => c.ended.contains i || c.yielded.contains i)

/-- Leaders of the strands that have neither ended nor yielded. -/
def Crew.liveLeaders (c : Crew) : List Nat :=
  ((c.indices.zip c.leaders).filter (fun p => !c.ended.contains p.1 && !c.yielded.contains p.1)).map Prod.snd

/-- The stacks that a crew's placement put it on. -/
def Crew.stacks (c : Crew) : List Nat := c.placed.map stackOf

/-- The stacks of a locked-clock crew that has left return to nominal clock; those entered for a task not yet placed stay. -/
def State.leaveClock (s : State) (c : Crew) : State :=
  let used := fun k : Nat => s.fw.crews.any (fun d => d.pkt.lc && !d.gone && !c.same d && d.stacks.contains k)
  { s with fw := { s.fw with locked := s.fw.locked.filter (fun k => !(c.pkt.lc && c.stacks.contains k) || used k) } }

/-- A crew that is no more. -/
def State.dropCrew (s : State) (c : Crew) : State :=
  { s with fw := { s.fw with crews := s.fw.crews.filter (fun d => !c.same d) } }.leaveClock c

/-- A pre-empted crew waits again at the head of its queue with its aging reset (14 R353). -/
def State.requeue (s : State) (c : Crew) : State :=
  ((s.mapQueue c.pkt.ctx c.queue (fun q => { q with waiting :=
      { pkt := c.pkt, age := 0, cnum := some c.cnum, at_ := s.tick } :: q.waiting.filter (fun w => w.cnum != some c.cnum) })).mapCrew c
    (fun d => { d with pp := false })).leaveClock c

/-- Every object that a publication of the task named is complete (11 R270). -/
def State.completeObjects (s : State) (c : Crew) : State :=
  s.mapCtxOf c.pkt.ctx (fun x => c.pubs.foldl (fun x o => x.setObject o (x.object o ||| BitVec.ofNat 64 (2 ^ 63))) x)

/-- The task record of a task that has completed (25 R446). -/
def State.taskRec (s : State) (c : Crew) : Rec :=
  let task := BitVec.ofNat 32 c.pkt.task
  let w := match c.copyErr with
    | some (w0, w1, w2) => (recWord0 0 (BitVec.ofNat 8 (fieldOf w0 48 8)) 1 0xFF task, w1, w2)
    | none => (recWord0 0 0 0 0xFF task, 0, 0)
  { w0 := w.1, w1 := w.2.1, w2 := w.2.2, w3 := s.time, ctx := c.pkt.ctx, cq := c.pkt.cq, isTask := true,
    ev := none, lost := none }

/-- After a strand of the crew has left: the task completes when all have ended; else the crew is unbound when all have ended
or yielded. fe posts the task record. -/
def State.afterLeave (s : State) (fe ctx cnum : Nat) : State :=
  match s.crew? ctx cnum with
  | none => s
  | some c =>
    if c.indices.all c.ended.contains then ((s.completeObjects c).postRec fe (s.taskRec c)).dropCrew c
    else if c.gone then s.requeue c
    else s

/-! ## TEND and SYIELD -/

/-- The strand ends. -/
def State.endStrand (s : State) : State :=
  let t := s.st
  let s := s.mapCrews (fun c => if t.ofCrew c then { c with ended := t.br.sidx :: c.ended } else c)
  (s.unbind .free t.br).afterLeave t.fe t.br.ctx t.br.cnum

/-- TEND (11 R273): a fault that its force raises in task mode is taken first, and the task record waits for room in the
record queue. -/
def execTend (f : RF) (s : State) : Out :=
  let s' := force s
  if !s'.sup && !s'.st.held.isEmpty then ok s'
  else
    afterAll s' (.tend f) (
      if Config.recordQueue ≤ s'.recCount s'.st.fe then stall s' else ok s'.endStrand)

/-- stval, and the origin offset that the record of a killed task gives: of sorig, or of sepc after a precise cause (23 R411). -/
def Strand.lastTrap (t : Strand) (entry : Word) : Word × Word :=
  (t.csr.stval, origOf (if t.csr.scause.getLsbD 8 then t.csr.sorig else t.csr.sepc) entry)

/-- The strand yields: its slots are held, with the resume vector and sscratch in the leader's record. -/
def State.yieldStrand (s : State) : State :=
  let t := s.st
  let br := { t.br with vec := t.csr.sresume, scr := t.csr.sscratch, res := true }
  let last := t.lastTrap s.entryOf
  let v : Saved := { sidx := t.br.sidx, br := br, tagset := t.eng.tagset, tagerr := t.eng.tagerr, arrival := t.eng.arrival,
                     first := t.vec.first, stval := last.1, orig := last.2 }
  let s := if t.sstat.pp then s else
    match s.crewOf? t with
    | some c => (s.mapStrands c (fun u => { u with sstat := { u.sstat with pp := true } })).mapCrew c (fun d => { d with pp := true })
    | none => s
  let s := s.mapCrews (fun c => if t.ofCrew c then
    { c with yielded := t.br.sidx :: c.yielded, saved := v :: c.saved.filter (fun x => x.sidx != v.sidx) } else c)
  (s.unbind .held br).afterLeave t.fe t.br.ctx t.br.cnum

/-- SYIELD (02 R55; 11 R287). -/
def execSyield (f : RF) (s : State) : Out :=
  let i := Instr.syield f
  let e := s.st.eng
  if !s.sup then trapI s 0x2F i
  else if !e.pkts.isEmpty || !e.flight.isEmpty || !e.replies.isEmpty then trapI s 0x1D i
  else
    let s' := force s
    afterAll s' i (ok s'.yieldStrand)

/-! ## Kills (23 R411) -/

/-- The strand that a front end leads takes its turn; the others keep their order. -/
def State.focus (s : State) (fe : Nat) : State :=
  if s.st.run ≠ .unbound ∧ s.st.fe = fe then s
  else
    match s.others.find? (fun t => t.fe == fe) with
    | some t =>
      { s with st := t, others := (if s.st.run = .unbound then [] else [s.st]) ++ s.others.filter (fun u => u.fe != fe) }
    | none => s

/-- The pass of a killed strand: squashed with the elements it has performed; one that is held performs nothing more (23 R399, R406, R411). -/
def State.settlePass (s : State) : State :=
  match s.st.vec.pass with
  | none => s
  | some p =>
    if p.held then s.setPass none
    else
      let pl := p.plan s
      let lim := max p.chk (min (Config.killPoint s.tick * p.groupSize s.st.lanes) (p.floor pl s.st.lanes))
      (p.partly pl lim (p.marks pl s.tick lim s.st.lanes false) s).1.setPass none

/-- The copies of a killed strand: what they have written stays, and no record is posted. -/
def State.settleCopies (s : State) : State :=
  s.st.eng.copies.foldl (fun s cp => cp.dests.foldl (fun s r => s.copyPart cp r) s) s

/-- The matrix and sampling instructions of a killed strand: follow-ons are discarded, the others are performed up to the first
that cannot be. -/
def settleMats (fuel : Nat) (s : State) : State :=
  match fuel with
  | 0 => s
  | k + 1 =>
    match s.matTurn with
    | (.done m, c) => settleMats k (s.matPop m (some c))
    | _ => s

/-- The packets of a killed strand are performed. -/
def State.settlePackets (s : State) : State :=
  s.st.eng.pkts.foldl (fun s p => if s.reaches (stackOf s.st.fe) p.addr.toNat then (s.packetDo p).1 else s) s

/-- The remote atomics of a killed strand: each was performed once or not at all. -/
def State.settleRamos (s : State) : State :=
  s.st.eng.ramos.foldl (fun s r =>
    match r.res, s.ramoTurn r with
    | none, .does ks => if Config.lostDone (s.tick + r.serial) then s.ramoDo r ks else s
    | _, _ => s) s

/-- What a killed strand had under way is settled, and it leaves its slots. -/
def State.settle (s : State) : State :=
  let s := s.settlePass.settleCopies
  let s := s.setMat { s.st.mat with queue := s.st.mat.queue.filter (fun o => o.after.isNone) }
  let s := (settleMats s.st.mat.queue.length s).settlePackets.settleRamos
  s.unbind .free s.st.br

/-- The record of a killed task: class 2, whatever its cause. -/
def State.killRec (s : State) (c : Crew) (k : BitVec 8 × Word × Word × Word) : Rec :=
  { w0 := recWord0 0 k.1 2 0xFF (BitVec.ofNat 32 c.pkt.task), w1 := k.2.1, w2 := recWord2 k.2.2.2 k.2.2.1, w3 := s.time,
    ctx := c.pkt.ctx, cq := c.pkt.cq, isTask := true, ev := none, lost := none }

/-- Slots still held, armed or starting for a crew are freed. -/
def State.freeCrewSlots (s : State) (c : Crew) : State :=
  let mine := fun u : Slot => u.br.cnum == c.cnum && u.br.ctx == c.pkt.ctx && u.state != .bound && u.state != .free
  (s.slots.filter (fun p => mine p.2)).foldl (fun s p => (s.mapSlot p.1 (fun u => { u with state := .free })).noteFree p.1) s

/-- A context being destroyed is gone once no crew and no record of it is left: its pool space is cleared and its ASID freed (12
R313; 14 R357). -/
def State.reap (s : State) : State :=
  let dead := fun c : Context => c.dying && !s.fw.crews.any (fun d => d.pkt.ctx == c.handle) && !s.recq.any (fun p => p.2.ctx == c.handle)
  let gone := s.fw.contexts.filter dead
  if gone.isEmpty then s
  else
    let lo := fun c : Context => 2 ^ 100 + c.handle * 8 * 2 ^ 31
    let inPool := fun k : Nat => gone.any (fun c => decide (lo c ≤ k) && decide (k < lo c + 8 * 2 ^ 31))
    { s with
      mem := s.mem.filter (fun c => !inPool c.1)
      poison := s.poison.filter (fun p => !inPool p.1)
      oldRoots := s.oldRoots ++ gone.map (fun c => { asid := c.asid, root := c.root, len := s.wlog.length, shots := s.shots.length })
      fw := { s.fw with contexts := s.fw.contexts.filter (fun c => !dead c), status := 2 ^ 63, cmd := false, results := [] } }

/-- KILL_TASK_COMPLETE: every access of the killed task is performed, its slots are freed and its record is posted by the front
end that led its first strand. -/
def execKillTaskComplete (ctx cnum : Nat) (s : State) : Out :=
  match s.crew? ctx cnum with
  | none => ok s
  | some c =>
    match c.kill with
    | none => ok s
    | some k =>
      let fe := c.leaders.headD 0
      if Config.recordQueue ≤ s.recCount fe then ok s
      else
        let s := c.liveLeaders.foldl (fun s l =>
          let s' := s.focus l
          if s'.st.run = .stopped ∧ s'.st.fe = l ∧ s'.st.ofCrew c then s'.settle else s) s
        let s := (s.freeCrewSlots c).mapQueue ctx c.queue (fun q => { q with waiting := q.waiting.filter (fun w => w.cnum != some cnum) })
        ok ((s.postRec fe (s.killRec c k)).dropCrew c).reap

/-! ## Deadlines of a pre-emption (25 R447) -/

/-- Whether a crew that is being pre-empted can meet a deadline: a locked-clock crew with hold = 1, of which a strand yielded by itself,
never does. -/
def Crew.mayLapse (c : Crew) : Bool := c.pp && !(c.pkt.lc && c.pkt.hold)

/-- PAGE_FAULT_DEADLINE: every page fault on which a strand of the crew waits is given up. -/
def execPageFaultDeadline (ctx cnum : Nat) (s : State) : Out :=
  match s.crew? ctx cnum with
  | some c =>
    if c.mayLapse then
      ok { s with pfWaits := s.pfWaits.map (fun w => if c.liveLeaders.contains w.fe ∧ w.src ≠ 31 ∧ !w.mig then { w with gaveUp := true } else w) }
    else ok s
  | none => ok s

/-- stval and the origin offset of a crew's strand of lowest index that has not ended; a crew that never ran has neither (log
48). -/
def State.lastTrap (s : State) (c : Crew) : Word × Word :=
  let one := fun i : Nat =>
    match (s.st :: s.others).find? (fun t => t.ofCrew c && t.run != .unbound && t.br.sidx == i) with
    | some t => some (t.lastTrap c.pkt.entry)
    | none => (c.saved.find? (fun v => v.sidx == i)).map (fun v => (v.stval, v.orig))
  match (c.indices.filter (fun i => !c.ended.contains i)).findSome? one with
  | some p => p
  | none => (Config.killWord s.tick 0, Config.killWord s.tick 1)

/-- A kill of a crew that none of its traps brings about, with a reason in elem (23 R411, R413). -/
def State.crewKill (s : State) (c : Crew) (cause : BitVec 8) (reason : Nat) : State :=
  let w := s.lastTrap c
  s.killCrew c (cause, w.1, BitVec.ofNat 64 reason, w.2)

/-- PRE_EMPTION_DEADLINE: a crew that has not yielded is killed. -/
def execPreEmptionDeadline (ctx cnum : Nat) (s : State) : Out :=
  match s.crew? ctx cnum with
  | some c => if c.mayLapse ∧ !c.gone then ok (s.crewKill c 0xFF 2) else ok s
  | none => ok s

end Sys2Proof.Machine
end

