-- ==== Sys2Proof/Machine/FabricIns.lean ====
section
/-! DEFINITION. Machine/FabricIns.lean: FLD, FRUN, FTOK and FSTAT (10 R241, R245 to R250). -/

namespace Sys2Proof.Machine

/-! ## FLD (R245) -/

/-- The first word that is not a bobbin instruction, with its index (R241). -/
def badWord (ws : List IWord) : Option (IWord × Nat) :=
  ws.zipIdx.find? (fun p =>
    match decodeBobbin p.1 with
    | .ok _ => false
    | .error _ => true)

/-- The 32 words of 128 bytes. -/
def fabricWords (bs : List Byte) : List IWord := (List.range 32).map (fun j => BitVec.ofNat 32 (leNat ((bs.drop (4 * j)).take 4)))

/-- FLD. -/
def execFld (f : RF) (s : State) : Out :=
  let i := Instr.fld f
  let a := (s.x f.rs1).toNat
  if s.waitsX [f.rs1] then waitX i s
  else if s.st.sstat.vs = 0 then trapI s 0xD2 i
  else afterPass s i (afterRun i s (
    if a % 4 ≠ 0 then trapV s 0x5A (s.x f.rs1)
    else afterFence i s 5 (
      (s.readN a 128 10 .read).andThen (fun bs s =>
        let ws := fabricWords bs
        match badWord ws with
        | some (w, j) => trapE s 0x1A (w.zeroExtend 64) j
        | none =>
          let c := Vector.ofFn (fun j : Fin 32 => ws.getD j.val haltWord)
          let fab := s.st.fab
          retire (s.dirtyIf (s.setFab (if f.rs2 = 0 then { fab with ctx0 := c } else { fab with ctx1 := c })))))))

/-! ## FTOK and FSTAT (R246, R248) -/

/-- FTOK. -/
def execFtok (f : RF) (s : State) : Out :=
  let i := Instr.ftok f
  let w := s.x f.rs2
  if s.waitsX [f.rs1, f.rs2] then waitX i s
  else if s.st.sstat.vs = 0 then trapI s 0xD2 i
  else if fieldOf w 12 4 > 4 ∨ fieldOf w 16 48 ≠ 0 then trapI s 0x1A i
  else if 16 ≤ s.st.fab.pending.length then trapI s 0x9A i
  else
    let fab := s.st.fab
    retire ((s.setFab { fab with pending := fab.pending ++ [((s.x f.rs1).toNat, fieldOf w 12 4, fieldOf w 0 12)] }).dirtyVs)

/-- The status word (10 Table 10.8). -/
def Fabric.status (fab : Fabric) : Word :=
  BitVec.ofNat 64 ((if fab.run.isSome then 1 else 0) + (if fab.drop then 2 ^ 2 else 0) + (if fab.left then 2 ^ 3 else 0) +
    (if fab.fault then 2 ^ 5 else 0) + fab.pending.length * 2 ^ 6 + fab.cyc % 2 ^ 24 * 2 ^ 16)

/-- FSTAT. -/
def execFstat (f : RF) (s : State) : Out :=
  if s.waitsX [f.rd] then waitX (.fstat f) s
  else if s.st.sstat.vs = 0 then trapI s 0xD2 (.fstat f)
  else retire (s.setX f.rd s.st.fab.status)

/-! ## FRUN (R247) -/

/-- Fields of a binding word (10 Table 10.7): bound names of the input and output queues. -/
def bindName (w : Word) (lo : Nat) : Option Nat := if w.getLsbD (lo + 5) then some (fieldOf w lo 5) else none

/-- Elements of a register that belong to bobbin b of l, as queue entries. -/
def laneElems (r : VReg) (w vl l b : Nat) : List (Nat × QEntry) :=
  ((List.range vl).filter (fun i => i % l == b)).map (fun i => (i, .data (BitVec.ofNat 64 (elemOf r w i))))

/-- Input queue n of bobbin b (R231, R247): elements, in qi0 with tokens before them, then END. -/
def inputQueue (els : List (Nat × QEntry)) (toks : List (Nat × Nat × Nat)) (mark : Nat → Bool) : List QEntry :=
  els.flatMap (fun e =>
    ((toks.filter (fun t => t.1 == e.1)).map (fun t => QEntry.tok t.2.1 t.2.2)) ++
      (if mark e.1 then [.tok 3 (e.1 % 4096)] else []) ++ [e.2]) ++ [.end_]

/-- A bobbin at the start of a run (R229). -/
def Bobbin.fresh (ctx : Nat) (qi : Vector (List QEntry) 4) : Bobbin :=
  { b := Vector.replicate 8 0, ready := Vector.replicate 8 0, tok := 0, pc := 0, ret := 0, ctx := ctx, halted := false,
    count := 0, qi := qi, qr := [], ql := [], out0 := 0, out1 := 0 }

/-- The run that FRUN starts. -/
def State.newRun (s : State) (w : Word) (km : BitVec 5) : Run :=
  let v := s.st.vec
  let l := max 1 s.st.lanes
  let ew := etWidth (vtEt v.vtype)
  let reg := fun n : Nat => v.v.toList.getD n 0
  let ins := [bindName w 0, bindName w 6, bindName w 12, bindName w 18]
  let toks := s.st.fab.pending
  let kr := v.k.toList.getD (km.toNat % 8) 0
  let queue := fun (b n : Nat) =>
    match ins.getD n none with
    | some r => inputQueue (laneElems (reg r) ew v.vl l b) (if n = 0 then toks else []) (fun i => n = 0 && km.getLsbD 3 && kr.getLsbD i)
    | none => [.end_]
  let seed := fun (bit : Nat) (o : Word) =>
    if w.getLsbD bit && v.vl != 0 then
      let r := elemIn (vtEt v.vtype) (o.toNat % 2 ^ ew)
      (([((QEntry.data (BitVec.ofNat 64 r.1)), 0)] : List (QEntry × Nat)), r.2)
    else ([], 0)
  let sr := seed 37 (v.o[0])
  let sl := seed 38 (v.o[1])
  let bs := (List.range l).map (fun b =>
    { Bobbin.fresh (if w.getLsbD 36 then 1 else 0) (Vector.ofFn (fun n : Fin 4 => queue b n.val)) with
      qr := if b = 0 then sr.1 else [], ql := if b = l - 1 then sl.1 else [] })
  let q0 := bindName w 24
  let q1 := bindName w 30
  { bobbins := bs, turn := 0, start := bs, cycle := 0, moved := 0, lastHalt := 0, qo0 := q0, qo1 := q1,
    w0 := reg (q0.getD 0), w1 := reg (q1.getD 0), vl := v.vl, vtype := v.vtype, flags := sr.2 ||| sl.2,
    flips := [], drop := v.vl != 0 && toks.any (fun t => decide (v.vl ≤ t.1)), pc := s.st.pc, serial := s.st.eng.serial }

/-- The checks of FRUN's binding word. -/
def frunBad (w : Word) (km : BitVec 5) (pending : Bool) : Bool :=
  let q0 := bindName w 24
  fieldOf w 39 25 != 0 || (q0.isSome && q0 == bindName w 30) || ((bindName w 0).isNone && (km.getLsbD 3 || pending))

/-- The register words that a run reads: those of its bound inputs. -/
def State.inputWords (s : State) (w : Word) : List (Nat × Nat) :=
  wordsOf ([0, 6, 12, 18].filterMap (bindName w)) (ceilDiv (s.ew * s.st.vec.vl) 64)

/-- FRUN. -/
def execFrun (f : RF) (s : State) : Out :=
  let i := Instr.frun f
  vecGate s i [f.rs1] (some 0x1A) (forceThen s (fun s =>
    let w := s.x f.rs1
    if vtSm s.st.vec.vtype then trapI s 0x12 i
    else if frunBad w f.rs2 (!s.st.fab.pending.isEmpty) then trapI s 0x1A i
    else
      let r := s.newRun w f.rs2
      let s' := (s.setFab { s.st.fab with pending := [], run := some r }).dirtyVs
      let s' := s'.setEng { s'.st.eng with serial := s'.st.eng.serial + 1 }
      match s.st.firstLost (s.inputWords w) with
      | some p =>
        retire (((s'.closeRun r 32 false).logLost p.1 p.2 0x7A).raiseOnce { code := 0x7A, stval := 0, selem := 0, sorig := s.st.pc })
      | none => retire (s'.readWords (s.inputWords w))))

end Sys2Proof.Machine
end

