-- ==== Sys2Proof/Machine/Frame.lean ====
section
/-! DEFINITION. Machine/Frame.lean: VSAVEF and VRESTF (07 R177 to R179; 23 R404; log 9). -/

namespace Sys2Proof.Machine

/-- Word 0 of a frame (07 Table 7.2). -/
def State.frameWord0 (s : State) (vec pass : Bool) : Word :=
  BitVec.ofNat 64 (1 + s.st.br.g % 8 * 2 ^ 8 + (if vec then 2 ^ 11 else 0) + (if pass then 2 ^ 12 else 0) +
    (if s.st.br.prot then 2 ^ 13 else 0) + s.st.lanes % 2 ^ 8 * 2 ^ 16 + s.st.loops.length % 8 * 2 ^ 24)

/-- The pages that n bytes from an address touch: address and length of each piece. -/
def pagePieces (va n : Nat) : List (Nat × Nat) := (cut (n / 2 ^ 16 + 2) 0 va n).map (fun c => (c.va, c.n))

/-- The keys of n bytes of a frame in the space of vmt, page by page. -/
def frameKeys (ps : List (Nat × Nat)) (use : Use) (s : State) : Got (List Nat) :=
  match ps with
  | [] => .val [] s
  | p :: t =>
    match s.access p.1 p.2 7 use with
    | .val ks s' =>
      (match frameKeys t use s' with
       | .val rest s'' => .val (ks ++ rest) s''
       | .wait s'' => .wait s''
       | .trap c v s'' => .trap c v s'')
    | .wait s' => .wait s'
    | .trap c v s' => .trap c v s'

/-- The keys of a frame's first n bytes. -/
def State.frameAt (s : State) (a n : Nat) (use : Use) : Got (List Nat) :=
  let va := s.spaceVa s.st.csr.vmt a n
  if !va.2 then .trap 0x47 (BitVec.ofNat 64 va.1) s
  else
    match s.compared none with
    | .val _ s => frameKeys (pagePieces va.1 n) use s
    | .wait s => .wait s
    | .trap c v s => .trap c v s

/-- A byte of a frame: word 0, and opaque bytes (log 9). -/
def frameByteAt (f : Frame) (i : Nat) : Byte :=
  if i < 8 then BitVec.ofNat 8 (f.word0.toNat / 256 ^ i) else Config.frameByte f.serial i

/-- Vector state as a frame keeps it: a captured pass restarts from its checkpoint, and what the scalar path stored since its
force point is no longer kept from it. -/
def Vec.captured (v : Vec) : Vec :=
  { v with pass := v.pass.map (fun p => { p with held := false, shadow := [] }), ahead := v.ahead.map (fun a => { a with shadow := [] }),
           answer := none, asked := [], squashed := false, bad := [] }

/-- Vector state after VSAVEF (07 R178). -/
def Vec.emptied (v : Vec) : Vec := { Vec.reset with first := v.first }

/-- The force of VSAVEF: a pricking that a squash has restored is not run again (23 R407), and a refused pass leaves no fault,
since the state it would need is gone (23 R405; log 22). -/
def State.saveForce (s : State) : State :=
  if s.st.vec.squashed then s
  else
    let s' := force s
    { s' with st := { s'.st with held := s.st.held.filter (fun t => t.code != 0x64) } }

/-- The reports of a captured pass are dropped with it (23 R395, R404). -/
def State.dropPassReports (s : State) : State :=
  let held := match s.st.vec.pass with
    | some p => if p.held then s.st.held.filter (fun t => !t.ofPass) else s.st.held
    | none => s.st.held
  { s with st := { s.st with held := held } }.passWaitsGone

/-- The register words that VSAVEF reads: all of v0 to v31. -/
def State.frameWords (s : State) : List (Nat × Nat) := wordsOf (List.range 32) (8 * s.st.lanes)

/-- The new frame's bytes and its contents; where a write of it is lost, 0xB7 and the frame is written or not (25 R438). -/
def State.saveFrame (s : State) (a : Nat) (ks : List Nat) (word0 : Word) (vec : Option (Vec × Fabric)) : Got Unit :=
  let f : Frame := { serial := s.frames.length, ctx := s.st.br.ctx, word0 := word0, loops := s.st.loops, vec := vec }
  s.sends 7 (s.spaceVa s.st.csr.vmt a 1).1 (fun s =>
    { s.write (.engine 1) (ks.zip ((List.range ks.length).map (frameByteAt f))) with frames := f :: s.frames })

/-- VSAVEF (07 R178). An illegal vmt is tested before a misaligned address (log 81). While vs is off it writes all of the header, of which
R178 names the loop stack alone and gives it no place (log 96, the model's choice). -/
def execVsavef (f : RF) (s : State) : Out :=
  let i := Instr.vsavef f
  let a := (s.x f.rs1).toNat
  let off := s.st.sstat.vs == 0
  if s.waitsX [f.rs1] then waitX i s
  else afterRun i s (
    if !vmtLegal s.st.csr.vmt then trapI s 0x17 i
    else if a % 4096 ≠ 0 then trapV s 0x57 (BitVec.ofNat 64 (s.spaceVa s.st.csr.vmt a 1).1)
    else (if off then fun k => k s else withWords s s.frameWords) (fun s => afterFence i s 1 (
      (s.frameAt a (if off then 8192 else frameSize s.st.br.g) .write).andThen (fun ks s =>
        if off then (s.saveFrame a ks (s.frameWord0 false false) none).andThen (fun _ s => retire s)
        else
          let s := s.saveForce
          let v := s.st.vec
          let fab := s.st.fab
          (s.saveFrame a ks (s.frameWord0 true v.pass.isSome) (some (v.captured, fab))).andThen (fun _ s =>
            let s := (s.dropPassReports.setVec v.emptied).setFab { fab with ctx0 := Fabric.reset.ctx0, ctx1 := Fabric.reset.ctx1, pending := [] }
            retire (s.setSStat { s.st.sstat with vs := 1 }))))))

/-- Whether n bytes of memory from a place of a frame are the frame's own. -/
def State.frameSame (s : State) (ks : List Nat) (f : Frame) (lo n : Nat) : Bool :=
  (List.range n).all (fun i => s.byteFor 1 (ks.getD (lo + i) 0) == frameByteAt f (lo + i))

/-- The saved frame whose word 0 and header memory holds: the check of the check word (07 R177; log 9). -/
def State.frameFind (s : State) (ks : List Nat) : Option Frame :=
  s.frames.find? (fun f => f.ctx == s.st.br.ctx && s.frameSame ks f 0 8192)

/-- Vector state restored from a frame; a changed v, k or pass region gives register contents that no rule states. -/
def State.frameVec (s : State) (ks : List Nat) (f : Frame) (v : Vec) : Vec :=
  let g := s.st.br.g
  let vOk := s.frameSame ks f 8192 (65536 * g)
  let kOk := s.frameSame ks f (8192 + 65536 * g) (2048 * g)
  let pOk := s.frameSame ks f (8192 + 67584 * g) (8192 * g)
  let free := Vector.ofFn (fun i : Fin 32 => Config.frameForeign s.tick i.val)
  let freeK := Vector.ofFn (fun i : Fin 8 => (Config.frameForeign s.tick (32 + i.val)).truncate 8192)
  { v with
    first := true
    v := if vOk then v.v else free
    k := if kOk then v.k else freeK
    ahead := v.ahead.zipIdx.map (fun a => { a.1 with force := a.1.force.map (fun f => (s.st.eng.serial + 1 + a.2, f.2)) })
    pass := v.pass.map (fun p =>
      { p with serial := s.st.eng.serial, v := if vOk && pOk then p.v else free, k := if kOk && pOk then p.k else freeK }) }

/-- The checks of R179 on word 0. -/
def State.frameFits (s : State) (w : Word) : Bool :=
  fieldOf w 0 8 == 1 && fieldOf w 8 3 == s.st.br.g && fieldOf w 16 8 == s.st.lanes && (w.getLsbD 13 == s.st.br.prot) &&
    s.st.loops.isEmpty

/-- A frame restored (07 R179). -/
def State.restore (s : State) (ks : List Nat) (f : Frame) : State :=
  let s := { s with st := { s.st with loops := f.loops } }
  match f.vec with
  | none => s
  | some (v, fab) =>
    let v' := s.frameVec ks f v
    let s := s.setEng { s.st.eng with serial := s.st.eng.serial + 1 + v.ahead.length }
    let s := (s.setVec v').setFab { s.st.fab with ctx0 := fab.ctx0, ctx1 := fab.ctx1, pending := fab.pending }
    s.setSStat { s.st.sstat with vs := 2 }

/-- The force of VRESTF, which waits for its pass (04 R78); a pricking that a squash has restored is not run again (23 R407). -/
def restoreForce (s : State) (k : State → Out) : Out := if s.st.vec.squashed then k s else forceThen s k

/-- VRESTF (07 R179). -/
def execVrestf (f : RF) (s : State) : Out :=
  let i := Instr.vrestf f
  let a := (s.x f.rs1).toNat
  if s.waitsX [f.rs1] then waitX i s
  else afterPass s i (afterRun i s (restoreForce s (fun s =>
    if !vmtLegal s.st.csr.vmt then trapI s 0x17 i
    else if a % 4096 ≠ 0 then trapV s 0x57 (BitVec.ofNat 64 (s.spaceVa s.st.csr.vmt a 1).1)
    else afterFence i s 1 (
      (s.frameAt a 8192 .read).andThen (fun head s =>
        match s.poisonVa (s.spaceVa s.st.csr.vmt a 8192).1 head with
        | some p => trapV s 0x77 (BitVec.ofNat 64 p)
        | none =>
          let w := BitVec.ofNat 64 (leNat ((head.take 8).map (s.byteFor 1)))
          if !s.frameFits w then trapI s 0x17 i
          else
            (s.frameAt a (if w.getLsbD 11 then frameSize s.st.br.g else 8192) .read).andThen (fun ks s =>
              match s.poisonVa (s.spaceVa s.st.csr.vmt a ks.length).1 ks, s.frameFind ks with
              | some p, _ => trapV s 0x77 (BitVec.ofNat 64 p)
              | none, none => trapI s 0x17 i
              | none, some fr => retire (s.restore ks fr)))))))

end Sys2Proof.Machine
end

