-- ==== Sys2Proof/Machine/Loop.lean ====
section
/-! DEFINITION. Machine/Loop.lean: LOOP, LIDX and LBRK (11 R277 to R280, R291). -/

namespace Sys2Proof.Machine

/-- Whether E lies beyond the E of the enclosing level. -/
def loopBeyond (stop : Word) (ls : List LoopLvl) : Bool :=
  match ls with
  | [] => false
  | l :: _ => decide (l.stop < stop)

/-- The instruction completes and pc takes a value that no branch or jump gives it: R279 does not apply. -/
def moveTo (s : State) (pc : Word) (ls : List LoopLvl) : Out :=
  let s := s.counted
  ok { s with st := { s.st with pc := pc, loops := ls, backEdge := false } }

/-- LOOP (R277): imm12 is the length n of the body. A count of 0 skips the body. A body beyond the enclosing one is tested before the six
levels (log 84, the model's choice). -/
def execLoop (f : IF) (s : State) : Out :=
  let i := Instr.loop f
  let stop := s.st.pc + BitVec.ofNat 64 (4 * f.imm.toNat)
  if s.waitsX [f.rs1] then waitX i s
  else if loopBeyond stop s.st.loops then trapI s 0x10 i
  else if Config.loopLevels ≤ s.st.loops.length then trapI s 0x90 i
  else if s.x f.rs1 = 0 then moveTo s (stop + 4) s.st.loops
  else
    let l : LoopLvl := { count := (s.x f.rs1).toNat, index := 0, start := s.st.pc + 4, stop := stop }
    moveTo s (s.st.pc + 4) (l :: s.st.loops)

/-- LIDX (R280): the level number stands in rs1. -/
def execLidx (f : RF) (s : State) : Out :=
  if s.waitsX [f.rd] then waitX (.lidx f) s
  else
    retire (s.setX f.rd (match s.st.loops[f.rs1.toNat]? with
      | some l => BitVec.ofNat 64 l.index
      | none => -1))

/-- LBRK (R280). -/
def execLbrk (f : RF) (s : State) : Out :=
  match s.st.loops with
  | [] => trapI s 0x10 (.lbrk f)
  | l :: t => moveTo s (l.stop + 4) t

end Sys2Proof.Machine
end

