-- ==== Sys2Proof/Machine/Sys.lean ====
section
/-! DEFINITION. Machine/Sys.lean: calls, FENCE.I, TRET, HARNQ, illegal words, and the traps and the force that a boundary
brings (05 R109, R124; 11 R286, R288; 04 R85; 23 R395, R396; 02 R55). -/

namespace Sys2Proof.Machine

/-- ECALL takes 0xE0; kind E gives stval 0 (23 Table 23.3). -/
def execEcall (s : State) : Out := trapV s 0xE0 0

/-- EBREAK takes 0xE1. -/
def execEbreak (s : State) : Out := trapV s 0xE1 0

/-- FENCE.I: the instruction cache holds nothing older than the strand's stores, nor than what other writers wrote before the last FENCEP
that orders them before S (05 R109, R111; log 85). -/
def execFenceI (_imm : BitVec 12) (_rs1 _rd : BitVec 5) (s : State) : Out :=
  retire { s with st := { s.st with icMark := s.wlog.length, icSeen := s.st.icFence } }

/-- ILLEGAL_INSTRUCTION (05 R124). -/
def execIllegalInstruction (w : IWord) (s : State) : Out := trapV s 0x00 (w.zeroExtend 64)

/-- TRET (11 R286): a privilege trap in task mode. -/
def execTret (f : RF) (s : State) : Out := if s.sup then tretEffect s else trapI s 0x2F (.tret f)

/-- The word of HARNQ for a half identifier (11 R288). -/
def State.harnqWord (s : State) (h : BitVec 16) : Word :=
  if h = 0xFFFF then 0xFFFF
  else BitVec.ofNat 64 (h.toNat + (s.halfRec h).lanes.toNat * 2 ^ 16 + 2 ^ 32)

/-- HARNQ (11 R288): the slot stands in rs1. -/
def execHarnq (f : RF) (s : State) : Out :=
  if !s.sup then trapI s 0x2F (.harnq f)
  else if s.waitsX [f.rd] then waitX (.harnq f) s
  else retire (s.setX f.rd (s.harnqWord (s.st.br.halves.toList.getD f.rs1.toNat 0xFFFF)))

/-! ## Boundaries -/

/-- Whether the next instruction is the 64th after the sink that made the pricking due (04 R85). -/
def State.forceDue (s : State) : Bool := s.st.vec.newest.due && decide (64 ≤ s.st.vec.newest.count)

/-- DUE_FORCE. -/
def execDueForce (s : State) : Out := if s.forceDue then ok (force s) else ok s

/-- IMPRECISE_TRAP_ENTRY (23 R395, R396): in task mode the oldest fault held is taken; sepc is the oldest instruction not
yet issued. A 0x77 is the precise trap of a permutation that has waited in the command queue: sepc is its own address (23 Table 23.1;
log 23). -/
def execImpreciseTrapEntry (s : State) : Out :=
  if s.sup ∨ s.st.run ≠ .bound then ok s
  else
    match s.st.held with
    | t :: _ =>
      let s' := trapForce s
      let s' := { s' with st := { s'.st with held := s'.st.held.drop 1 } }
      ok (if t.code = 0x77 then trapEnter s' { t with sorig := 0 } false t.sorig else trapEnter s' t true s.st.pc)
    | [] => ok s

/-- Whether the strand stands at an iteration boundary (02 R55): a back-edge of the innermost level, any boundary outside
loops, or a wait in BARC or BARW. -/
def State.atIteration (s : State) : Bool := s.st.loops.isEmpty || s.st.backEdge || s.atBarrier

/-- PRE_EMPT_TRAP (02 R55): 0xEF, precise. -/
def execPreEmptTrap (s : State) : Out :=
  if s.st.run = .bound ∧ s.st.sstat.pp && !s.sup && s.st.held.isEmpty && s.atIteration then trapV s 0xEF 0 else ok s

end Sys2Proof.Machine
end

