-- ==== Sys2Proof/Machine/Place.lean ====
section
/-! DEFINITION. Machine/Place.lean: the shipped policy: ready tasks and their order, pairing of halves, placement, aging,
reservations, pre-emption and locked-clock stacks (01 R13 to R25; 14 R343, R352 to R355). -/

namespace Sys2Proof.Machine

/-! ## Halves (01 R12, R18, R20 to R23) -/

/-- The reach of a front end, lowest-numbered half first (01 Table 1.2). -/
def reachOf (fe : Nat) : List (BitVec 16) :=
  let h := halfId (stackOf fe) (fe % 64 / 8)
  let c := fe % 8
  [h c 0, h c 1, h (c + 1) 0, h (c + 1) 1]

/-- The reach of a gang led at fe. -/
def reachOfSpan (fe g : Nat) : List (BitVec 16) := ((spanOf fe g).flatMap reachOf).eraseDups

/-- Halves of live harnesses: those of armed, starting and bound leaders, but for one slot. -/
def State.halvesHeld (s : State) (but : Nat) : List (BitVec 16) :=
  (s.slots.filter (fun p => p.1 != but && !p.2.br.lent && (p.2.state == .armed || p.2.state == .starting || p.2.state == .bound))).flatMap
    (fun p => p.2.br.listed)

/-- Good data lanes of a half. -/
def State.goodLane (s : State) (h : BitVec 16) (i : Nat) : Bool := !(s.halfRec h).lanes.getLsbD i

/-- Good data lanes of a half, as bits. -/
def State.goodMask (s : State) (h : BitVec 16) : BitVec 16 := ~~~(s.halfRec h).lanes

/-- The lowest n lanes of a mask. -/
def lowLanes (m : BitVec 16) (n : Nat) : BitVec 16 :=
  BitVec.ofNat 16 ((((List.range 16).filter (fun i => m.getLsbD i)).take n).foldl (fun a i => a + 2 ^ i) 0)

/-- The active lanes of the halves of a harness with L lanes (01 R13, R18, R25); in protected mode those good in both halves of a logical
slab. Which L of the good lanes a strand uses that is bound again where more are good, R25 leaves open: DESIGN CHOICE (log 92), the lowest
of the first halves, in the order in which the harness lists them. -/
def State.activeLanes (s : State) (prot : Bool) (hs : List (BitVec 16)) (n : Nat) : List (BitVec 16) :=
  match hs with
  | a :: b :: rest =>
    let ma := lowLanes (if prot then s.goodMask a &&& s.goodMask b else s.goodMask a) n
    let n1 := n - laneCount ma
    let mb := if prot then ma else lowLanes (s.goodMask b) n1
    ma :: mb :: s.activeLanes prot rest (if prot then n1 else n1 - laneCount mb)
  | _ => []

/-- Active lanes of a harness (01 R18): in protected mode the positions good in both halves of a logical slab. -/
def State.lanesOf (s : State) (prot : Bool) (hs : List (BitVec 16)) : Nat :=
  match hs with
  | a :: b :: rest =>
    let n := if prot then ((List.range 16).filter (fun i => s.goodLane a i && s.goodLane b i)).length
      else ((List.range 16).filter (s.goodLane a)).length + ((List.range 16).filter (s.goodLane b)).length
    n + s.lanesOf prot rest
  | _ => 0

/-! ## Which slots are free -/

/-- Gang of a crew. -/
def Crew.g (c : Crew) : Nat := c.pkt.g

/-- The front ends that a crew's live strands occupy or are about to. -/
def Crew.fes (c : Crew) : List Nat := c.liveLeaders.flatMap (fun l => spanOf l c.g)

/-- Whether a stack drains for an update (14 R359). -/
def State.draining (s : State) (stack : Nat) : Bool := (lookup s.fw.images stack).any (fun u => u.draining)

/-- Whether a stack takes no new binds: it is emptied for an update, or for a locked-clock task, or holds one. -/
def State.stackShut (s : State) (stack : Nat) : Bool :=
  s.fw.locking.contains stack || s.fw.locked.contains stack || s.draining stack

/-- Whether a crew that is placed may be bound on its stacks by now: none drains, and none is emptied for another task or locked for
one, but for a locked-clock task's own (14 R355, R359). -/
def State.mayBind (s : State) (c : Crew) : Bool :=
  c.stacks.all (fun k => !s.draining k && !s.fw.locking.contains k && (c.pkt.lc || !s.fw.locked.contains k))

/-- Whether a strand of a crew has been bound, or a slot of it is being started. -/
def State.begun (s : State) (c : Crew) : Bool :=
  c.liveLeaders.any (fun fe => let u := s.slot fe
    u.br.cnum == c.cnum && u.br.ctx == c.pkt.ctx && (u.state == .starting || u.state == .bound))

/-- Whether every strand of a crew is bound, but for those that have ended or yielded since. -/
def State.allBound (s : State) (c : Crew) : Bool :=
  c.liveLeaders.all (fun fe => let u := s.slot fe
    u.br.cnum == c.cnum && u.br.ctx == c.pkt.ctx && u.state == .bound)

/-- Whether a front end is free for placement: free slot, no crew's claim, not retired. -/
def State.feFree (s : State) (fe : Nat) : Bool :=
  decide (fe < Config.frontEnds) && (s.slot fe).state == .free && !s.feRetired.contains fe && !s.fw.crews.any (fun c => c.fes.contains fe)

/-- Free front ends of stacks that take binds. -/
def State.freeFes (s : State) : List Nat := (List.range Config.frontEnds).filter (fun fe => s.feFree fe && !s.stackShut (stackOf fe))

/-- Halves of live harnesses and of records written for crews not yet armed. -/
def State.halvesTaken (s : State) : List (BitVec 16) :=
  s.halvesHeld 1024 ++ (s.fw.crews.flatMap (fun c => c.liveLeaders)).flatMap (fun l =>
    if (s.slot l).state = .free ∨ (s.slot l).state = .held then (s.slot l).br.listed else [])

/-! ## Pairing (01 R23) -/

/-- Usable halves: not retired as a whole. -/
def State.usable (s : State) (h : BitVec 16) : Bool := !(s.halfRec h).retired

/-- Whether a half has no retired lane. -/
def State.whole (s : State) (h : BitVec 16) : Bool := (s.halfRec h).lanes == 0

/-- One round of R23 over front ends in column order: each takes the two lowest good halves in its reach. -/
def pairRow (good : BitVec 16 → Bool) (fes : List Nat) (taken : List (BitVec 16)) : List (Nat × List (BitVec 16)) :=
  match fes with
  | [] => []
  | fe :: rest =>
    let hs := ((reachOf fe).filter (fun h => good h && !taken.contains h)).take 2
    (fe, hs) :: pairRow good rest (hs ++ taken)

/-- The halves of an ungang front end. The first round is used where it binds all eight front ends of the row, and this one to halves
that are free yet; the front ends that a harness holds take no others (log 75). -/
def State.pairOne (s : State) (fe : Nat) (taken : List (BitVec 16)) (busy : List Nat) : Option (List (BitVec 16)) :=
  let row := (List.range 8).map (fun c => fe / 8 * 8 + c)
  let cols := row.filter (fun f => !busy.contains f)
  let good := fun h => s.usable h && s.whole h
  let two := fun r : List (Nat × List (BitVec 16)) => (lookup r fe).filter (fun hs => hs.length == 2)
  let r1 := if (pairRow good row []).all (fun p => p.2.length == 2) then two (pairRow good cols taken) else none
  r1.orElse (fun _ => two (pairRow s.usable cols taken))

/-- The halves of a gang. -/
def State.pairGang (s : State) (fe g : Nat) (taken : List (BitVec 16)) : Option (List (BitVec 16)) :=
  let open_ := (reachOfSpan fe g).filter (fun h => s.usable h && !taken.contains h)
  let good := open_.filter s.whole
  if 2 * g ≤ good.length then some (good.take (2 * g))
  else if 2 * g ≤ open_.length then some (open_.take (2 * g))
  else none

/-- The halves of a harness. -/
def State.pair (s : State) (fe g : Nat) (taken : List (BitVec 16)) (busy : List Nat) : Option (List (BitVec 16)) :=
  if g = 1 then s.pairOne fe taken busy else s.pairGang fe g taken

/-! ## Placement (14 R352 step 3) -/

/-- Where a strand goes: its index, its leader and its halves. -/
structure Place where
  sidx : Nat
  fe : Nat
  halves : List (BitVec 16)
  deriving DecidableEq, Repr

/-- Inserts an item before the first that does not come before it. -/
def putSorted {α : Type} (le : α → α → Bool) (a : α) (l : List α) : List α :=
  match l with
  | [] => [a]
  | b :: t => if le a b then a :: b :: t else b :: putSorted le a t

/-- A list sorted, equal items in their order. -/
def sorted {α : Type} (le : α → α → Bool) (l : List α) : List α := l.foldr (putSorted le) []

/-- Whether a leader column is allowed (01 R15). -/
def columnOk (fe g : Nat) : Bool := fe % 8 % g == 0

/-- Stacks by most free slots, then lowest number. -/
def stackOrder (avail : List Nat) : List Nat :=
  let n := fun k => (avail.filter (fun fe => stackOf fe == k)).length
  sorted (fun a b => decide (n b < n a) || (n a == n b && decide (a ≤ b))) (List.range 8)

/-- Leaders in the order in which they are tried. -/
def leaderOrder (avail : List Nat) (g : Nat) : List Nat :=
  (stackOrder avail).flatMap (fun k => (avail.filter (fun fe => stackOf fe == k && columnOk fe g)))

/-- What is free while a crew is being placed. -/
structure Room where
  avail : List Nat
  taken : List (BitVec 16)
  busy : List Nat

/-- The first leader at which one strand fits; need is the L it must have, 0 for any. -/
def State.seat (s : State) (r : Room) (order : List Nat) (g : Nat) (prot : Bool) (need sidx : Nat) : Option Place :=
  order.findSome? (fun fe =>
    if (spanOf fe g).all r.avail.contains then
      (match s.pair fe g r.taken r.busy with
       | some hs => if need ≤ s.lanesOf prot hs then some { sidx := sidx, fe := fe, halves := hs } else none
       | none => none)
    else none)

/-- Seats the strands of a crew in index order; none where one finds no place. -/
def State.seats (s : State) (r : Room) (order : List Nat) (g : Nat) (prot : Bool) (strands : List (Nat × Nat)) : List Place × Bool :=
  match strands with
  | [] => ([], true)
  | (sidx, need) :: rest =>
    match s.seat r order g prot need sidx with
    | none => ([], false)
    | some p =>
      let span := spanOf p.fe g
      let r' : Room := { avail := r.avail.filter (fun f => !span.contains f), taken := p.halves ++ r.taken, busy := span ++ r.busy }
      let t := s.seats r' order g prot rest
      (p :: t.1, t.2)

/-! ## Ready tasks (14 R343) -/

/-- A ready task with its queue and effective priority. -/
structure Ready where
  ctx : Nat
  queue : Nat
  w : Waiting
  eff : Nat
  deriving DecidableEq, Repr

/-- Whether a prerequisite has completed. -/
def Context.hasDone (c : Context) (p : Nat) : Bool := p == 0 || lookup c.done (p % 2 ^ 16) == some p

/-- Whether the head of a queue is ready. A pre-empted task was ready before; it waits for the stack that it was drained from (25 R449).
A task that is placed and not yet bound is ready no more, and holds back its queue (02 R34). -/
def State.readyHead (s : State) (c : Context) (w : Waiting) : Bool :=
  match w.cnum with
  | some n => (s.crew? c.handle n).any (fun d => d.gone && d.kill.isNone && !d.away.any s.draining)
  | none =>
    c.hasDone w.pkt.pre0 && c.hasDone w.pkt.pre1 &&
      (!w.pkt.wen || (c.object w.pkt.wobj).getLsbD 63 || decide (w.pkt.thr * 65536 ≤ fieldOf (c.object w.pkt.wobj) 0 41))

/-- Effective priority (14 R352 step 1). -/
def effOf (pri age : Nat) : Nat := min 7 (pri + age)

/-- Ready tasks by ascending context handle, then queue number. -/
def State.ready (s : State) : List Ready :=
  (sorted (fun a b => decide (a.handle ≤ b.handle)) s.fw.contexts).flatMap (fun c =>
    if c.dying then [] else
    (sorted (fun a b => decide (a.1 ≤ b.1)) c.queues).filterMap (fun q =>
      match q.2.waiting with
      | w :: _ => if s.readyHead c w then some { ctx := c.handle, queue := q.1, w := w, eff := effOf q.2.pri w.age } else none
      | [] => none))

/-- Whether a queue comes after the one last served. -/
def afterServed (last : Nat × Nat) (t : Ready) : Bool := decide (last.1 < t.ctx) || (last.1 == t.ctx && decide (last.2 < t.queue))

/-- Ready tasks of one level in the order of its turns (14 R352 step 2). -/
def State.levelOrder (s : State) (rs : List Ready) (level : Nat) : List Ready :=
  let l := rs.filter (fun t => t.eff == level)
  match lookup (s.fw.served.map (fun p => (p.1, p.2.1, p.2.2))) level with
  | some last => l.filter (afterServed last) ++ l.filter (fun t => !afterServed last t)
  | none => l

/-- Ready tasks in the order in which they are placed. -/
def State.order (s : State) : List Ready :=
  let rs := s.ready
  ((List.range 8).map (fun i => s.levelOrder rs (7 - i))).flatten

/-! ## Fitting and reserving (14 R352 steps 3 and 4) -/

/-- The strands a task needs placed, each with the L it must have (01 R25). -/
def State.strandsOf (s : State) (t : Ready) : List (Nat × Nat) :=
  match t.w.cnum.bind (s.crew? t.ctx) with
  | some c => (c.indices.filter (fun i => !c.ended.contains i)).map (fun i => (i, c.lanes.getD i 0))
  | none => (List.range t.w.pkt.crew).map (fun i => (i, 0))

/-- The places that the strands of a pre-empted task had, where its slots are available and its harnesses are as good as they were. -/
def State.oldSeats (s : State) (t : Ready) (r : Room) : Option (List Place) :=
  (t.w.cnum.bind (s.crew? t.ctx)).bind (fun c =>
    (s.strandsOf t).mapM (fun (i, need) =>
      match c.saved.find? (fun v => v.sidx == i) with
      | some v =>
        let fe := c.leaders.getD i 0
        let hs := v.br.listed
        if (spanOf fe c.g).all r.avail.contains && hs.all (fun h => s.usable h && !r.taken.contains h) && decide (need ≤ s.lanesOf t.w.pkt.prot hs)
        then some { sidx := i, fe := fe, halves := hs } else none
      | none => none))

/-- Places of a task's strands on some free front ends, as far as they go, and whether all are placed. A task that is bound again (01 R25)
and does not fit with its strands in index order is tried with those of the largest L first, and then where it was (log 49). -/
def State.tryPlace (s : State) (t : Ready) (avail : List Nat) : List Place × Bool :=
  let busy := (List.range Config.frontEnds).filter (fun fe => (s.slot fe).state != .free || s.fw.crews.any (fun c => c.fes.contains fe))
  let room : Room := { avail := avail, taken := s.halvesTaken, busy := busy }
  let seat := s.seats room (leaderOrder avail t.w.pkt.g) t.w.pkt.g t.w.pkt.prot
  let first := seat (s.strandsOf t)
  if first.2 || t.w.cnum.isNone then first
  else
    let second := seat (sorted (fun a b => decide (b.2 ≤ a.2)) (s.strandsOf t))
    if second.2 then second
    else match s.oldSeats t room with
      | some ps => (ps, true)
      | none => first

/-- Whether a task holds the reservation. -/
def State.reserved? (s : State) (t : Ready) : Bool :=
  match s.fw.reservation with
  | some r => r.ctx == t.ctx && r.queue == t.queue && r.at_ == t.w.at_
  | none => false

/-- Whether stacks are being emptied for a task. -/
def State.emptying? (s : State) (t : Ready) : Bool := s.fw.lockFor == some (t.ctx, t.queue, t.w.at_)

/-- Stacks that hold no locked-clock crew any more return to nominal clock (14 R355). -/
def State.unlock (s : State) : State :=
  let used := fun k : Nat => s.fw.crews.any (fun c => c.pkt.lc && !c.gone && c.stacks.contains k)
  { s with fw := { s.fw with locked := s.fw.locked.filter used } }

/-- No stacks are emptied for a locked-clock task any more. -/
def State.unlockFor (s : State) : State := { s with fw := { s.fw with locking := [], lockFor := none } }.unlock

/-- The first task that does not fit takes the reservation, or takes it over at a strictly higher effective priority than the holder
has by now: stacks that were being emptied for the holder are so no more (log 50). -/
def State.reserve (s : State) (rs : List Ready) (t : Ready) : State :=
  match s.fw.reservation with
  | none => { s with fw := { s.fw with reservation := some { ctx := t.ctx, queue := t.queue, at_ := t.w.at_, eff := t.eff, held := [] } } }
  | some r =>
    let holder := rs.find? s.reserved?
    if holder.isNone ∨ (holder.any (fun u => decide (u.eff < t.eff)) ∧ !s.reserved? t) then
      let s := if s.fw.lockFor == some (r.ctx, r.queue, r.at_) && !s.reserved? t then s.unlockFor else s
      { s with fw := { s.fw with reservation := some { ctx := t.ctx, queue := t.queue, at_ := t.w.at_, eff := t.eff, held := r.held } } }
    else s

/-! ## Bind records (14 R346, R352) -/

/-- Eight half identifiers of a record. -/
def halvesVec (hs : List (BitVec 16)) : Vector (BitVec 16) 8 := Vector.ofFn (fun i : Fin 8 => hs.getD i.val 0xFFFF)

/-- The record of a strand that is placed: of its launch, or with the resume vector of its last SYIELD. -/
def recordOf (c : Context) (t : Ready) (cnum pri : Nat) (saved : List Saved) (p : Place) : BindRec :=
  let k := t.w.pkt
  let v := saved.find? (fun x => x.sidx == p.sidx)
  { ctx := c.handle, g := k.g, pri := pri, lent := false, res := v.isSome, prot := k.prot, scrub := !c.keep, lc := k.lc,
    pre := !(k.lc && k.hold), root := c.root, asid := c.asid, cnum := cnum, csize := k.crew, sidx := p.sidx,
    task := BitVec.ofNat 32 k.task, vec := (match v with | some x => x.br.vec | none => k.entry), halves := halvesVec p.halves,
    tvec := c.tvec, scr := (match v with | some x => x.br.scr | none => 0) }

/-- The record of a lent slot: g, context and crew number. -/
def lentRecord (b : BindRec) : BindRec := { BindRec.zero with ctx := b.ctx, g := b.g, lent := true, cnum := b.cnum }

/-- Writes the records of a strand. -/
def State.writeRecords (s : State) (fe : Nat) (b : BindRec) : State :=
  (spanOf fe b.g).foldl (fun s f => s.mapSlot f (fun u => { u with br := if f = fe then b else lentRecord b })) s

/-- The lowest crew number in no use. -/
def State.freeCnum (s : State) : Option Nat := (List.range 512).find? (fun n => !s.fw.crews.any (fun c => c.cnum == n))

/-- The head of the task's queue carries its crew number; its level's turn moves on; its reservation is used up. -/
def State.taken (s : State) (t : Ready) (cnum : Nat) : State :=
  let s := s.mapQueue t.ctx t.queue (fun q => { q with waiting :=
    match q.waiting with
    | w :: rest => { w with cnum := some cnum } :: rest
    | [] => [] })
  { s with fw := { s.fw with
      served := insert s.fw.served t.eff (t.ctx, t.queue)
      reservation := if s.reserved? t then none else s.fw.reservation } }

/-- Leaders by strand index after a placement; a strand that has ended keeps the leader it had. -/
def leadersAfter (old : List Nat) (ps : List Place) (n : Nat) : List Nat :=
  (List.range n).map (fun i => ((ps.find? (fun p => p.sidx == i)).map (fun p => p.fe)).getD (old.getD i 0))

/-- A crew is placed: its records are written. -/
def State.bindCrew (s : State) (t : Ready) (ps : List Place) : State :=
  match s.ctx? t.ctx, (t.w.cnum.orElse (fun _ => s.freeCnum)) with
  | some c, some cnum =>
    let pri := (c.queue t.queue).pri
    let old := s.crew? t.ctx cnum
    let saved := match old with | some d => d.saved | none => []
    let s := (ps.foldl (fun s p => s.writeRecords p.fe (recordOf c t cnum pri saved p)) s).taken t cnum
    let n := t.w.pkt.crew
    let new : Crew := match old with
      | some d => { d with pri := pri, leaders := leadersAfter d.leaders ps n, placed := ps.map Place.fe, yielded := [], at_ := s.tick, pp := false,
                           away := [] }
      | none => { cnum := cnum, pkt := t.w.pkt, queue := t.queue, pri := pri, leaders := leadersAfter [] ps n,
                  placed := ps.map Place.fe, lanes := List.replicate n 0, ended := [], yielded := [], saved := [], arrived := [], copyErr := none,
                  pubs := [], at_ := s.tick, pp := false, away := [], kill := none }
    { s with fw := { s.fw with crews := (s.fw.crews.filter (fun d => !d.same new)) ++ [new] } }
  | _, _ => s

/-- The package with no crew bound and no stack shut: where a task fits at best. -/
def State.emptied (s : State) : State :=
  let gone := s.fw.crews.map (fun c => { c with yielded := c.indices })
  let up := s.fw.images.map (fun p => (p.1, { p.2 with draining := false }))
  { s with slots := [], fw := { s.fw with locking := [], locked := [], images := up, crews := gone } }

/-- Whether a pre-empted task, which does not fit now, suits no harness of the package even where that is empty (01 R25). -/
def State.unbindable (s : State) (t : Ready) : Bool :=
  t.w.cnum.isSome && !(s.tryPlace t s.freeFes).2 && !(s.emptied.tryPlace t s.emptied.freeFes).2

/-- A pre-empted task that no harness of the package suits is killed (01 R25; 23 R413). -/
def State.killUnbindable (s : State) (t : Ready) : State :=
  match t.w.cnum.bind (s.crew? t.ctx) with
  | some c =>
    (s.mapQueue t.ctx t.queue (fun q => { q with waiting := q.waiting.drop 1 })).crewKill c 0x1F 7
  | none => s

/-! ## Locked-clock tasks (14 R352 step 5, R355) -/

/-- Stacks a locked-clock task takes. -/
def Launch.stacksNeeded (p : Launch) : Nat := ceilDiv (p.crew * p.g) 64

/-- A crew that is placed and not begun on a stack that shuts is placed no more: its slots are freed and its task is ready again (14
R355, R359). -/
def State.unplace (s : State) (c : Crew) : State :=
  let s := s.freeCrewSlots c
  if c.saved.isEmpty then
    let back := fun w : Waiting => if w.cnum = some c.cnum then { w with cnum := none } else w
    let s := s.mapQueue c.pkt.ctx c.queue (fun q => { q with waiting := q.waiting.map back })
    s.dropCrew c
  else (s.mapCrew c (fun d => { d with yielded := d.indices.filter (fun i => !d.ended.contains i) })).leaveClock c

/-- The crews placed and not begun on stacks that shut are placed no more. -/
def State.unplaceOn (s : State) (shut : List Nat) : State :=
  (s.fw.crews.filter (fun c => !c.gone && c.kill.isNone && !s.begun c && c.stacks.any shut.contains)).foldl State.unplace s

/-- Runs of n successive entries of a list. -/
def runsOf (n : Nat) (l : List Nat) : List (List Nat) := (List.range (l.length + 1 - n)).map (fun i => (l.drop i).take n)

/-- Whether a stack holds no strand and no crew's claim. -/
def State.stackEmpty (s : State) (stack : Nat) : Bool :=
  (spanOf (64 * stack) 64).all (fun fe => (s.slot fe).state == .free && !s.fw.crews.any (fun c => c.fes.contains fe))

/-- The stacks for a locked-clock task: those with the most free slots, then the lowest-numbered, none of them shut, on which its
harnesses exist. The task that holds the reservation may have stacks emptied; any other takes stacks that are empty, every slot of them
open to it (14 R352 step 4, R355). -/
def State.lockPick (s : State) (t : Ready) (avail : List Nat) : Option (List Nat) :=
  let fits := fun k : Nat => s.stackEmpty k && (spanOf (64 * k) 64).all (fun fe => s.feRetired.contains fe || avail.contains fe)
  let open_ := (stackOrder s.freeFes).filter (fun k => !s.stackShut k && (s.reserved? t || fits k))
  let suits := fun ks : List Nat => (s.emptied.tryPlace t (s.emptied.freeFes.filter (fun fe => ks.contains (stackOf fe)))).2
  (runsOf t.w.pkt.stacksNeeded open_).find? suits

/-- The free slots that the holder of the reservation needs: those of its placement as far as that goes, or of the stacks that it, locked-clock,
would choose; once stacks are being emptied for it, none but theirs, which are shut. -/
def State.needsOf (s : State) (u : Ready) : List Nat :=
  let free := s.freeFes
  if !u.w.pkt.lc then (s.tryPlace u free).1.flatMap (fun (p : Place) => spanOf p.fe u.w.pkt.g)
  else if s.emptying? u then []
  else ((s.lockPick u free).getD []).flatMap (fun k => spanOf (64 * k) 64)

/-- The slots a task may use: while another task holds the reservation, not those held for it nor those it needs. -/
def State.availFor (s : State) (rs : List Ready) (t : Ready) : List Nat :=
  match s.fw.reservation, rs.find? s.reserved? with
  | some r, some u =>
    if s.reserved? t then s.freeFes
    else s.freeFes.filter (fun fe => !r.held.contains fe && !(s.needsOf u).contains fe)
  | _, _ => s.freeFes

/-- The stacks that a locked-clock task chooses: stacks are emptied for one task at a time. -/
def State.lockChoice (s : State) (rs : List Ready) (t : Ready) : Option (List Nat) :=
  if s.fw.lockFor.isSome then none else s.lockPick t (s.availFor rs t)

/-- A locked-clock task's stacks are shut, to be emptied. -/
def State.lockStacks (s : State) (t : Ready) (ks : List Nat) : State :=
  { s with fw := { s.fw with locking := ks, lockFor := some (t.ctx, t.queue, t.w.at_) } }.unplaceOn ks

/-- The task that stacks are emptied for, where it is ready still. -/
def State.lockTask (s : State) : Option Ready :=
  s.ready.find? (fun t => s.emptying? t && t.w.pkt.lc)

/-- The stacks that are locked and hold no locked-clock crew yet: those that the task that stacks are emptied for has entered. -/
def State.entered (s : State) : List Nat :=
  let others := (s.fw.crews.filter (fun c => c.pkt.lc && !c.gone)).flatMap Crew.stacks
  s.fw.locked.filter (fun k => !others.contains k)

/-- LOCKED_CLOCK_ENTRY: an emptied stack fixes its clock; once all its stacks have, the task is placed on them. One of the task's stacks that
drains for an update takes no binds, and holds the entry back (14 R359). -/
def execLockedClockEntry (stack : Nat) (s : State) : Out :=
  if 8 ≤ stack then .fault (.noSuchUnit stack)
  else if !s.fw.locking.contains stack ∨ !s.stackEmpty stack ∨ (s.fw.locking ++ s.entered).any s.draining then ok s
  else
    let s := { s with fw := { s.fw with locking := s.fw.locking.filter (fun k => k != stack), locked := s.fw.locked ++ [stack] } }
    match s.lockTask with
    | some t =>
      if s.fw.locking.isEmpty then
        let avail := (List.range Config.frontEnds).filter (fun fe => s.feFree fe && s.entered.contains (stackOf fe))
        let r := s.tryPlace t avail
        if r.2 then
          let s := s.bindCrew t r.1
          ok { s with fw := { s.fw with lockFor := none } }
        else ok s.unlockFor
      else ok s
    | none => ok s.unlockFor

/-! ## The firmware's decisions -/

/-- Whether a task can be acted on now: it fits, a locked-clock task can choose its stacks, or no harness will ever suit it. -/
def State.actsOn (s : State) (rs : List Ready) (t : Ready) : Bool :=
  if t.w.pkt.lc then (s.lockChoice rs t).isSome || s.unbindable t else (s.tryPlace t (s.availFor rs t)).2 || s.unbindable t

/-- Whether a ready task is bound without waiting: it fits, or, locked-clock, its stacks are empty (14 R352 step 4). -/
def State.fitsNow (s : State) (rs : List Ready) (t : Ready) : Bool :=
  if t.w.pkt.lc then (s.lockChoice rs t).isSome && !s.reserved? t else (s.tryPlace t (s.availFor rs t)).2

/-- The state without a reservation, or stacks being emptied, for a task that is ready no more. -/
def State.dropStale (s : State) : State :=
  let s := if s.fw.lockFor.isSome ∧ s.lockTask.isNone then s.unlockFor else s
  if s.ready.any s.reserved? then s else { s with fw := { s.fw with reservation := none } }

/-- TASK_PLACEMENT (14 R352): one ready task is placed; the first that does not fit takes the reservation. -/
def execTaskPlacement (s : State) : Out :=
  let s := s.dropStale
  let rs := s.order
  match rs with
  | [] => ok { s with fw := { s.fw with reservation := none } }
  | t0 :: _ =>
    let s := if s.fitsNow rs t0 then s else s.reserve rs t0
    match rs.find? (s.actsOn rs) with
    | none => ok s
    | some t =>
      if s.unbindable t then ok (s.killUnbindable t)
      else if t.w.pkt.lc then ok (s.lockStacks t ((s.lockChoice rs t).getD []))
      else ok (s.bindCrew t (s.tryPlace t (s.availFor rs t)).1)

/-- PRIORITY_AGING (14 R352 step 1): tasks that have been ready and unbound for another full 10 ms age by one. -/
def execPriorityAging (s : State) : Out :=
  ok (s.ready.foldl (fun s' t =>
    if Config.aged s.tick t.ctx t.queue then
      s'.mapQueue t.ctx t.queue (fun q => { q with waiting :=
        match q.waiting with
        | w :: rest => { w with age := w.age + 1 } :: rest
        | [] => [] })
    else s') s)

/-- A crew that may be pre-empted for an effective priority: bound or being started, pre-emptible and of lower queue priority. -/
def State.yieldsTo (s : State) (eff : Nat) (c : Crew) : Bool :=
  decide (c.pri < eff) && !(c.pkt.lc && c.pkt.hold) && !c.gone && c.kill.isNone && s.begun c

/-- The state as if some crews had left their slots. -/
def State.without (s : State) (cs : List Crew) : State :=
  let open_ := fun p : Nat × Slot => if cs.any (fun c => c.fes.contains p.1) then (p.1, { p.2 with state := .free }) else p
  let gone := fun c : Crew => if cs.any c.same then { c with yielded := c.indices } else c
  { s with slots := s.slots.map open_, fw := { s.fw with crews := s.fw.crews.map gone } }

/-- Whether a task fits with some free slots kept from it: in those left, or, locked-clock, on empty stacks of them. -/
def State.fitsIn (s : State) (t : Ready) (kept : List Nat) : Bool :=
  let avail := s.freeFes.filter (fun fe => !kept.contains fe)
  if t.w.pkt.lc then (s.lockPick t avail).isSome else (s.tryPlace t avail).2

/-- The crews that free enough slots, taken in order until the task fits; some free slots are kept from it. -/
def State.victims (s : State) (t : Ready) (kept : List Nat) (done rest : List Crew) : Option (List Crew) :=
  if (s.without done).fitsIn t kept then some done
  else
    match rest with
    | [] => none
    | c :: cs => s.victims t kept (done ++ [c]) cs

/-- Pre-emption sets pp in every strand of the crews (02 R55). -/
def State.preEmpt (s : State) (cs : List Crew) : State :=
  cs.foldl (fun s c => (s.mapStrands c (fun u => { u with sstat := { u.sstat with pp := true } })).mapCrew c (fun d => { d with pp := true })) s

/-- The crews that a ready task pre-empts, where it does not fit in slots that are neither held for the reservation nor needed by it: those of
lowest queue priority first, then the most recently bound, beyond those that are on their way; for the locked-clock task that stacks are
emptied for, those with a strand on them. One that holds the reservation has stacks emptied, and pre-empts nothing before. -/
def State.victimsOf (s : State) (rs : List Ready) (t : Ready) : List Crew :=
  let kept := s.freeFes.filter (fun fe => !(s.availFor rs t).contains fe)
  let open_ := s.fw.crews.filter (fun c => s.yieldsTo t.eff c && !c.pp)
  if t.w.pkt.lc ∧ s.emptying? t then open_.filter (fun c => (c.liveLeaders.map stackOf).any s.fw.locking.contains)
  else if s.fitsIn t kept ∨ (t.w.pkt.lc ∧ s.reserved? t) then []
  else
    let rest := sorted (fun a b => decide (a.pri < b.pri) || (a.pri == b.pri && decide (b.at_ ≤ a.at_))) open_
    ((s.victims t kept (s.fw.crews.filter (fun c => c.pp)) rest).getD []).filter (fun c => !c.pp)

/-- PRE_EMPTION_DECISION (14 R353): the first ready task in order that has crews to pre-empt. -/
def execPreEmptionDecision (s : State) : Out :=
  match (s.order.map (s.victimsOf s.order)).find? (fun cs => !cs.isEmpty) with
  | some cs => ok (s.preEmpt cs)
  | none => ok s

end Sys2Proof.Machine
end

