-- ==== Sys2Proof/Machine/Slots.lean ====
section
/-! DEFINITION. Machine/Slots.lean: the slot table and dispatch: bind records, arming, scrubbing and the start of a strand (14
R346 to R350; 01 R20, R21; 02 R31). -/

namespace Sys2Proof.Machine

/-- An event of a slot: the package has 512. -/
def slotEvent (fe : Nat) (k : Out) : Out := if Config.frontEnds ≤ fe then .fault (.noSuchUnit fe) else k

/-- Whether a slot is lent to the leader at fe, as their records say. -/
def State.lentTo (s : State) (fe f : Nat) : Bool :=
  let b := (s.slot fe).br
  let l := (s.slot f).br
  !b.lent && l.lent && l.ctx == b.ctx && l.cnum == b.cnum && f != fe && (spanOf fe b.g).contains f

/-- Whether a slot is lent to a leader, whose state it follows (14 R347). -/
def State.follows (s : State) (f : Nat) : Bool := (List.range 4).any (fun i => decide (i ≤ f) && s.lentTo (f - i) f)

/-- A slot and those lent to it. -/
def State.withLent (s : State) (fe : Nat) : List Nat := (spanOf fe (max 1 (s.slot fe).br.g)).filter (fun f => f == fe || s.lentTo fe f)

/-- A slot takes a state, and those lent to it with it. -/
def State.turnSlot (s : State) (fe : Nat) (st : SlotState) : State :=
  (s.withLent fe).foldl (fun s f => s.mapSlot f (fun u => { u with state := st })) s

/-- A change of a slot from one state to another; a lent slot has none of its own. -/
def State.slotFrom (s : State) (fe : Nat) (from_ to_ : SlotState) : State :=
  if (s.slot fe).state = from_ ∧ !s.follows fe then s.turnSlot fe to_ else s

/-- SLOT_HOLD. -/
def execSlotHold (fe : Nat) (s : State) : Out := slotEvent fe (ok (s.slotFrom fe .free .held))

/-- The checks of arming (01 R20, R21), made of a leader's record: legal identifiers, in reach, held by no other live harness,
and usable. A retired front end is never armed, a lent one among them (24 R433). -/
def State.armOk (s : State) (fe : Nat) : Bool :=
  let b := (s.slot fe).br
  !(s.withLent fe).any s.feRetired.contains &&
    (b.lent || b.listed.all (fun h => halfLegal h && (reachOfSpan fe b.g).contains h && !(s.halvesHeld fe).contains h && s.usable h))

/-- A record is left unarmed, with an interrupt at the management core of its stack (01 R21). -/
def State.refuseArm (s : State) (fe : Nat) : State := { s with host := s.host ++ [.interrupt (stackOf fe) fe] }

/-- A record is armed. -/
def State.arm (s : State) (fe : Nat) : State := { (s.turnSlot fe .armed) with lastArm := some (fe, s.tick) }

/-- The record armed in the step before, in the same cycle (log 76), whose front end is higher and which alone keeps the record at fe from
being armed: both name a free half, and fe takes it (01 R21). -/
def State.rival (s : State) (fe : Nat) : Option Nat :=
  match s.lastArm with
  | some (f, at_) =>
    if fe < f ∧ at_ + 1 = s.tick ∧ Config.sameCycle s.tick ∧ (s.slot f).state = .armed ∧ (s.turnSlot f .held).armOk fe then some f else none
  | none => none

/-- SLOT_ARM: a record that fails stays held. -/
def execSlotArm (fe : Nat) (s : State) : Out :=
  slotEvent fe (
    if (s.slot fe).state ≠ .held ∨ s.follows fe then ok s
    else if s.armOk fe then ok (s.arm fe)
    else
      match s.rival fe with
      | some f => ok (((s.turnSlot f .held).refuseArm f).arm fe)
      | none => ok (s.refuseArm fe))

/-- SLOT_DISARM. -/
def execSlotDisarm (fe : Nat) (s : State) : Out := slotEvent fe (ok (s.slotFrom fe .armed .held))

/-- SLOT_FREE. -/
def execSlotFree (fe : Nat) (s : State) : Out :=
  slotEvent fe (
    let s' := s.slotFrom fe .held .free
    ok ((spanOf fe 4).foldl (fun s'' f => if (s.slot f).state = .held ∧ (s'.slot f).state = .free then s''.noteFree f else s'') s'))

/-- Four half identifiers of a record replaced. -/
def halvesPut (v : Vector (BitVec 16) 8) (lo : Nat) (w : Word) : Vector (BitVec 16) 8 :=
  Vector.ofFn (fun i : Fin 8 => if lo ≤ i.val ∧ i.val < lo + 4 then w.extractLsb' (16 * (i.val - lo)) 16 else v[i])

/-- A record with one word written (14 Table 14.4); valid and arm have events of their own. -/
def BindRec.put (b : BindRec) (word : Nat) (w : Word) : BindRec :=
  match word with
  | 0 => { b with ctx := fieldOf w 14 50, g := fieldOf w 11 3, pri := fieldOf w 8 3, lent := w.getLsbD 7, res := w.getLsbD 6,
                  prot := w.getLsbD 5, scrub := w.getLsbD 4, lc := w.getLsbD 3, pre := w.getLsbD 2 }
  | 1 => { b with root := fieldOf w 16 48 * 2 ^ 16, asid := fieldOf w 0 14 }
  | 2 => { b with cnum := fieldOf w 51 9, csize := fieldOf w 41 10, sidx := fieldOf w 32 9, task := BitVec.ofNat 32 (fieldOf w 0 32) }
  | 3 => { b with vec := w }
  | 4 => { b with halves := halvesPut b.halves 0 w }
  | 5 => { b with halves := halvesPut b.halves 4 w }
  | 6 => { b with tvec := w }
  | 7 => { b with scr := w }
  | _ => b

/-- BIND_RECORD_WRITE: once a record is armed, it is ignored (14 R347). -/
def execBindRecordWrite (fe word : Nat) (value : Word) (s : State) : Out :=
  slotEvent fe (
    if (s.slot fe).state = .free ∨ (s.slot fe).state = .held then ok (s.mapSlot fe (fun u => { u with br := u.br.put word value }))
    else ok s)

/-! ## Arming a crew (14 R347, R348) -/

/-- The leaders whose records belong to a crew and are in a dispatch state: front end and record. -/
def State.crewRecords (s : State) (ctx cnum : Nat) (st : SlotState) : List (Nat × BindRec) :=
  (s.slots.filter (fun p => p.2.state == st && !p.2.br.lent && p.2.br.ctx == ctx && p.2.br.cnum == cnum)).map (fun p => (p.1, p.2.br))

/-- Whether the lent slots of a leader are armed with it. -/
def State.lentArmed (s : State) (fe : Nat) (b : BindRec) : Bool :=
  (spanOf fe b.g).all (fun f => (s.slot f).state == .armed && (f == fe || ((s.slot f).br.lent && (s.slot f).br.ctx == b.ctx && (s.slot f).br.cnum == b.cnum)))

/-- Whether every record of a crew is armed, no record queue of its front ends is full, and its stacks take binds (14 R344, R355,
R359). -/
def State.crewReady (s : State) (c : Crew) : Bool :=
  let rs := s.crewRecords c.pkt.ctx c.cnum .armed
  c.kill.isNone && s.mayBind c &&
    c.indices.all (fun i => c.ended.contains i || rs.any (fun r => r.2.sidx == i)) &&
    rs.all (fun r => s.lentArmed r.1 r.2 && (spanOf r.1 r.2.g).all (fun f => decide (s.recCount f < Config.recordQueue)))

/-- Whether dispatch leaves a front end's state as it stood (14 R348). -/
def State.keeps (s : State) (fe leader : Nat) (b : BindRec) : Bool :=
  match (s.slot fe).left with
  | some l => l.asid == b.asid && l.g == b.g && l.leader == leader && l.halves == b.halves
  | none => false

/-- The scratchpad of a front end is set to zero, and its poison cleared (14 R348; 24 R427). -/
def State.scrubPad (s : State) (fe : Nat) : State :=
  let lo := scratchKey fe 0
  let hi := lo + Config.scratchBytes
  { s with mem := s.mem.clear lo hi, poison := s.poison.filter (fun p => decide (p.1 < lo) || decide (hi ≤ p.1)) }

/-- Dispatch scrubs the front ends of one strand, unless their state is kept; the slots are starting. -/
def State.scrub (s : State) (fe : Nat) (b : BindRec) : State :=
  let span := spanOf fe b.g
  let kept := !b.scrub && span.all (fun f => s.keeps f fe b)
  span.foldl (fun s f =>
    let s := if kept then s else s.scrubPad f
    s.mapSlot f (fun u => { u with state := .starting, left := if kept then u.left else none })) s

/-- CREW_ARMED. -/
def execCrewArmed (ctx cnum : Nat) (s : State) : Out :=
  match s.crew? ctx cnum with
  | some c =>
    if s.crewReady c then ok ((s.crewRecords ctx cnum .armed).foldl (fun s r => s.scrub r.1 r.2) s) else ok s
  | none => ok s

/-! ## The first instruction (02 R31; 14 R349, R350) -/

/-- x registers at an entry bind (02 Table 2.2). -/
def entryRegs (p : Launch) (sidx : Nat) : Vector Word 32 :=
  Vector.ofFn (fun i : Fin 32 =>
    if i.val = 10 then BitVec.ofNat 64 p.n
    else if i.val = 11 then BitVec.ofNat 64 sidx
    else if i.val = 12 then BitVec.ofNat 64 p.crew
    else if 13 ≤ i.val then p.args.toList.getD (i.val - 13) 0
    else 0)

/-- The active lanes of the eight halves of a record. -/
def lanesVec (ms : List (BitVec 16)) : Vector (BitVec 16) 8 := Vector.ofFn (fun i : Fin 8 => ms.getD i.val 0)

/-- A strand as dispatch starts it at a leader: in task mode at the entry, or in supervisor mode at its resume vector. A strand that is bound
again keeps its L though a lane of its harness was retired after its placement (01 R25; log 92, the model's choice). -/
def State.newStrand (s : State) (c : Crew) (fe : Nat) (b : BindRec) : Strand :=
  let left := (s.slot fe).left
  let n := s.lanesOf b.prot b.listed
  let saved := c.saved.find? (fun x => x.sidx == b.sidx)
  let base := { Strand.reset with
    run := .bound, fe := fe, br := b, boundAt := s.tick, pc := b.vec
    icMark := s.wlog.length, icFence := Vector.replicate 8 s.wlog.length, icSeen := Vector.replicate 8 s.wlog.length
    csr := { Csrs.reset with stvec := b.tvec, sscratch := b.scr }
    mat := { (left.bind (fun l => l.mat)).getD Mat.reset with tcfg := Vector.replicate 8 0 } }
  let lanes := fun k : Nat => lanesVec (s.activeLanes b.prot b.listed k)
  if b.res then
    let l := c.lanes.getD b.sidx n
    { base with
      lanes := l
      act := lanes l
      vec := { Vec.reset with first := saved.any (fun x => x.first) }
      x := Vector.ofFn (fun i : Fin 32 => if i.val = 10 ∧ left.isSome then 1 else 0)
      sstat := { SStat.reset with mode := true, ts := 0, vs := 0, pp := c.pp }
      eng := { Eng.reset with tagset := (saved.map (fun x => x.tagset)).getD 0, tagerr := (saved.map (fun x => x.tagerr)).getD 0,
                              arrival := saved.bind (fun x => x.arrival) } }
  else { base with lanes := n, act := lanes n, x := entryRegs c.pkt b.sidx, sstat := { SStat.reset with pp := c.pp } }

/-- A strand joins those of the package. -/
def State.join (s : State) (t : Strand) : State :=
  if s.st.run = .unbound then { s with st := t } else { s with others := s.others ++ [t] }

/-- A task leaves its queue when it is bound (02 R34). -/
def State.leaveQueue (s : State) (c : Crew) : State :=
  s.mapQueue c.pkt.ctx c.queue (fun q => { q with waiting := q.waiting.filter (fun w => w.cnum != some c.cnum) })

/-- STRAND_START. -/
def execStrandStart (fe : Nat) (s : State) : Out :=
  slotEvent fe (
    let u := s.slot fe
    if u.state ≠ .starting ∨ u.br.lent then ok s
    else
      match s.crew? u.br.ctx u.br.cnum with
      | some c =>
        if c.kill.isSome then ok s
        else
          let t := s.newStrand c fe u.br
          let s := (spanOf fe u.br.g).foldl (fun s f => s.mapSlot f (fun u => { u with state := .bound })) s
          let s := (s.mapCrew c (fun d => { d with at_ := s.tick, lanes := if u.br.res then d.lanes else d.lanes.set u.br.sidx t.lanes })).join t
          ok (if s.allBound c then s.leaveQueue c else s)
      | none => ok s)

end Sys2Proof.Machine
end

