-- ==== Sys2Proof/Machine/Records.lean ====
section
/-! DEFINITION. Machine/Records.lean: completion queues and the fault buffer on their way to the host (14 R343 to R345; 11
R290; 25 R442, R444, R446). -/

namespace Sys2Proof.Machine

/-! ## The next record of a queue (11 R290) -/

/-- The oldest record of a record queue. -/
def State.firstRec (s : State) (fe : Nat) : Option Rec := (s.recq.find? (fun p => p.1 == fe)).map Prod.snd

/-- The record queue of a front end without its oldest record. -/
def dropRec (fe : Nat) (q : List (Nat × Rec)) : List (Nat × Rec) :=
  match q with
  | [] => []
  | p :: t => if p.1 = fe then t else p :: dropRec fe t

/-- Task field of a record. -/
def Rec.task (r : Rec) : Nat := fieldOf r.w0 0 32

/-- The record that has waited longest behind a firmware's full queue is posted in it, with the time as it then is (23 R409; 25 R450). -/
def pullRec (now : Word) (fe : Nat) (q : List (Nat × Rec)) : List (Nat × Rec) :=
  match q.find? (fun p => p.1 == fe + 512) with
  | some p => (q.erase p) ++ [(fe, { p.2 with w3 := now })]
  | none => q

/-- A task record follows every other record of its task (11 R290); an event of SIG, and the report of a lost request, follow the events
that the strand posted before, whichever front end posted them (13 R338; 25 R450). -/
def State.recFree (s : State) (fe : Nat) (r : Rec) : Bool :=
  (!r.isTask || !s.recq.any (fun p => !p.2.isTask && p.2.ctx == r.ctx && p.2.task == r.task && decide (p.1 < 512))) &&
    ((r.ev.or r.lost).isNone || !(s.recq.takeWhile (fun p => !(p.1 == fe && p.2 == r))).any
      (fun p => p.1 != fe && p.2.ctx == r.ctx && p.2.ev == r.ev.or r.lost))

/-- A record leaves its queue; a task record of class 0 or 1 completes its task (14 R343, R345; 23 R412). -/
def State.recGone (s : State) (fe : Nat) (r : Rec) : State :=
  let q := dropRec fe s.recq
  let s := { s with recq := if 512 ≤ fe then pullRec s.time fe q else q }
  if r.isTask ∧ fieldOf r.w0 40 4 ≠ 2 then s.mapCtxOf r.ctx (fun c => { c with done := insert c.done (r.task % 2 ^ 16) r.task }) else s

/-- A record is handed on to the host (14 R345). -/
def State.handOn (s : State) (fe : Nat) (r : Rec) : State := { (s.recGone fe r) with host := s.host ++ [.record r] }

/-! ## The header and the ring (14 Table 14.3) -/

/-- What a record queue's access to its context's memory comes to. -/
inductive RecAt where
  | key (k : Nat)
  | waits (s : State)
  /-- An access fault, a granule fault, a non-canonical address or a give-up. -/
  | bad (s : State)

/-- The record queue of a front end waits on a page (14 R345): source nibble 0xF. -/
def State.recFault (s : State) (fe : Nat) (c : Context) (task : Nat) (va : Nat) (use : Use) (mig : Bool) : State :=
  let t := BitVec.ofNat 32 task
  let s' := if mig then s else s.postFb (if fe < 512 then stackOf fe else fe - 512) (fe % 512) 15 c.asid t use va
  { s' with
    pfWaits := s.pfWaits ++ [{ fe := fe, asid := c.asid, page := va / 2 ^ 16, src := 31, who := 0, use := use.code, task := t,
                               va := BitVec.ofNat 64 va, gaveUp := false, mig := mig }] }

/-- Locates an address of a context's global memory for a record queue. -/
def State.recAt (s : State) (fe : Nat) (c : Context) (task : Nat) (va : Nat) (use : Use) : RecAt :=
  match s.pfHold fe va 1 31 0 with
  | some w => if w.gaveUp then .bad (s.endWaits fe 31 0) else .waits s
  | none =>
    if !cqUsable (BitVec.ofNat 64 va) then .bad s
    else
      let stack := if fe < 512 then stackOf fe else fe - 512
      match s.routed stack (s.translate stack c.root c.asid va true use) with
      | .at k => .key k
      | .notPresent => .waits (s.recFault fe c task va use false)
      | .migrating => .waits (s.recFault fe c task va use true)
      | .fault _ => .bad s

/-- Whether n bytes at a key are poisoned. -/
def State.badAt (s : State) (k n : Nat) : Bool := (List.range n).any (fun i => s.poisonedAt (k + i))

/-- A legal size of a ring. -/
def ringSize (n : Nat) : Bool := (List.range 17).any (fun i => n == 2 ^ (i + 4))

/-- Whether the header at a key is usable, but for its ring slot. -/
def State.headerOk (s : State) (k : Nat) : Bool :=
  let w := fun i => s.mem.val (k + 8 * i) 8
  !s.badAt k 32 && ringSize (w 1) && w 0 % 32 == 0 && decide ((w 2 + 2 ^ 64 - w 3) % 2 ^ 64 ≤ w 1)

/-- A record of 32 bytes. -/
def Rec.bytes (r : Rec) : List Byte := (([r.w0, r.w1, r.w2, r.w3] : List Word).map (fun w => leBytes 8 w.toNat)).flatten

/-- The record queue of a front end goes as far as it can with its oldest record. The header's 32 bytes lie one after another from the
translation of cq, also where cq is no multiple of 64 and they pass the end of a page (log 53, the model's choice). -/
def State.writeRec (s : State) (fe : Nat) (r : Rec) (c : Context) : State :=
  let cq := r.cq.toNat
  match s.recAt fe c r.task cq .read with
  | .waits s => s
  | .bad s => s.handOn fe r
  | .key k =>
    if !s.headerOk k then s.handOn fe r
    else
      let w := fun i => s.mem.val (k + 8 * i) 8
      if (w 2 + 2 ^ 64 - w 3) % 2 ^ 64 = w 1 then s
      else
        match s.recAt fe c r.task (cq + 16) .write, s.recAt fe c r.task ((w 0 + 32 * (w 2 % w 1)) % 2 ^ 64) .write with
        | .waits s, _ => s
        | _, .waits s => s
        | .bad s, _ => s.handOn fe r
        | _, .bad s => s.handOn fe r
        | .key kw, .key kr =>
          let cells := (keysFrom kr 32).zip r.bytes
          if s.meetsPoison cells then s.handOn fe r
          else
            let s := s.write .outside cells
            (s.write .outside (keysFrom kw 8 |>.zip (leBytes 8 ((w 2 + 1) % 2 ^ 64)))).recGone fe r

/-- An event of a record queue: of a front end, or of a stack's firmware. -/
def recordEvent (fe : Nat) (s : State) : Out :=
  if 520 ≤ fe then .fault (.noSuchUnit fe)
  else
    match s.firstRec fe with
    | none => ok s
    | some r =>
      if !s.recFree fe r then ok s
      else
        match s.ctx? r.ctx with
        | some c => ok (s.writeRec fe r c).reap
        | none => ok (s.handOn fe r)

/-- COMPLETION_RECORD_WRITE. -/
def execCompletionRecordWrite (fe : Nat) (s : State) : Out := recordEvent fe s

/-- HEADER_REREAD: the record is written where the ring has room by now. -/
def execHeaderReread (fe : Nat) (s : State) : Out := recordEvent fe s

/-! ## The fault buffer (25 R442, R444) -/

/-- The buffer of a stack. -/
def State.faultBuf (s : State) (stack : Nat) : FaultBuf := (lookup s.faultBufs stack).getD FaultBuf.empty

/-- The fifth word of a vendor event while records have been held (25 R444). -/
def FaultBuf.extra (b : FaultBuf) : Option Word := if b.ovf then some (BitVec.ofNat 64 (2 ^ 63 + b.heldn * 2 ^ 32)) else none

/-- The entry that frees takes the record that has been held longest; its time is that of its posting. -/
def FaultBuf.pull (b : FaultBuf) (now : Word) : FaultBuf :=
  match b.held with
  | r :: t => { b with recs := b.recs ++ [{ r with w3 := now }], held := t }
  | [] => b

/-- FAULT_RECORD_TO_HOST. -/
def execFaultRecordToHost (stack : Nat) (s : State) : Out :=
  if 8 ≤ stack then .fault (.noSuchUnit stack)
  else
    let b := s.faultBuf stack
    match b.recs with
    | r :: t =>
      ok { s with faultBufs := insert s.faultBufs stack ({ b with recs := t }.pull s.time),
                  host := s.host ++ [.pageFault stack r b.extra] }
    | [] => ok s

/-- The status word of a buffer (25 Table 25.4). -/
def FaultBuf.statusWord (b : FaultBuf) : Word :=
  BitVec.ofNat 64 ((if b.ovf then 2 ^ 63 else 0) + b.heldn % 2 ^ 16 * 2 ^ 32 + b.recs.length % 2 ^ 11)

/-- The firmware reads a buffer's status word. -/
def State.bufferRead (s : State) (stack : Nat) : State :=
  if stack < 8 then { s with host := s.host ++ [.bufferStatus stack (s.faultBuf stack).statusWord] } else s

/-- FAULT_BUFFER_STATUS_WRITE: ovf and heldn are cleared by writes of 1 (25 Table 25.4). -/
def execFaultBufferStatusWrite (stack : Nat) (value : Word) (s : State) : Out :=
  if 8 ≤ stack then .fault (.noSuchUnit stack)
  else
    let b := s.faultBuf stack
    let b := if value.getLsbD 63 then { b with ovf := false } else b
    let b := if value.getLsbD 32 then { b with heldn := 0 } else b
    ok { s with faultBufs := insert s.faultBufs stack b }

end Sys2Proof.Machine
end

