-- ==== Sys2Proof/Machine/Mailbox.lean ====
section
/-! DEFINITION. Machine/Mailbox.lean: the commands of the management mailbox, but for updates (14 R357; 12 R304, R306, R311,
R313; 25 R443). -/

namespace Sys2Proof.Machine

/-- A command is done, with its status and results (14 R357). -/
def State.reply (s : State) (status : Nat) (results : List Word) : State :=
  { s with fw := { s.fw with status := 2 ^ 63 + status % 2 ^ 16, cmd := false, results := results } }

/-- The mailbox takes one command at a time (14 R357): another that comes meanwhile is not taken (log 40). -/
def command (code : Nat) (s : State) (k : State → Out) : Out :=
  if s.fw.cmd then ok s
  else k { s with fw := { s.fw with code := BitVec.ofNat 64 code, status := 0, cmd := true, results := [] } }

/-- A command fails: its status is not 0. -/
def State.refuse (s : State) : State := s.reply (Config.mailboxError s.tick % 65535 + 1) []

/-! ## Contexts (12 R311, R313) -/

/-- A pool size: a multiple of 16 MiB up to 1,440 MiB (12 R311). -/
def poolOk (n : Nat) : Bool := n % 2 ^ 24 == 0 && decide (n ≤ 1440 * 2 ^ 20)

/-- Pool space given on a stack. -/
def State.poolGiven (s : State) (stack : Nat) : Nat := s.fw.contexts.foldl (fun a c => a + c.pool.toList.getD stack 0) 0

/-- The lowest ASID in no use. -/
def State.freeAsid (s : State) : Option Nat := (List.range 16384).find? (fun a => !s.fw.contexts.any (fun c => c.asid == a))

/-- CREATE_CONTEXT: the results are its handle and its ASID. -/
def execCreateContext (root tvec : Word) (pool : Vector Nat 8) (keep : Bool) (s : State) : Out :=
  command 1 s (fun s =>
  let fits := (List.range 8).all (fun k => poolOk (pool.toList.getD k 0) && decide (s.poolGiven k + pool.toList.getD k 0 ≤ 1440 * 2 ^ 20))
  match s.freeAsid with
  | some a =>
    if fits then
      let h := s.fw.nextHandle
      let c : Context := { handle := h, asid := a, root := root.toNat / 2 ^ 16 * 2 ^ 16, tvec := tvec, pool := pool, keep := keep,
                           dying := false, queues := [], wm := Vector.replicate 64 0, wmDone := [], done := [] }
      let s := { s with fw := { s.fw with contexts := s.fw.contexts ++ [c], nextHandle := h + 1 } }
      ok (s.reply 0 [BitVec.ofNat 64 h, BitVec.ofNat 64 a])
    else ok s.refuse
  | none => ok s.refuse)

/-- The record of a waiting task that is killed, posted by the coordinator's firmware; a crew waiting again has its own kill. -/
def State.killWaiting (s : State) (w : Waiting) (reason handle : Nat) : State :=
  match w.cnum.bind (s.crew? handle) with
  | some c => s.crewKill c 0xFF reason
  | none =>
    s.postFirmware s.fw.coordinator
      { w0 := recWord0 0 0xFF 2 0xFF (BitVec.ofNat 32 w.pkt.task), w1 := Config.killWord s.tick 0,
        w2 := recWord2 (Config.killWord s.tick 1) (BitVec.ofNat 64 reason), w3 := s.time, ctx := handle, cq := w.pkt.cq, isTask := true,
        ev := none, lost := none }

/-- Kills the tasks of a context that a test selects: those of crews, and those that wait in its queues. -/
def State.killTasks (s : State) (c : Context) (sel : Launch → Bool) (reason : Nat) : State :=
  let s := (s.fw.crews.filter (fun d => d.pkt.ctx == c.handle && sel d.pkt)).foldl (fun s d => s.crewKill d 0xFF reason) s
  let s := (c.queues.flatMap (fun q => q.2.waiting.filter (fun w => sel w.pkt))).foldl (fun s w => s.killWaiting w reason c.handle) s
  s.mapCtxOf c.handle (fun x => { x with queues := x.queues.map (fun q => (q.1, { q.2 with waiting := q.2.waiting.filter (fun w => !sel w.pkt) })) })

/-- DESTROY_CONTEXT: the command is done when the last record of the context is written. -/
def execDestroyContext (ctx : Nat) (s : State) : Out :=
  command 2 s (fun s =>
    match s.ctx? ctx with
    | none => ok s.refuse
    | some c => ok ((s.killTasks c (fun _ => true) 1).mapCtxOf ctx (fun x => { x with dying := true })).reap)

/-- SET_QUEUE (14 R342). -/
def execSetQueue (ctx queue pri : Nat) (s : State) : Out :=
  command 3 s (fun s =>
    match s.ctx? ctx with
    | none => ok s.refuse
    | some _ =>
      if 256 ≤ queue ∨ 8 ≤ pri then ok s.refuse
      else ok ((s.mapQueue ctx queue (fun q => { q with pri := pri })).reply 0 []))

/-- KILL_TASK: a kill of a task whose record is posted does nothing. -/
def execKillTask (ctx : Nat) (task : BitVec 32) (s : State) : Out :=
  command 4 s (fun s =>
    match s.ctx? ctx with
    | none => ok s.refuse
    | some c => ok ((s.killTasks c (fun p => p.task == task.toNat) 0).reply 0 []))

/-! ## Shootdowns (12 R304; 25 R443) -/

/-- SHOOTDOWN. -/
def execShootdown (w0 w1 w2 w3 : Word) (s : State) : Out :=
  command 5 s (fun s =>
  let scope := fieldOf w0 16 2
  if scope = 3 ∨ fieldOf w0 14 2 ≠ 0 ∨ fieldOf w0 18 46 ≠ 0 ∨ fieldOf w3 1 63 ≠ 0 ∨ (scope = 0 ∧ w1.toNat % 2 ^ 16 ≠ 0) then ok s.refuse
  else
    let h : Shoot := { asid := fieldOf w0 0 14, scope := scope, first := w1.toNat / 2 ^ 16, pages := w2.toNat, giveUp := w3.getLsbD 0 }
    ok { s with shoots := s.shoots ++ [h] })

/-- The leaf under a root that translates an address of a wait: first page, number of pages, and whether it is global. -/
def State.leafUnder (s : State) (w : PfWait) (root : Nat) : Option (Nat × Nat × Bool) :=
  let view := fun _ : Nat => s.mem.get
  let r := walk s (stackOf w.fe) view root w.va.toNat true .read [2, 1, 0]
  (leafOf view r w.va.toNat).map (fun e =>
    let n := 2 ^ (13 * (3 - r.2.length))
    (w.page / n * n, n, e / 2 ^ 50 % 2 == 1))

/-- The entries that an access may wait on, each with its first page, number of pages, and whether it is global: the leaf of its own tables
as it stands, or the page alone where there is none, and global ones of other ASIDs' tables, which serve it too (12 R304). -/
def State.waitEntries (s : State) (w : PfWait) : List (Nat × Nat × Bool) :=
  let own := s.fw.contexts.find? (fun c => c.asid == w.asid)
  let roots := (s.fw.contexts.filter (fun c => c.asid != w.asid)).map (fun c => c.root) ++ s.oldRoots.map (fun r => r.root)
  ((own.bind (fun c => s.leafUnder w c.root)).getD (w.page, 1, false)) :: (roots.filterMap (s.leafUnder w)).filter (fun e => e.2.2)

/-- Whether a shootdown covers the page that an access waits on: in its own ASID, or as part of an entry that translates it (12 R304,
R314). -/
def Shoot.covers (h : Shoot) (s : State) (w : PfWait) : Bool :=
  h.scope == 2 || (h.scope == 1 && h.asid == w.asid) ||
    (h.scope == 0 && (s.waitEntries w).any (fun e =>
      (h.asid == w.asid || e.2.2) && decide (h.first < e.1 + e.2.1) && decide (e.1 < h.first + h.pages)))

/-- A shootdown's answer to the accesses that wait on pages it covers; one that waits on a migrating entry walks again whatever the
answer (25 R443). -/
def Shoot.answer (h : Shoot) (s : State) : List PfWait :=
  if h.giveUp then
    (s.pfWaits.filter (fun w => !(w.mig && h.covers s w))).map (fun w => if h.covers s w then { w with gaveUp := true } else w)
  else s.pfWaits.filter (fun w => w.gaveUp || !h.covers s w)

/-- SHOOTDOWN_COMPLETE: accesses of a step are performed within it, so none that used an old translation is left. -/
def execShootdownComplete (n : Nat) (s : State) : Out :=
  match s.shoots[n]? with
  | none => ok s
  | some h =>
    let shot : Shot := { asid := h.asid, scope := h.scope, first := h.first, pages := h.pages, mark := s.wlog.length }
    ok ({ s with shoots := s.shoots.eraseIdx n, shots := shot :: s.shots, pfWaits := h.answer s,
                 oldRoots := if h.scope = 2 then [] else s.oldRoots }.reply 0 [])

/-! ## Granule regions (12 R306) -/

/-- A region's granule code and reserved mark, as the command returns them. -/
def State.regionWord (s : State) (r : Nat) : Word := BitVec.ofNat 64 (s.granCode r + (if s.reserved.contains r then 2 ^ 8 else 0))

/-- A region takes a granule: every byte of it then reads as zero. -/
def State.setRegion (s : State) (r code : Nat) : State :=
  let lo := r * 2 ^ 30
  let hi := lo + 2 ^ 30
  let inside := fun k : Nat => decide (lo ≤ k) && decide (k < hi)
  let free := fun t : Strand => { t with resv := t.resv.filter (fun v => !inside (v.1 * 64)) }
  { s with
    mem := s.mem.clear lo hi
    wlog := (wordRuns (s.mem.filter (fun c => inside c.1))).map (fun r => { by_ := 0, cells := r }) ++ s.wlog
    poison := s.poison.filter (fun p => !inside p.1)
    grans := if code = 1 then s.grans.filter (fun g => g.1 != r) else insert s.grans r code
    st := free s.st
    others := s.others.map free }

/-- Whether a valid entry below a table maps a frame in a region: tables of successive levels; an entry that no listed byte of memory
lies in is not valid. -/
def mapsRegion (m : Memory) (r t : Nat) (levels : List Nat) : Bool :=
  match levels with
  | [] => false
  | l :: rest =>
    let slots := ((m.filter (fun c => decide (t ≤ c.1) && decide (c.1 < t + 2 ^ 16) && decide (c.1 % 64 < 56))).map
      (fun c => c.1 / 64 * 64 + c.1 % 64 / 7 * 7)).eraseDups
    slots.any (fun a =>
      let e := m.val a 7
      e / 2 ^ 40 % 2 == 1 &&
        (if e / 2 ^ 54 % 2 = 1 then mapsRegion m r (e % 2 ^ 40 * 2 ^ 16) rest
         else decide (e % 2 ^ 40 < (r + 1) * 2 ^ 14) && decide (r * 2 ^ 14 < e % 2 ^ 40 + 2 ^ (13 * l))))

/-- GRANULE_REGIONS: a region changes only while no valid entry of any context maps a frame in it. -/
def execGranuleRegions (change : Option (Nat × Nat)) (s : State) : Out :=
  command 6 s (fun s =>
    let done := fun s : State => s.reply 0 ((List.range 1024).map s.regionWord)
    match change with
    | none => ok (done s)
    | some (r, code) =>
      if 1024 ≤ r ∨ 5 ≤ code ∨ s.reserved.contains r ∨ s.fw.contexts.any (fun c => mapsRegion s.mem r c.root [2, 1, 0]) then ok s.refuse
      else ok (done (s.setRegion r code)))

/-! ## The registers of the mailbox (14 R357) -/

/-- The host writes an aligned word of BAR0: an argument word, or the command code. Of the commands only Shootdown's argument words have
a layout in the spec (25 R443): its code starts it; the others start by the rows of their own (log 40). -/
def State.barWrite (s : State) (off : Nat) (w : Word) : Out :=
  let a := s.fw.args.toList
  if !s.dieReaches 0 s.fw.coordinator then ok s
  else if 0x40 ≤ off ∧ off < 0x80 then
    ok { s with fw := { s.fw with args := Vector.ofFn (fun i : Fin 8 => if 0x40 + 8 * i.val = off then w else s.fw.args[i]) } }
  else if off ≠ 0 ∨ s.fw.cmd then ok s
  else if w = 5 then execShootdown (a.getD 0 0) (a.getD 1 0) (a.getD 2 0) (a.getD 3 0) s
  else ok { s with fw := { s.fw with code := w, status := 0 } }

/-- The host reads an aligned word of BAR0. -/
def State.barRead (s : State) (off : Nat) : State :=
  let w : Word :=
    if off = 0 then s.fw.code else if off = 8 then BitVec.ofNat 64 s.fw.status
    else if 0x40 ≤ off ∧ off < 0x80 then s.fw.args.toList.getD ((off - 0x40) / 8) 0 else 0
  if s.dieReaches 0 s.fw.coordinator then { s with host := s.host ++ [.mailbox off w] } else s

end Sys2Proof.Machine
end

