-- ==== Sys2Proof/Machine/RemoteIns.lean ====
section
/-! DEFINITION. Machine/RemoteIns.lean: RAMO, RAMOQ and the memory packets as instructions, with their events (11 R274 to
R276, R281 to R284, R291). -/

namespace Sys2Proof.Machine

/-! ## RAMO (R274) -/

/-- The RAMO that an instruction sends: x[n] the operand, x[n + 1] the identifier word. -/
def State.newRamo (s : State) (f : RF) : Ramo :=
  let w := s.x (f.rs2 + 1)
  { rd := f.rd.toNat, addr := s.x f.rs1, operand := s.x f.rs2, ident := fieldOf w 0 16, op := fieldOf w 16 4,
    is32 := w.getLsbD 20, pc := s.st.pc, res := none, serial := s.st.eng.serial, sup := s.sup, sent := s.tick }

/-- The front end notes the identifier of a new RAMO, with its target where its address leads somewhere already (R276). -/
def State.noteTarget (s : State) (r : Ramo) : State :=
  s.noteIdent r.ident (match s.locate s.st r.addr.toNat r.sup .atomic with
    | .at k => some (targetOf k)
    | _ => none)

/-- RAMO. Its identifier word is tested before the alignment of its address (log 84, the model's choice). -/
def execRamo (f : RF) (s : State) : Out :=
  let i := Instr.ramo f
  if s.waitsX [f.rs1, f.rs2, f.rs2 + 1, f.rd] then waitX i s
  else
    let r := s.newRamo f
    if 8 < r.op ∨ fieldOf (s.x (f.rs2 + 1)) 21 43 ≠ 0 then trapI s 0x1E i
    else if r.addr.toNat % r.size ≠ 0 then trapV s 0x5E r.addr
    else
      let s := s.noteTarget r
      let e := s.st.eng
      retire (s.setEng { e with ramos := e.ramos ++ [r], serial := e.serial + 1,
                                pendX := if f.rd = 0 then e.pendX else e.pendX ++ [f.rd.toNat] })

/-- The answer of a RAMOQ arrives: x[rd] receives it and the instruction completes. -/
def State.ramoqDone (s : State) (rd : BitVec 5) (v : Word) : Out :=
  retire ((s.setX rd v).setEng { s.st.eng with query := none })

/-- RAMOQ_ANSWER (R276): it follows the RAMO of that identifier where one is outstanding. -/
def execRamoqAnswer (s : State) : Out :=
  match s.st.eng.query with
  | some (rd, ident) =>
    if s.st.eng.ramos.any (fun r => r.res.isNone && r.ident == ident) then ok s
    else s.ramoqDone (BitVec.ofNat 5 rd) (s.ramoAnswer ident)
  | none => ok s

/-- RAMOQ (R276): it asks, and then waits for the answer. -/
def execRamoq (f : RF) (s : State) : Out :=
  let ident := (s.x f.rs1).toNat
  if s.waitsX [f.rs1, f.rd] then waitX (.ramoq f) s
  else if 2 ^ 16 ≤ ident then trapI s 0x1E (.ramoq f)
  else if s.st.eng.query = some (f.rd.toNat, ident) then
    if s.st.eng.ramos.any (fun r => r.res.isNone && r.ident == ident) then waitRamo (.ramoq f) s else execRamoqAnswer s
  else ok (s.setEng { s.st.eng with query := some (f.rd.toNat, ident) })

/-- The outstanding RAMO with a serial number. -/
def State.ramo? (s : State) (n : Nat) : Option Ramo := s.st.eng.ramos.find? (fun r => r.serial == n)

/-- RAMO_AT_TARGET (R275): one that meets a page fault posts its record. -/
def execRamoAtTarget (n : Nat) (s : State) : Out :=
  match s.ramo? n with
  | some r =>
    if r.res.isSome then ok s
    else
      match s.ramoTurn r with
      | .does ks => ok (s.ramoDo r ks)
      | .waits h => ok (s.postHalt 14 r.serial h)
      | _ => ok s
  | none => ok s

/-- RAMO_RESPONSE (R274). -/
def execRamoResponse (n : Nat) (s : State) : Out :=
  match s.ramo? n with
  | some r =>
    match r.res with
    | some v => ok (s.ramoGone r v)
    | none => ok s
  | none => ok s

/-! ## Packets (R281 to R284) -/

/-- Tags held: from issue until the reply arrives. -/
def Eng.heldTags (e : Eng) : List Nat := e.pkts.map (fun p => p.tag) ++ e.flight.map (fun r => r.tag)

/-- Packets sent and not popped. -/
def Eng.unpopped (e : Eng) : Nat := e.pkts.length + e.flight.length + e.replies.length

/-- The lowest free tag. -/
def Eng.freeTag (e : Eng) : Option Nat := (List.range 8).find? (fun t => !e.heldTags.contains t)

/-- An instruction waits for a reply to arrive: the oldest under way arrives, else a packet is performed. -/
def waitReply (i : Instr) (s : State) : Out := if s.st.eng.flight.isEmpty then waitPacket i s else ok (s.replyIn 0)

/-- o0 to o7 as 64 bytes, o0 the lowest (R281). -/
def State.oLine (s : State) : BitVec 512 :=
  BitVec.ofNat 512 ((List.range 8).foldl (fun a j => a + (s.st.vec.o.toList.getD j 0).toNat * 2 ^ (64 * j)) 0)

/-- Before o registers are read or overwritten whole: a pending reduction forces, and its pass ends (04 Table 4.2). -/
def afterRed (s : State) (i : Instr) (k : State → Out) : Out :=
  if s.st.vec.pk.anyRed || s.st.vec.ahead.any (fun a => a.pk.anyRed || a.setsAny) then afterPass s i (forceThen s k) else k s

/-- The tests of a packet request: privilege, first use, its address, and room. -/
def packetGate (s : State) (i : Instr) (a : Word) (xs : List (BitVec 5)) (k : Out) : Out :=
  if !s.sup then trapI s 0x2D i
  else if s.waitsX xs then waitX i s
  else if s.st.sstat.vs = 0 then trapI s 0xD2 i
  else if fieldOf a 40 24 ≠ 0 ∨ a.toNat % 64 ≠ 0 then trapV s 0x5D a
  else if 16 ≤ s.st.eng.unpopped then trapI s 0x9D i
  else k

/-- Sends a packet once a tag is free. -/
def sendPacket (s : State) (i : Instr) (rd : BitVec 5) (p : Nat → Packet) : Out :=
  match s.st.eng.freeTag with
  | some t =>
    let e := s.st.eng
    retire ((s.setEng { e with pkts := e.pkts ++ [p t], serial := e.serial + 1 }).setX rd (BitVec.ofNat 64 t))
  | none => waitReply i s

/-- MPKW (R282). -/
def execMpkw (f : RF) (s : State) : Out :=
  let i := Instr.mpkw f
  packetGate s i (s.x f.rs1) [f.rs1, f.rs2, f.rd] (afterRed s i (fun s =>
    sendPacket s i f.rd (fun t =>
      { tag := t, addr := s.x f.rs1, isRead := false, data := s.oLine, mask := s.x f.rs2, serial := s.st.eng.serial })))

/-- MPKR (R282). -/
def execMpkr (f : RF) (s : State) : Out :=
  packetGate s (.mpkr f) (s.x f.rs1) [f.rs1, f.rd] (
    sendPacket s (.mpkr f) f.rd (fun t =>
      { tag := t, addr := s.x f.rs1, isRead := true, data := 0, mask := 0, serial := s.st.eng.serial }))

/-- The word of Table 11.7. -/
def Reply.word (r : Reply) : Word :=
  BitVec.ofNat 64 (r.tag % 8 + 2 ^ 3 + (if r.isRead then 2 ^ 4 else 0) + r.cause.toNat * 2 ^ 8 + r.cls % 16 * 2 ^ 16 +
    13 * 2 ^ 20 + fieldOf r.addr 36 4 * 2 ^ 24 + fieldOf r.addr 6 30 * 2 ^ 28)

/-- The oldest reply is popped (R283). -/
def popReply (f : RF) (r : Reply) (s : State) : Out :=
  let s := s.setEng { s.st.eng with replies := s.st.eng.replies.drop 1 }
  let s := if r.isRead then
      let d := if r.cls = 0 then r.data else 0
      s.dirtyIf (s.setVec { s.st.vec with o := Vector.ofFn (fun j : Fin 8 => d.extractLsb' (64 * j.val) 64) })
    else s
  retire (s.setX f.rd r.word)

/-- MPKP (R283). -/
def execMpkp (f : RF) (s : State) : Out :=
  let i := Instr.mpkp f
  if !s.sup then trapI s 0x2D i
  else if s.waitsX [f.rd] then waitX i s
  else if s.st.sstat.vs = 0 then trapI s 0xD2 i
  else
    match s.st.eng.replies with
    | r :: _ => if r.isRead then afterRed s i (popReply f r) else popReply f r s
    | [] => if s.st.eng.unpopped = 0 then retire (s.setX f.rd 0) else waitReply i s

/-- PACKET_AT_BASE_DIE (R284). -/
def execPacketAtBaseDie (n : Nat) (s : State) : Out :=
  match s.st.eng.pkts.find? (fun p => p.serial == n) with
  | some p => ok (runPacket s p)
  | none => ok s

/-- PACKET_REPLY_ARRIVAL (R282). -/
def execPacketReplyArrival (n : Nat) (s : State) : Out := ok (s.replyIn n)

end Sys2Proof.Machine
end

