-- ==== Sys2Proof/Machine/Scalar.lean ====
section
/-! DEFINITION. Machine/Scalar.lean: the RV64G, Zba and Zbb instructions (05 R109) as their RISC-V specifications define
them (log 13). -/

namespace Sys2Proof.Machine

/-! ## Integer operations -/

/-- The low 32 bits of a word, sign-extended. -/
def sext32 (w : Word) : Word := (w.truncate 32).signExtend 64

/-- The low 32 bits of a word, zero-extended. -/
def zext32 (w : Word) : Word := (w.truncate 32).zeroExtend 64

/-- Quotient of w bits: division by zero gives all ones, overflow the dividend (RV64M). -/
def mDiv (w : Nat) (a b : Word) : Word := wordOf (sgn w (divS w a.toNat b.toNat))

/-- Remainder of w bits: by zero the dividend (RV64M). -/
def mRem (w : Nat) (a b : Word) : Word := wordOf (sgn w (remS w a.toNat b.toNat))

/-- Unsigned quotient of w bits. -/
def mDivU (w : Nat) (a b : Word) : Word := wordOf (sgn w (divU w a.toNat b.toNat))

/-- Unsigned remainder of w bits. -/
def mRemU (w : Nat) (a b : Word) : Word := wordOf (sgn w (remU w a.toNat b.toNat))

/-- A word rotated left. -/
def rotL (a : Word) (n : Nat) : Word := (a <<< (n % 64)) ||| (a >>> (64 - n % 64))

/-- The low 32 bits rotated left, sign-extended. -/
def rotL32 (a : Word) (n : Nat) : Word :=
  let b : BitVec 32 := a.truncate 32
  ((b <<< (n % 32)) ||| (b >>> (32 - n % 32))).signExtend 64

/-- A truth value as a word. -/
def boolWord (b : Bool) : Word := if b then 1 else 0

/-- Register-register operations. -/
def regOp (o : RegOp) (a b : Word) : Word :=
  let sh := b.toNat % 64
  let shw := b.toNat % 32
  let a32 : BitVec 32 := a.truncate 32
  match o with
  | .add => a + b
  | .sub => a - b
  | .sll => a <<< sh
  | .slt => boolWord (a.slt b)
  | .sltu => boolWord (a.ult b)
  | .xor => a ^^^ b
  | .srl => a >>> sh
  | .sra => a.sshiftRight sh
  | .or => a ||| b
  | .and => a &&& b
  | .mul => a * b
  | .mulh => wordOf (a.toInt * b.toInt / 2 ^ 64)
  | .mulhsu => wordOf (a.toInt * (b.toNat : Int) / 2 ^ 64)
  | .mulhu => BitVec.ofNat 64 (a.toNat * b.toNat / 2 ^ 64)
  | .div => mDiv 64 a b
  | .divu => mDivU 64 a b
  | .rem => mRem 64 a b
  | .remu => mRemU 64 a b
  | .andn => a &&& ~~~b
  | .orn => a ||| ~~~b
  | .xnor => ~~~(a ^^^ b)
  | .min => if a.slt b then a else b
  | .minu => if a.ult b then a else b
  | .max => if a.slt b then b else a
  | .maxu => if a.ult b then b else a
  | .rol => rotL a sh
  | .ror => rotL a (64 - sh)
  | .sh1add => b + (a <<< 1)
  | .sh2add => b + (a <<< 2)
  | .sh3add => b + (a <<< 3)
  | .addw => sext32 (a + b)
  | .subw => sext32 (a - b)
  | .sllw => (a32 <<< shw).signExtend 64
  | .srlw => (a32 >>> shw).signExtend 64
  | .sraw => (a32.sshiftRight shw).signExtend 64
  | .mulw => sext32 (a * b)
  | .divw => mDiv 32 a b
  | .divuw => mDivU 32 a b
  | .remw => mRem 32 a b
  | .remuw => mRemU 32 a b
  | .rolw => rotL32 a shw
  | .rorw => rotL32 a (32 - shw)
  | .addUw => b + zext32 a
  | .sh1addUw => b + (zext32 a <<< 1)
  | .sh2addUw => b + (zext32 a <<< 2)
  | .sh3addUw => b + (zext32 a <<< 3)

/-- Operations with a sign-extended 12-bit immediate. -/
def immOp (o : ImmOp) (a : Word) (imm : BitVec 12) : Word :=
  let b := imm.signExtend 64
  match o with
  | .addi => a + b
  | .slti => boolWord (a.slt b)
  | .sltiu => boolWord (a.ult b)
  | .xori => a ^^^ b
  | .ori => a ||| b
  | .andi => a &&& b
  | .addiw => sext32 (a + b)

/-- Shifts by a 6-bit immediate. -/
def shOp (o : ShOp) (a : Word) (sh : BitVec 6) : Word :=
  let n := sh.toNat
  match o with
  | .slli => a <<< n
  | .srli => a >>> n
  | .srai => a.sshiftRight n
  | .rori => rotL a (64 - n)
  | .slliUw => zext32 a <<< n

/-- 32-bit shifts by a 5-bit immediate. -/
def shWOp (o : ShWOp) (a : Word) (sh : BitVec 5) : Word :=
  let n := sh.toNat
  let a32 : BitVec 32 := a.truncate 32
  match o with
  | .slliw => (a32 <<< n).signExtend 64
  | .srliw => (a32 >>> n).signExtend 64
  | .sraiw => (a32.sshiftRight n).signExtend 64
  | .roriw => rotL32 a (32 - n)

/-- Trailing zeros of a w-bit number; w for zero. -/
def ctzOf (w a : Nat) : Nat := ((List.range w).find? (fun i => a.testBit i)).getD w

/-- One-operand operations of Zbb. -/
def unOp (o : UnOp) (a : Word) : Word :=
  let byte := fun i : Nat => a.toNat / 256 ^ i % 256
  match o with
  | .clz => BitVec.ofNat 64 (clzOf 64 a.toNat)
  | .ctz => BitVec.ofNat 64 (ctzOf 64 a.toNat)
  | .cpop => BitVec.ofNat 64 (popOf 64 a.toNat)
  | .clzw => BitVec.ofNat 64 (clzOf 32 a.toNat)
  | .ctzw => BitVec.ofNat 64 (ctzOf 32 a.toNat)
  | .cpopw => BitVec.ofNat 64 (popOf 32 a.toNat)
  | .sextB => (a.truncate 8).signExtend 64
  | .sextH => (a.truncate 16).signExtend 64
  | .zextH => (a.truncate 16).zeroExtend 64
  | .orcB => BitVec.ofNat 64 (leNat ((List.range 8).map (fun i => if byte i = 0 then (0 : Byte) else 0xFF)))
  | .rev8 => BitVec.ofNat 64 (leNat ((List.range 8).map (fun i => BitVec.ofNat 8 (byte (7 - i)))))

/-- Branch conditions. -/
def brTaken (c : BrCond) (a b : Word) : Bool :=
  match c with
  | .eq => a == b
  | .ne => a != b
  | .lt => a.slt b
  | .ge => !a.slt b
  | .ltu => a.ult b
  | .geu => !a.ult b

/-! ## Floating-point operations (R60; NaN boxing and results of RV64F and RV64D) -/

/-- The layout of a format flag. -/
def dFmt (dbl : Bool) : FF := if dbl then fp64 else fp32

/-- The pattern of an f register in a format: an unboxed binary32 value is the canonical NaN. -/
def State.fIn (s : State) (dbl : Bool) (r : BitVec 5) : Nat :=
  let v := (s.f r).toNat
  if dbl then v else if v / 2 ^ 32 = 2 ^ 32 - 1 then v % 2 ^ 32 else fp32.nan

/-- A result as an f register holds it: binary32 is boxed. -/
def fBox (dbl : Bool) (x : Nat) : Word := BitVec.ofNat 64 (if dbl then x else x % 2 ^ 32 + (2 ^ 32 - 1) * 2 ^ 32)

/-- Sets scalar flags. -/
def State.addFlags (s : State) (fl : FFlags) : State := { s with st := { s.st with fflags := s.st.fflags ||| fl } }

/-- The rounding mode of an rm field, where it names one: 7 is frm. -/
def State.rmOf (s : State) (rm : BitVec 3) : Option Nat :=
  let r := if rm = 7 then s.st.frm.toNat else rm.toNat
  if r ≤ 4 then some r else none

/-- A rounded operation: an rm that names no mode makes the word illegal. -/
def withRm (s : State) (i : Scalar) (rm : BitVec 3) (k : Nat → Out) : Out :=
  match s.rmOf rm with
  | some r => k r
  | none => trapI s 0x00 (.scalarInstruction i)

/-- Completes with a value in f[rd] and flags. -/
def fDone (s : State) (dbl : Bool) (rd : BitVec 5) (r : Nat × FFlags) : Out :=
  retire ((s.setF rd (fBox dbl r.1)).addFlags r.2)

/-- FMADD, FMSUB, FNMSUB, FNMADD. -/
def fmaOp (o : FmaOp) (f : FF) (rm : Nat) (a b c : FV) : Nat × FFlags :=
  match o with
  | .fmadd => fFma f rm a b c
  | .fmsub => fFma f rm a b c.negate
  | .fnmsub => fFma f rm a.negate b c
  | .fnmadd => fFma f rm a.negate b c.negate

/-- FADD, FSUB, FMUL, FDIV. -/
def farOp (o : FArOp) (f : FF) (rm : Nat) (a b : FV) : Nat × FFlags :=
  match o with
  | .fadd => fAdd f rm a b
  | .fsub => fAdd f rm a b.negate
  | .fmul => fMul f rm a b
  | .fdiv => fDiv f rm a b

/-- FSGNJ, FSGNJN, FSGNJX: the sign bit alone. -/
def fsgOp (o : FSgOp) (f : FF) (a b : Nat) : Nat :=
  let m := 2 ^ (f.eb + f.fb)
  let sa := a / m % 2
  let sb := b / m % 2
  let s := match o with
    | .fsgnj => sb
    | .fsgnjn => 1 - sb
    | .fsgnjx => (sa + sb) % 2
  a % m + s * m

/-- FEQ, FLT, FLE with their flags. -/
def fcmpOp (o : FCmpOp) (f : FF) (a b : Nat) : Bool × FFlags :=
  match o with
  | .feq => fpCmp .fcmpEq f a b
  | .flt => fpCmp .fcmpLt f a b
  | .fle => fpCmp .fcmpLe f a b

/-- Width and least and greatest value of an integer kind. -/
def intKind (k : FIntK) : Nat × Int × Int :=
  match k with
  | .w => (32, -(2 ^ 31), 2 ^ 31 - 1)
  | .wu => (32, 0, 2 ^ 32 - 1)
  | .l => (64, -(2 ^ 63), 2 ^ 63 - 1)
  | .lu => (64, 0, 2 ^ 64 - 1)

/-- Float to integer: a NaN gives the greatest value; a 32-bit result is sign-extended. -/
def fToInt (k : FIntK) (rm : Nat) (v : FV) : Word × FFlags :=
  let c := intKind k
  let r := if v.isNan then (c.2.2, fNV) else fvToInt rm c.2.1 c.2.2 v
  (wordOf (sgn c.1 (wrap c.1 r.1)), r.2)

/-- Integer to float. -/
def fFromInt (k : FIntK) (f : FF) (rm : Nat) (x : Word) : Nat × FFlags :=
  let i : Int := match k with
    | .w => sgn 32 x.toNat
    | .wu => ((x.toNat % 2 ^ 32 : Nat) : Int)
    | .l => x.toInt
    | .lu => (x.toNat : Int)
  packFp f rm false (fvInt i 0 false)

/-! ## Memory operations -/

/-- The bytes of an integer load and whether it sign-extends. -/
def ldShape (k : LdW) : Nat × Bool :=
  match k with
  | .b => (1, true) | .h => (2, true) | .w => (4, true) | .d => (8, true)
  | .bu => (1, false) | .hu => (2, false) | .wu => (4, false)

/-- The bytes of an integer store. -/
def stSize (k : StW) : Nat :=
  match k with
  | .b => 1 | .h => 2 | .w => 4 | .d => 8

/-- A loaded value as x[rd] receives it. -/
def ldValue (k : LdW) (bs : List Byte) : Word :=
  let c := ldShape k
  if c.2 then wordOf (sgn (8 * c.1) (leNat bs)) else BitVec.ofNat 64 (leNat bs)

/-- A base and an immediate added. -/
def addrOf (s : State) (rs1 : BitVec 5) (imm : BitVec 12) : Nat := (s.x rs1 + imm.signExtend 64).toNat

/-- A scalar load of n bytes (13 R325). -/
def scalarLoad (s : State) (a n : Nat) (k : List Byte → State → Out) : Out := (s.readN a n 1 .read).andThen k

/-- A scalar store of n bytes: it waits for a pass an access of which it would split (13 R323; log 93). -/
def scalarStore (s : State) (i : Instr) (a n v : Nat) : Out :=
  if s.splitsPass (s.storeKeys a (leBytes n v)) then waitPass i s
  else (s.storeN a (leBytes n v) 1).andThen (fun _ s => retire s)

/-- Bytes of an RV64A access. -/
def amoSize (dbl : Bool) : Nat := if dbl then 8 else 4

/-- An RV64A access: aligned (13 R325), located, and free of poison. -/
def State.amoAccess (s : State) (a n : Nat) (use : Use) : Got (List Nat) :=
  if a % n ≠ 0 then .trap 0x51 (BitVec.ofNat 64 a) s
  else
    match s.access a n 1 use with
    | .val ks s =>
      (match s.poisonVa a ks with
       | some p => .trap 0x71 (BitVec.ofNat 64 p) s
       | none => .val ks s)
    | .wait s => .wait s
    | .trap c v s => .trap c v s

/-- The old value of an RV64A access as x[rd] receives it. -/
def State.amoOld (s : State) (n : Nat) (ks : List Nat) : Word := wordOf (sgn (8 * n) (leNat (ks.map s.mem.get)))

/-- The new value of an AMO on w bits. -/
def amoNew (o : AmoOp) (w old opd : Nat) : Nat :=
  match o with
  | .swap => opd % 2 ^ w
  | .add => (old + opd) % 2 ^ w
  | .xor => old % 2 ^ w ^^^ opd % 2 ^ w
  | .and => old % 2 ^ w &&& opd % 2 ^ w
  | .or => old % 2 ^ w ||| opd % 2 ^ w
  | .min => if sgn w opd < sgn w old then opd % 2 ^ w else old % 2 ^ w
  | .max => if sgn w old < sgn w opd then opd % 2 ^ w else old % 2 ^ w
  | .minu => min (old % 2 ^ w) (opd % 2 ^ w)
  | .maxu => max (old % 2 ^ w) (opd % 2 ^ w)

/-- LR (13 R330). -/
def lrStep (s : State) (dbl : Bool) (rd rs1 : BitVec 5) : Out :=
  let n := amoSize dbl
  (s.amoAccess (s.x rs1).toNat n .read).andThen (fun ks s =>
    let s' := s.setX rd (s.amoOld n ks)
    retire { s' with st := { s'.st with resv := some (ks.headD 0 / 64, false) } })

/-- Whether an SC whose bytes lie at a key succeeds: the line is reserved; one that another path of the strand has written
may fail (13 R330). -/
def State.scTakes (s : State) (k : Nat) : Bool :=
  match s.st.resv with
  | some (line, dirty) => line == k / 64 && (!dirty || Config.scMay s.tick)
  | none => false

/-- An indivisible write of the scalar path (13 R323): the stores and atomics of an earlier pass on its bytes come before it (13 R328), so
it waits for them; where the pass is held in supervisor mode, and cannot go on, the pass will see what it writes (log 93). -/
def atomicThen (s : State) (i : Instr) (ks : List Nat) (k : Writer → Out) : Out :=
  if s.passMayWrite ks then (if s.sup && s.st.vec.pass.any (fun p => p.held) then k (.engine 0) else waitPass i s) else k .scalar

/-- SC (13 R330): it ends the reservation; with none held it makes no access (log 13). -/
def scStep (s : State) (i : Instr) (dbl : Bool) (rd rs1 rs2 : BitVec 5) : Out :=
  let n := amoSize dbl
  let a := (s.x rs1).toNat
  let fin := fun (s : State) (r : Word) =>
    let s := s.setX rd r
    retire { s with st := { s.st with resv := none } }
  if a % n ≠ 0 then trapV s 0x51 (BitVec.ofNat 64 a)
  else if s.st.resv.isNone then fin s 1
  else
    (s.access a n 1 .write).andThen (fun ks s' =>
      if s'.scTakes (ks.headD 0) then
        let cells := ks.zip (leBytes n (s.x rs2).toNat)
        atomicThen s' i ks (fun w =>
          (s'.sends 1 a (fun t => (t.logDropped cells t.st.br.task.toNat).write w cells)).andThen (fun _ t => fin t 0))
      else fin s' 1)

/-- An AMO. -/
def amoStep (s : State) (i : Instr) (o : AmoOp) (dbl : Bool) (rd rs1 rs2 : BitVec 5) : Out :=
  let n := amoSize dbl
  (s.amoAccess (s.x rs1).toNat n .atomic).andThen (fun ks s' =>
    let old := leNat (ks.map s'.mem.get)
    let cells := ks.zip (leBytes n (amoNew o (8 * n) old (s.x rs2).toNat))
    atomicThen s' i ks (fun w =>
      (s'.sends 1 (s.x rs1).toNat (fun t => t.write w cells)).andThen (fun _ t => retire (t.setX rd (s'.amoOld n ks)))))

/-! ## The instructions -/

/-- The x registers a scalar instruction names. -/
def scalarRegs (i : Scalar) : List (BitVec 5) :=
  match i with
  | .lui rd _ | .auipc rd _ | .jal rd _ => [rd]
  | .jalr rd rs1 _ | .load _ rd rs1 _ | .opImm _ rd rs1 _ | .shImm _ rd rs1 _ | .shImmW _ rd rs1 _ | .unary _ rd rs1
  | .lr _ _ _ rd rs1 => [rd, rs1]
  | .branch _ rs1 rs2 _ | .store _ rs1 rs2 _ => [rs1, rs2]
  | .opReg _ rd rs1 rs2 | .sc _ _ _ rd rs1 rs2 | .amo _ _ _ _ rd rs1 rs2 => [rd, rs1, rs2]
  | .fload _ _ rs1 _ | .fstore _ rs1 _ _ | .fcvtFromInt _ _ _ _ rs1 | .fmvFromX _ _ rs1 => [rs1]
  | .fcmp _ _ rd _ _ | .fclass _ rd _ | .fcvtToInt _ _ _ rd _ | .fmvToX _ rd _ => [rd]
  | .csrRead _ | .fma .. | .farith .. | .fsqrt .. | .fsgn .. | .fminmax .. | .fcvtFF .. => []

/-- A scalar instruction whose x registers stand. -/
def scalarStep (i : Scalar) (s : State) : Out :=
  match i with
  | .lui rd imm => retire (s.setX rd ((imm ++ (0 : BitVec 12)).signExtend 64))
  | .auipc rd imm => retire (s.setX rd (s.st.pc + (imm ++ (0 : BitVec 12)).signExtend 64))
  | .jal rd off => transfer s (s.setX rd (s.st.pc + 4)) (s.st.pc + (off ++ (0 : BitVec 1)).signExtend 64)
  | .jalr rd rs1 imm => transfer s (s.setX rd (s.st.pc + 4)) ((s.x rs1 + imm.signExtend 64) &&& ~~~1)
  | .branch c rs1 rs2 off =>
    if brTaken c (s.x rs1) (s.x rs2) then transfer s s (s.st.pc + (off ++ (0 : BitVec 1)).signExtend 64) else retire s
  | .load k rd rs1 imm => scalarLoad s (addrOf s rs1 imm) (ldShape k).1 (fun bs s => retire (s.setX rd (ldValue k bs)))
  | .store k rs1 rs2 imm => scalarStore s (.scalarInstruction i) (addrOf s rs1 imm) (stSize k) (s.x rs2).toNat
  | .opImm o rd rs1 imm => retire (s.setX rd (immOp o (s.x rs1) imm))
  | .shImm o rd rs1 sh => retire (s.setX rd (shOp o (s.x rs1) sh))
  | .shImmW o rd rs1 sh => retire (s.setX rd (shWOp o (s.x rs1) sh))
  | .opReg o rd rs1 rs2 => retire (s.setX rd (regOp o (s.x rs1) (s.x rs2)))
  | .unary o rd rs1 => retire (s.setX rd (unOp o (s.x rs1)))
  | .lr dbl _ _ rd rs1 => lrStep s dbl rd rs1
  | .sc dbl _ _ rd rs1 rs2 => scStep s (.scalarInstruction i) dbl rd rs1 rs2
  | .amo o dbl _ _ rd rs1 rs2 => amoStep s (.scalarInstruction i) o dbl rd rs1 rs2
  | .csrRead c => csrReadStep s (.scalarInstruction i) c
  | .fload dbl rd rs1 imm =>
    scalarLoad s (addrOf s rs1 imm) (amoSize dbl) (fun bs s => retire (s.setF rd (fBox dbl (leNat bs))))
  | .fstore dbl rs1 rs2 imm => scalarStore s (.scalarInstruction i) (addrOf s rs1 imm) (amoSize dbl) (s.f rs2).toNat
  | .fma o dbl rm rd rs1 rs2 rs3 =>
    let u := fun r => unpack (dFmt dbl) (s.fIn dbl r)
    withRm s i rm (fun r => fDone s dbl rd (fmaOp o (dFmt dbl) r (u rs1) (u rs2) (u rs3)))
  | .farith o dbl rm rd rs1 rs2 =>
    let u := fun r => unpack (dFmt dbl) (s.fIn dbl r)
    withRm s i rm (fun r => fDone s dbl rd (farOp o (dFmt dbl) r (u rs1) (u rs2)))
  | .fsqrt dbl rm rd rs1 => withRm s i rm (fun r => fDone s dbl rd (fSqrt (dFmt dbl) r (unpack (dFmt dbl) (s.fIn dbl rs1))))
  | .fsgn o dbl rd rs1 rs2 => fDone s dbl rd (fsgOp o (dFmt dbl) (s.fIn dbl rs1) (s.fIn dbl rs2), 0)
  | .fminmax m dbl rd rs1 rs2 => fDone s dbl rd (fMinMax (dFmt dbl) m (s.fIn dbl rs1) (s.fIn dbl rs2))
  | .fcmp o dbl rd rs1 rs2 =>
    let r := fcmpOp o (dFmt dbl) (s.fIn dbl rs1) (s.fIn dbl rs2)
    retire ((s.setX rd (boolWord r.1)).addFlags r.2)
  | .fclass dbl rd rs1 => retire (s.setX rd (BitVec.ofNat 64 (2 ^ fClass (dFmt dbl) (s.fIn dbl rs1))))
  | .fcvtFF toDbl rm rd rs1 =>
    withRm s i rm (fun r => fDone s toDbl rd (packFp (dFmt toDbl) r false (unpack (dFmt (!toDbl)) (s.fIn (!toDbl) rs1))))
  | .fcvtToInt k dbl rm rd rs1 =>
    withRm s i rm (fun r =>
      let v := fToInt k r (unpack (dFmt dbl) (s.fIn dbl rs1))
      retire ((s.setX rd v.1).addFlags v.2))
  | .fcvtFromInt k dbl rm rd rs1 => withRm s i rm (fun r => fDone s dbl rd (fFromInt k (dFmt dbl) r (s.x rs1)))
  | .fmvToX dbl rd rs1 => retire (s.setX rd (if dbl then s.f rs1 else sext32 (s.f rs1)))
  | .fmvFromX dbl rd rs1 => retire (s.setF rd (fBox dbl (s.x rs1).toNat))

/-- SCALAR_INSTRUCTION (05 R109). -/
def execScalarInstruction (i : Scalar) (s : State) : Out := if s.waitsX (scalarRegs i) then waitX (.scalarInstruction i) s else scalarStep i s

end Sys2Proof.Machine
end

