-- ==== Sys2Proof/Machine/Service.lean ====
section
/-! DEFINITION. Machine/Service.lean: reset, the coordinator, updates, links and lost requests, host and peer accesses, patrol
scrubbing, undervolting and retirement (01 R24, R27 to R29; 14 R356 to R360; 24 R414 to R434; 25 R436 to R438, R448, R449). -/

namespace Sys2Proof.Machine

/-! ## Updates (14 R359, R360; 25 R448, R449)

Units: 0 to 7 stacks; 8 to 23 base dies, 8 + h that of HBM stack h; 24 to 33 stack links; 34 and 35 port dies. -/

/-- A unit's firmware before its first update. -/
def Image.first : Image :=
  { active := false, a := 0, b := 0, validA := true, validB := false, pending := 0, busy := false, draining := false }

/-- A unit's firmware. -/
def State.image (s : State) (unit : Nat) : Image := (lookup s.fw.images unit).getD Image.first

/-- The state with a unit's firmware replaced. -/
def State.setImage (s : State) (unit : Nat) (u : Image) : State := { s with fw := { s.fw with images := insert s.fw.images unit u } }

/-- The two ends of a stack link. -/
def linkEnds (l : Nat) : Nat × Nat := if l < 6 then (l / 3 * 4 + l % 3, l / 3 * 4 + l % 3 + 1) else (l - 6, l - 2)

/-- The stacks that measure a unit's image (14 R360). -/
def measurers (unit : Nat) : List Nat :=
  if unit < 8 then [unit]
  else if unit < 24 then [(unit - 8) / 2]
  else if unit < 34 then [(linkEnds (unit - 24)).1, (linkEnds (unit - 24)).2]
  else if unit = 34 then [0, 4] else [3, 7]

/-- The number of the image that a unit runs. -/
def Image.current (u : Image) : Nat := if u.active then u.b else u.a

/-- The measurement register of a unit: the image that runs from reset is measured as every image that is run (14 R360; log 77). -/
def State.measurement (s : State) (unit : Nat) : BitVec 256 :=
  (lookup s.fw.measures unit).getD (Config.extended 0 (Config.imageDigest unit (s.image unit).current))

/-- An image that a unit runs is measured, a failed one too (14 R360; 25 R449). -/
def State.measure (s : State) (unit image : Nat) : State :=
  { s with fw := { s.fw with measures := insert s.fw.measures unit (Config.extended (s.measurement unit) (Config.imageDigest unit image)) } }

/-- The links that a unit's update takes: a stack link, or those of a port die. -/
def unitLinks (unit : Nat) : List Nat :=
  if unit < 24 then [] else if unit < 34 then [unit - 24] else if unit = 34 then [10, 11] else [12, 13]

/-- A unit event: there are 36. -/
def unitEvent (unit : Nat) (k : Out) : Out := if 36 ≤ unit then .fault (.noSuchUnit unit) else k

/-- Crews with a strand on a stack are pre-empted for its drain, as a whole, and are bound again only after it answers; those not begun
there are placed no more (14 R359; 25 R449). -/
def State.drainStack (s : State) (stack : Nat) : State :=
  let s := s.unplaceOn [stack]
  let cs := s.fw.crews.filter (fun c => s.yieldsTo 8 c && !c.pp && (c.liveLeaders.map stackOf).contains stack)
  cs.foldl (fun s c => s.mapCrew c (fun d => { d with away := stack :: d.away })) (s.preEmpt cs)

/-- A unit runs the image of its pending update, which becomes its active one. -/
def Image.switch (u : Image) : Image :=
  if u.active then { u with active := false, a := u.pending, validA := true, busy := false, draining := false }
  else { u with active := true, b := u.pending, validB := true, busy := false, draining := false }

/-- A unit goes back to its image; the new one is invalid. -/
def Image.rollBack (u : Image) : Image :=
  if u.active then { u with a := u.pending, validA := false, busy := false, draining := false }
  else { u with b := u.pending, validB := false, busy := false, draining := false }

/-- UPDATE. A coordinator being updated hands its role on (01 R29). Another update of a unit in progress is answered, though the first is
still under way (25 R448). -/
def execUpdate (unit image : Nat) (signed : Bool) (s : State) : Out :=
  unitEvent unit (
    if (s.image unit).busy then ok { s with fw := { s.fw with status := 2 ^ 63 + 3, results := [] } }
    else command 7 s (fun s =>
    if !signed then ok (s.reply 1 [])
    else
      let u := { s.image unit with pending := image, busy := true, draining := decide (unit < 8) }
      let s := s.setImage unit u
      if unit < 8 then
        let s := s.drainStack unit
        let next := (s.fw.answering.filter (fun k => k != unit)).min?
        ok { s with fw := { s.fw with coordinator := if s.fw.coordinator = unit then next.getD unit else s.fw.coordinator } }
      else ok s))

/-- Whether a unit's restart has come: a stack has drained. -/
def State.restarted (s : State) (unit : Nat) : Bool := decide (8 ≤ unit) || s.stackEmpty unit

/-- UPDATE_COMPLETE. -/
def execUpdateComplete (unit : Nat) (s : State) : Out :=
  unitEvent unit (
    let u := s.image unit
    if !u.busy ∨ !s.restarted unit then ok s
    else
      let s := ((s.measure unit u.pending).setImage unit u.switch).reply 0 []
      ok { s with down := s.down.filter (fun l => !(unitLinks unit).contains l) })

/-- UPDATE_SELF_TEST_TIMEOUT: the new image ran and failed; a link stays down. -/
def execUpdateSelfTestTimeout (unit : Nat) (s : State) : Out :=
  unitEvent unit (
    let u := s.image unit
    if !u.busy ∨ !s.restarted unit then ok s
    else
      let s := (((s.measure unit u.pending).measure unit u.current).setImage unit u.rollBack).reply 2 []
      ok { s with down := s.down ++ (unitLinks unit).filter (fun l => !s.down.contains l) })

/-- UPDATE_DRAIN_TIMEOUT: nothing is done, and the stack resumes binding. -/
def execUpdateDrainTimeout (unit : Nat) (s : State) : Out :=
  unitEvent unit (
    let u := s.image unit
    if !u.draining ∨ s.stackEmpty unit then ok s
    else ok ((s.setImage unit { u with busy := false, draining := false }).reply 4 []))

/-- Measurement registers of a stack: of itself, its base dies and its links. -/
def State.measured (s : State) (stack : Nat) : List (BitVec 256) :=
  ((List.range 36).filter (fun u => (measurers u).contains stack)).map s.measurement

/-- The four words of a measurement. -/
def digestWords (d : BitVec 256) : List Word := (List.range 4).map (fun i => d.extractLsb' (64 * i) 64)

/-- MEASUREMENTS. -/
def execMeasurements (stack : Nat) (s : State) : Out :=
  if 8 ≤ stack then .fault (.noSuchUnit stack) else command 8 s (fun s => ok (s.reply 0 ((s.measured stack).flatMap digestWords)))

/-- SPDM_REQUEST: the measurements, signed by the module's identity key. -/
def execSpdmRequest (stack : Nat) (s : State) : Out :=
  if 8 ≤ stack then .fault (.noSuchUnit stack)
  else ok { s with host := s.host ++ [.spdm stack (s.measured stack) (Config.signature (s.measured stack))] }

/-! ## Links (25 R436 to R438) -/

/-- LINK_FLIT_RESEND: nothing that a program can see changes. -/
def execLinkFlitResend (link : Nat) (s : State) : Out := if 14 ≤ link then .fault (.noSuchUnit link) else ok s

/-- The stack whose error log takes the events of a link. -/
def linkStack (l : Nat) : Nat := if l < 10 then (linkEnds l).1 else if l = 10 then 0 else if l = 11 then 4 else if l = 12 then 3 else 7

/-- LINK_DOWN. -/
def execLinkDown (link : Nat) (s : State) : Out :=
  if 14 ≤ link then .fault (.noSuchUnit link)
  else if s.down.contains link then ok s
  else ok ({ s with down := s.down ++ [link] }.logErr (linkStack link) 5 1 0 (.link link) 0 0)

/-- ROUTE_CHANGE: senders use the other route once their requests on the failed link are settled; requests are routed anew at
each access, so nothing is left to change. -/
def execRouteChange (link : Nat) (s : State) : Out := if 14 ≤ link then .fault (.noSuchUnit link) else ok s

/-- A byte of a copy whose write is lost: destination and index (25 R439). -/
def State.lostByte (s : State) (c : Copy) : Nat × Nat :=
  (c.dests.getD (Config.lostPick s.tick % max 1 c.dests.length) 0, Config.lostPick (s.tick + 1) % max 1 (c.cmd.rows * c.cmd.rowb))

/-- The lost write or atomic of a strand: of a path that reports it at its next access, of a pass, a copy, a packet or a remote atomic (25
Table 25.1). n names the copy, packet or atomic by its serial number, or the element. A read is sent again, and nothing is lost (25
R438). -/
def State.lose (s : State) (src n : Nat) : State :=
  if src = 1 ∨ src = 7 ∨ src = 15 then
    s.setEng { s.st.eng with trips := s.st.eng.trips ++ [{ src := src, kind := 11, elem := n, again := false }] }
  else if src = 4 ∨ src = 6 then
    match s.st.vec.pass.bind (fun p => p.nodes.find? (fun m => m.src == src && decide (n < m.vl))) with
    | some m => s.passError 11 m.slot n
    | none => s
  else if src = 12 then
    match s.st.eng.copies.find? (fun c => c.serial == n) with
    | some c => s.copyError c (s.lostByte c).1 (s.lostByte c).2 12
    | none => s
  else if src = 13 then
    match s.st.eng.pkts.find? (fun p => p.serial == n) with
    | some p => if s.packetFree p && !p.isRead then s.packetLost p else s
    | none => s
  else if src = 14 then
    match s.st.eng.ramos.find? (fun r => r.serial == n) with
    | some r =>
      let s := match r.res, s.ramoTurn r with
        | none, .does ks => if Config.lostDone s.tick then s.ramoDo r ks else s
        | _, _ => s
      s.ramoLost r
    | none => s
  else s

/-- A RAMOQ whose target does not answer within 1 ms answers 2 (25 R445). -/
def State.queryLost (s : State) : Out :=
  match s.st.eng.query with
  | some (rd, _) => retire ((s.setX (BitVec.ofNat 5 rd) 2).setEng { s.st.eng with query := none })
  | none => ok s

/-- RESPONSE_TIMEOUT: a read is sent again with no report, unless no route is left; a write or atomic is lost. Source 16 is a
RAMOQ. -/
def execResponseTimeout (src n : Nat) (lost : Bool) (s : State) : Out :=
  if src = 16 then s.queryLost else if lost then ok (s.lose src n) else ok s

/-! ## Host and peer accesses (12 R316; 13 R337; 14 R358) -/

/-- The cells of a 64-byte line that a write with byte enables writes. -/
def lineCells (a : Nat) (w : BitVec 512 × BitVec 64) : List Host.Cell :=
  ((List.range 64).filter (fun i => w.2.getLsbD i)).map (fun i => (a + i, w.1.extractLsb' (8 * i) 8))

/-- A 64-byte access of another agent, through a port die, to HBM that the firmware does not reserve; with no route left it is lost (01
R28; 25 R437). -/
def State.outsideLine (s : State) (die a : Nat) (wr : Option (BitVec 512 × BitVec 64)) : State :=
  if !isHbm a ∨ a % 64 ≠ 0 ∨ s.reserved.contains (a / 2 ^ 30) ∨ !s.dieReaches die (a / 2 ^ 37) then s
  else
    match wr with
    | some w => (s.logDropped (lineCells a w) 0).write .outside (lineCells a w)
    | none => { s with host := s.host ++ [.read a (s.mem.bytes a 64) (s.badAt a 64)] }

/-- HOST_CXL_MEM_ACCESS. -/
def execHostCxlMemAccess (addr : Nat) (wr : Option (BitVec 512 × BitVec 64)) (s : State) : Out := ok (s.outsideLine 0 addr wr)

/-- PEER_REQUEST. -/
def execPeerRequest (port addr : Nat) (wr : Option (BitVec 512 × BitVec 64)) (s : State) : Out :=
  if 16 ≤ port then .fault (.noSuchUnit port) else ok (s.outsideLine (port / 8) addr wr)

/-- Widths and rates in GT/s at which the link trains: x16 and 128, and those it falls back to (14 R356; log 78). -/
def linkLegal (width rate : Nat) : Bool := [16, 8, 4, 2, 1].contains width && [128, 64, 32, 16, 8].contains rate

/-- HOST_LINK_TRAINING (14 R356). -/
def execHostLinkTraining (width rate : Nat) (s : State) : Out :=
  if linkLegal width rate then ok { s with fw := { s.fw with link := some (width, rate) } } else ok s

/-! ## Reset and the coordinator (01 R29) -/

/-- The lowest of the management cores that answer. -/
def lowestCore (l : List Nat) : Nat := l.min?.getD 0

/-- RESET: the machine as after reset; the harness records, retired front ends, failed sub-channels and firmware images are
those of the part, and the host keeps its own memory and what it has been told. Which cores pass the self-test is the part's: those
that answered before (log 57). -/
def execReset (s : State) : Out :=
  let r := State.reset
  let cores := [0, 1, 2, 3, 4, 5, 6, 7].filter s.fw.answering.contains
  ok { r with
    mem := s.mem.filter (fun c => isHost c.1)
    poison := s.poison.filter (fun p => isHost p.1)
    halves := s.halves
    feRetired := s.feRetired
    pins := s.pins
    failed := s.failed
    host := s.host
    inbox := s.inbox
    tick := s.tick
    fw := { r.fw with coordinator := lowestCore cores, answering := cores,
                      images := s.fw.images.map (fun p => (p.1, { p.2 with busy := false, draining := false })) } }

/-- COORDINATOR_TAKEOVER: the lowest remaining core that answers takes the role; what the slot tables do not hold of the
scheduling state is lost. Which stacks are being emptied for a locked-clock task, and for which, stands in the stacks' own slots and is kept
(log 57). -/
def execCoordinatorTakeover (s : State) : Out :=
  let left := s.fw.answering.filter (fun k => k != s.fw.coordinator)
  match left.min? with
  | none => ok s
  | some k =>
    let young := fun q : Queue => { q with waiting := q.waiting.map (fun w => { w with age := 0 }) }
    let cs := s.fw.contexts.map (fun c => { c with queues := c.queues.map (fun q => (q.1, young q.2)) })
    ok { s with fw := { s.fw with coordinator := k, answering := left, reservation := none, served := [], contexts := cs } }

/-! ## Undervolting (24 R433)

Domains are numbered as in Machine/Errors.lean. -/

/-- The unit field of a domain's events (24 Table 24.1): half A of a slab, or a front end. -/
def domainUnit (d : Nat) : ErrUnit := if d < 576 then .half (halfId (d / 72) (d % 72 / 9) (d % 9) 0).toNat else .frontEnd (d - 576)

/-- An event of an undervolting domain: there are 1,088, and a locked-clock stack has undervolting off (24 R435). -/
def domainEvent (d : Nat) (s : State) (k : Out) : Out :=
  if 1088 ≤ d then .fault (.noSuchUnit d) else if s.fw.locked.contains (domainStack d) then ok s else k

/-- UNDERVOLT_STEP. -/
def execUndervoltStep (domain : Nat) (s : State) : Out :=
  domainEvent domain s (
    let v := s.domain domain
    if v.events < 16 ∨ v.recount then ok s
    else ok (s.setDomain domain { v with events := 0, steps := v.steps + 1, recount := true }))

/-- UNDERVOLT_RECOUNT_END. -/
def execUndervoltRecountEnd (domain : Nat) (s : State) : Out :=
  domainEvent domain s (
    let v := s.domain domain
    if !v.recount then ok s
    else if v.events < 16 then
      ok ((s.setDomain domain { v with events := 0, floor := v.floor + 1, recount := false }).logErr (domainStack domain) 4 3 0
        (domainUnit domain) 0 0)
    else ok (s.setDomain domain { v with events := 0, recount := false, test := true }))

/-- The halves or the front end of a domain. -/
def domainHalves (d : Nat) : List (BitVec 16) := [halfId (d / 72) (d % 72 / 9) (d % 9) 0, halfId (d / 72) (d % 72 / 9) (d % 9) 1]

/-- Whether a strand holds a unit of a domain. -/
def State.domainLive (s : State) (d : Nat) : Bool :=
  if d < 576 then (domainHalves d).any (s.halvesHeld 1024).contains else (s.slot (d - 576)).state != .free

/-- DOMAIN_SELF_TEST: bad names the sides of a slab that the test finds faulty; any entry names a front end. Mismatches count against the
half found faulty (24 R423). -/
def execDomainSelfTest (domain : Nat) (bad : List Nat) (s : State) : Out :=
  if 1088 ≤ domain then .fault (.noSuchUnit domain)
  else
    let v := s.domain domain
    if !v.test ∨ s.domainLive domain then ok s
    else
      let s := s.setDomain domain { v with test := false }
      if domain < 576 then
        ok (((domainHalves domain).zipIdx.filter (fun p => bad.contains p.2)).foldl (fun s p =>
          ((s.blameHalf p.1.toNat).setHalf p.1 { s.halfRec p.1 with retired := true }).logErr (domainStack domain) 5 4 0 (.half p.1.toNat) 0 0) s)
      else if bad.isEmpty then ok s
      else ok ({ s with feRetired := s.feRetired ++ [domain - 576] }.logErr (domainStack domain) 5 4 0 (.frontEnd (domain - 576)) 0 0)

/-- CALIBRATION (14 R359): domains above 1,087 are 1,088 to 1,095 the clocks of stacks, 1,096 to 1,607 HBM channels, 1,608 to
1,621 links. An undervolting floor ends with the calibration of its domain, and a link that was down comes up (25 R436). -/
def execCalibration (domain : Nat) (s : State) : Out :=
  if 1622 ≤ domain then .fault (.noSuchUnit domain)
  else if domain < 1088 then ok (s.setDomain domain { s.domain domain with floor := 0 })
  else if 1608 ≤ domain then ok { s with down := s.down.filter (fun l => l != domain - 1608) }
  else ok s

/-! ## DRAM errors (12 R308, R309; 24 R428 to R431) -/

/-- A granule or word that cannot be corrected is poisoned, whole. -/
def State.poisonUnit (s : State) (k : Nat) : State :=
  let u := s.unitOf k
  if s.poisonedAt k then s else { s with poison := s.poison ++ [u] }

/-- The key of a byte of the granule at k that travels on its sub-channel j. -/
def State.keyOn (s : State) (k j : Nat) : Nat := (s.unitOf k).1 + 4 * j

/-- The package number of the sub-channel that holds an HBM byte. -/
def State.channelOf (s : State) (k : Nat) : Nat := k / 2 ^ 36 * 64 + s.subChannel k

/-- Check symbols of the codes over two adjacent pins: G128, G256 and G512 (12 Table 12.6). -/
def checkSymbols (code : Nat) : Nat := 2 * 2 ^ code

/-- The symbols that the decoder of a granule erases: those of a failed sub-channel of a G512 granule, those on recorded pins of failed
sub-channels of a G128 or G256 granule (24 R428). -/
def State.erasures (s : State) (k : Nat) : List (Nat × Nat) :=
  let code := s.granCode (k / 2 ^ 30)
  let bad := (List.range (2 ^ code)).filter (fun j => s.failed.contains (s.channelOf (s.keyOn k j)))
  if code = 4 then (bad.take 1).flatMap (fun j => (List.range 18).map (fun i => (j, i)))
  else
    ((bad.flatMap (fun j => (s.pins.filter (fun p => p.1 == s.channelOf (s.keyOn k j))).map (fun p => (j, p.2 / 2)))).eraseDups).take
      (checkSymbols code)

/-- Whether the code of a granule corrects wrong bits: sub-channel of the granule, pin, beat (12 R309). -/
def State.corrects (s : State) (k : Nat) (bits : List (Nat × Nat × Nat)) : Bool :=
  let code := s.granCode (k / 2 ^ 30)
  if code = 0 then (List.range 4).all (fun w => decide ((bits.eraseDups.filter (fun b => b.2.2 / 2 == w)).length ≤ 1))
  else if code = 1 then decide ((bits.map (fun b => (b.1, b.2.1))).eraseDups.length ≤ 4)
  else
    let er := s.erasures k
    let wrong := ((bits.map (fun b => (b.1, b.2.1 / 2))).eraseDups.filter (fun x => !er.contains x)).length
    decide (2 * wrong + er.length ≤ checkSymbols code)

/-- A lasting error counts on its pin; on more than two data pins, the sub-channel is marked failed and that is logged (24 R428). -/
def State.lastingPin (s : State) (k pin : Nat) : State :=
  let ch := s.channelOf k
  let p := (ch, pin)
  let pins := if s.pins.contains p then s.pins else s.pins ++ [p]
  let s := { s with pins := pins }
  if 2 < (pins.filter (fun q => q.1 == ch && decide (q.2 < 32))).length ∧ !s.failed.contains ch then
    { s with failed := s.failed ++ [ch] }.logErr (k / 2 ^ 37 % 8) 5 4 0 (s.channelUnit k) 0 (s.unitOf k).1
  else s

/-- Whether wrong bits that the code of a granule does not correct are surely detected: in a G32 granule two in one Hsiao word (12 Table
12.6), and in a G128 or G256 granule one on a failed sub-channel beyond the symbols that it erases (24 R428). -/
def State.surelyBad (s : State) (k : Nat) (bits : List (Nat × Nat × Nat)) : Bool :=
  let code := s.granCode (k / 2 ^ 30)
  if code = 0 then (List.range 4).any (fun w => decide ((bits.eraseDups.filter (fun b => b.2.2 / 2 == w)).length = 2))
  else (code == 2 || code == 3) &&
    bits.any (fun b => s.failed.contains (s.channelOf (s.keyOn k b.1)) && !(s.erasures k).contains (b.1, b.2.1 / 2))

/-- A read of a granule meets wrong bits (24 R414, R428): corrected and logged, with the pins of a lasting error counted; or poisoned. What
the code does not correct and does not detect changes no check (log 71). -/
def State.granuleRead (s : State) (k : Nat) (bits : List (Nat × Nat × Nat)) (lasting : Bool) : State :=
  let bits := bits.filter (fun b => decide (b.1 < 2 ^ s.granCode (k / 2 ^ 30)) && decide (b.2.1 < 36) && decide (b.2.2 < 8))
  match bits with
  | [] => s
  | b :: _ =>
    if s.poisonedAt k then s
    else if s.corrects k bits then
      let s := s.logGranule (s.keyOn k b.1) (if lasting then 1 else 0) 0 0
      if lasting then ((bits.map (fun b => (b.1, b.2.1))).eraseDups).foldl (fun s q => s.lastingPin (s.keyOn k q.1) q.2) s else s
    else if s.surelyBad k bits ∨ Config.detected s.tick then (s.poisonUnit k).logGranule (s.keyOn k b.1) 2 0 0
    else s

/-- PATROL_SCRUB: what the patrol finds in the granule at an address: 0 nothing, 1 a transient error, 2 a lasting one, 3 one that
cannot be corrected. -/
def execPatrolScrub (addr found : Nat) (s : State) : Out :=
  let n := 2 ^ s.granCode (addr / 2 ^ 30)
  let bit := [(Config.errorPin s.tick % n, Config.errorPin s.tick / n % 36, 0)]
  if !isHbm addr then .fault (.noSuchUnit addr)
  else
    match found with
    | 1 => ok (s.granuleRead addr bit false)
    | 2 => ok (s.granuleRead addr bit true)
    | 3 => if s.poisonedAt addr then ok s else ok ((s.poisonUnit addr).logGranule addr 2 0 0)
    | _ => ok s

/-! ## Hardware errors from outside (24 R414 to R429; log 8) -/

/-- Whether a key is of a scratchpad or of pool space. -/
def isSram (k : Nat) : Bool := !isHbm k && !isHost k

/-- The class of a corrected event (24 R414). -/
def eventClass (lasting : Bool) : Nat := if lasting then 1 else 0

/-- A word of a scratchpad or of pool space that its code corrects (24 R425): pool SRAM is of no undervolting domain (R433). -/
def State.sramFixed (s : State) (k : Nat) (lasting : Bool) : State :=
  if !isSram k then s
  else if k < 2 ^ 100 then s.feEvent (sramPlace k).1 (eventClass lasting) (sramPlace k).2
  else s.logUnit k (eventClass lasting) 0 0

/-- A word of the memory-side cache, which holds HBM: corrected, or its clean block fetched again (24 Table 24.2). Its unit is the HBM stack
and sub-channel, its place the granule; no task is bound to it, and base dies are of no undervolting domain (log 94). -/
def State.cacheFixed (s : State) (k : Nat) (lasting : Bool) : State :=
  if isHbm k then s.logErr (k / 2 ^ 37 % 8) 1 (eventClass lasting) 0 (s.channelUnit k) 0 (s.unitOf k).1 else s

/-- A change of the strand that a front end leads, while it is bound. -/
def State.atFe (s : State) (fe : Nat) (f : State → State) : State :=
  let s' := s.focus fe
  if s'.st.fe = fe ∧ s'.st.run = .bound then f s' else s

/-- A soft error in an instruction executed on registers has changed a 64-bit word of v[r] unnoticed; in protected mode it is computed again,
and the event is transient (24 R423, R432). -/
def State.regSoft (s : State) (r j mask : Nat) : State :=
  if s.st.br.prot then s.mismatch (s.st.wordPlace j).1 0 0
  else
    match s.st.vec.v.toList[r]? with
    | some x => s.dirtyIf (s.setVec { s.st.vec with v := s.st.vec.v.setIfInBounds r (setElem x 64 j (elemOf x 64 j ^^^ mask % 2 ^ 64)) })
    | none => s

/-- A hardware error. -/
def State.upset (s : State) (u : Upset) : State :=
  match u with
  | .word k => (s.poisonUnit k).logUnit k 2 0 (if isSram k && decide (k < 2 ^ 100) then s.taskOfFe (sramPlace k).1 else 0)
  | .granule k bits lasting => if isHbm k then s.granuleRead k bits lasting else s
  | .sram k lasting => s.sramFixed k lasting
  | .cached k lasting => s.cacheFixed k lasting
  | .tile fe off => s.atFe fe (fun s => s.tileBad off)
  | .tileFixed fe off lasting => s.atFe fe (fun s => s.tileFixed off lasting)
  | .reg fe half lane r pos lasting => s.atFe fe (fun s =>
      if half < 8 ∧ s.st.halfAt half ≠ 0xFFFF ∧ lane ≤ 16 ∧ r < 32 then
        s.setVec { s.st.vec with bad := s.st.vec.bad ++ [{ half := half, lane := lane, reg := r, pos := pos, lasting := lasting }] }
      else s)
  | .path fe t => s.atFe fe (fun s => s.setEng { s.st.eng with trips := s.st.eng.trips ++ [t] })
  | .pass fe kind slot e => s.atFe fe (fun s => s.passError kind slot e)
  | .passSoft fe slot e mask again => s.atFe fe (fun s => s.passSoft slot e mask again)
  | .matSoft fe off mask => s.atFe fe (fun s => s.matSoft off mask)
  | .runSoft fe second e mask again => s.atFe fe (fun s => s.runSoft second e mask again)
  | .regSoft fe r j mask => s.atFe fe (fun s => s.regSoft r j mask)
  | .cache fe => if fe < Config.frontEnds then s.feEvent fe 0 0 else s
  | .copy fe serial rep i unit => s.atFe fe (fun s =>
      match s.st.eng.copies.find? (fun c => c.serial == serial) with
      | some c => s.copyError c rep i unit
      | none => s)
  | .lasting h lane => if halfLegal h then s.lastingHalf h lane else s
  | .silent k mask => if isHbm k ∨ isHost k ∨ 2 ^ 60 ≤ k then { s with mem := s.mem.put k (s.mem.get k ^^^ mask) } else s

/-- The host writes its own memory. -/
def State.hostWrite (s : State) (key : Nat) (data : List Byte) : State :=
  if isHost key ∧ isHost (key + data.length - 1) then
    let cells := (keysFrom key data.length).zip data
    { s with poison := s.poison.filter (fun p => !(cells.any (fun c => decide (p.1 ≤ c.1) && decide (c.1 < p.1 + p.2)))) }.write .outside cells
  else s

end Sys2Proof.Machine
end

