-- ==== Sys2Proof/Machine/VecCross.lean ====
section
/-! DEFINITION. Machine/VecCross.lean: the cross-element slots, VRAND, N:M selections and reductions of opcode 0x2B (06 R142 to R146; 07 R170 to R172; 08 R196 to R198): each notes its node. -/

namespace Sys2Proof.Machine

/-- VRAND kinds under the wrong element type (06 R145): BITS under a floating-point type, UNIF or NORM under an integer
type. -/
def randBad (f : VF) (s : State) : Bool :=
  let float := etFloat (vtEt s.st.vec.vtype)
  (f.b == 0 && float) || ((f.b == 1 || f.b == 3) && !float)

/-- VNMS and VNMST outside their conditions (08 R196): stream mode, a mask, or a VL that is no multiple of m. -/
def nmBad (f : VF) (m : Nat) (s : State) : Bool :=
  vtSm s.st.vec.vtype || f.m || s.st.vec.vl % m != 0

/-- 06 R142: running sum from o0. -/
def execVscanAdd (f : VF) (s : State) : Out := noteV (.vscanAdd f) f .scanAdd .int .unary never s

/-- 06 R142: running signed maximum from o0. -/
def execVscanMax (f : VF) (s : State) : Out := noteV (.vscanMax f) f .scanMax .int .unary never s

/-- 06 R142: running rounded sum from o0. -/
def execVfscan (f : VF) (s : State) : Out := noteV (.vfscan f) f .fscan .float .unary never s

/-- 06 R142: c ← A × c + B from o0. -/
def execVlrec (f : VF) (s : State) : Out := noteV (.vlrec f) f .lrec .any .binary never s

/-- 06 R142: the previous element, o0 first. -/
def execVprev (f : VF) (s : State) : Out := noteV (.vprev f) f .prev .any .unary never s

/-- 06 R144, R145: Philox random elements. -/
def execVrand (f : VF) (s : State) : Out := noteV (.vrand f) f .rand .any .generated (randBad f) s

/-- 08 R196, R197: N:M selection. -/
def execVnms (f : VF) (s : State) : Out := noteV (.vnms f) f .nms .float .selected (nmBad f (nmOf f.b.toNat).2) s

/-- 08 R196, R198: transposable 2:4 selection. -/
def execVnmst (f : VF) (s : State) : Out := noteV (.vnmst f) f .nmst .float .selected (nmBad f 16) s

/-- 07 R170 to R172: integer reduction into o[d]. -/
def execVred (f : VF) (s : State) : Out := noteV (.vred f) f .red .int .reduction never s

/-- 07 R170 to R172: floating-point tree reduction into o[d]. -/
def execVfred (f : VF) (s : State) : Out := noteV (.vfred f) f .fred .float .reduction never s

/-- 07 R170 to R172: ordered floating-point sum into o[d]. -/
def execVfredo (f : VF) (s : State) : Out := noteV (.vfredo f) f .fredo .float .reduction never s

end Sys2Proof.Machine
end

