-- ==== Sys2Proof/Machine/VecFloat.lean ====
section
/-! DEFINITION. Machine/VecFloat.lean: the floating-point slots, conversions and compares of opcode 0x2B (06 R137 to R141): each notes its node. -/

namespace Sys2Proof.Machine

/-- 06 R137: A + B. -/
def execVfadd (f : VF) (s : State) : Out := noteV (.vfadd f) f .fadd .float .binary never s

/-- 06 R137: A − B. -/
def execVfsub (f : VF) (s : State) : Out := noteV (.vfsub f) f .fsub .float .binary never s

/-- 06 R137: A × B. -/
def execVfmul (f : VF) (s : State) : Out := noteV (.vfmul f) f .fmul .float .binary never s

/-- 06 R137: A / B. -/
def execVfdiv (f : VF) (s : State) : Out := noteV (.vfdiv f) f .fdiv .float .binary never s

/-- 06 R137: A × B + D. -/
def execVfma (f : VF) (s : State) : Out := noteV (.vfma f) f .fma .float .ternary never s

/-- 06 R137: A × B − D. -/
def execVfms (f : VF) (s : State) : Out := noteV (.vfms f) f .fms .float .ternary never s

/-- 06 R137: −(A × B) − D. -/
def execVfnma (f : VF) (s : State) : Out := noteV (.vfnma f) f .fnma .float .ternary never s

/-- 06 R137: −(A × B) + D. -/
def execVfnms (f : VF) (s : State) : Out := noteV (.vfnms f) f .fnms .float .ternary never s

/-- 06 R138: the lesser. -/
def execVfmin (f : VF) (s : State) : Out := noteV (.vfmin f) f .fmin .float .binary never s

/-- 06 R138: the greater. -/
def execVfmax (f : VF) (s : State) : Out := noteV (.vfmax f) f .fmax .float .binary never s

/-- 06 R138: |A| with the sign of B. -/
def execVfsgnj (f : VF) (s : State) : Out := noteV (.vfsgnj f) f .fsgnj .float .binary never s

/-- 06 R137, R138: √A. -/
def execVfsqrt (f : VF) (s : State) : Out := noteV (.vfsqrt f) f .fsqrt .float .unary never s

/-- 06 R64: 2^A. -/
def execVfexp2 (f : VF) (s : State) : Out := noteV (.vfexp2 f) f .fexp2 .float .unary never s

/-- 06 R64: log2 A. -/
def execVflog2 (f : VF) (s : State) : Out := noteV (.vflog2 f) f .flog2 .float .unary never s

/-- 06 R140: A converted from the source type. -/
def execVcvt (f : VF) (s : State) : Out := noteV (.vcvt f) f .cvt .any .selected never s

/-- 06 R139: the class of A. -/
def execVfclass (f : VF) (s : State) : Out := noteV (.vfclass f) f .fclass .float .unary never s

/-- 06 R141: A = B. -/
def execVfcmpEq (f : VF) (s : State) : Out := noteV (.vfcmpEq f) f .fcmpEq .float .compare never s

/-- 06 R141: A < B. -/
def execVfcmpLt (f : VF) (s : State) : Out := noteV (.vfcmpLt f) f .fcmpLt .float .compare never s

/-- 06 R141: A ≤ B. -/
def execVfcmpLe (f : VF) (s : State) : Out := noteV (.vfcmpLe f) f .fcmpLe .float .compare never s

/-- 06 R141: unordered. -/
def execVfcmpUn (f : VF) (s : State) : Out := noteV (.vfcmpUn f) f .fcmpUn .float .compare never s

end Sys2Proof.Machine
end

