-- ==== Sys2Proof/Machine/VecInt.lean ====
section
/-! DEFINITION. Machine/VecInt.lean: the integer slots and compares of opcode 0x0B (06 R134 to R136): each notes its node. -/

namespace Sys2Proof.Machine

/-- 06 R134: A + B. -/
def execVadd (f : VF) (s : State) : Out := noteV (.vadd f) f .add .int .binary never s

/-- 06 R134: A − B. -/
def execVsub (f : VF) (s : State) : Out := noteV (.vsub f) f .sub .int .binary never s

/-- 06 R134: B − A. -/
def execVrsub (f : VF) (s : State) : Out := noteV (.vrsub f) f .rsub .int .binary never s

/-- 06 R134: the low w bits of A × B. -/
def execVmul (f : VF) (s : State) : Out := noteV (.vmul f) f .mul .int .binary never s

/-- 06 R134: the signed high half. -/
def execVmulh (f : VF) (s : State) : Out := noteV (.vmulh f) f .mulh .int .binary never s

/-- 06 R134: the unsigned high half. -/
def execVmulhu (f : VF) (s : State) : Out := noteV (.vmulhu f) f .mulhu .int .binary never s

/-- 06 R134, R57: the signed quotient. -/
def execVdiv (f : VF) (s : State) : Out := noteV (.vdiv f) f .div .int .binary never s

/-- 06 R134, R57: the unsigned quotient. -/
def execVdivu (f : VF) (s : State) : Out := noteV (.vdivu f) f .divu .int .binary never s

/-- 06 R134, R57: the signed remainder. -/
def execVrem (f : VF) (s : State) : Out := noteV (.vrem f) f .rem .int .binary never s

/-- 06 R134, R57: the unsigned remainder. -/
def execVremu (f : VF) (s : State) : Out := noteV (.vremu f) f .remu .int .binary never s

/-- 06 R134: the lesser, signed. -/
def execVmin (f : VF) (s : State) : Out := noteV (.vmin f) f .min .int .binary never s

/-- 06 R134: the greater, signed. -/
def execVmax (f : VF) (s : State) : Out := noteV (.vmax f) f .max .int .binary never s

/-- 06 R134: the lesser, unsigned. -/
def execVminu (f : VF) (s : State) : Out := noteV (.vminu f) f .minu .int .binary never s

/-- 06 R134: the greater, unsigned. -/
def execVmaxu (f : VF) (s : State) : Out := noteV (.vmaxu f) f .maxu .int .binary never s

/-- 06 R134: the signed sum, clamped. -/
def execVadds (f : VF) (s : State) : Out := noteV (.vadds f) f .adds .int .binary never s

/-- 06 R134: the signed difference, clamped. -/
def execVsubs (f : VF) (s : State) : Out := noteV (.vsubs f) f .subs .int .binary never s

/-- 06 R134: the unsigned sum, clamped. -/
def execVaddsu (f : VF) (s : State) : Out := noteV (.vaddsu f) f .addsu .int .binary never s

/-- 06 R134: the unsigned difference, clamped. -/
def execVsubsu (f : VF) (s : State) : Out := noteV (.vsubsu f) f .subsu .int .binary never s

/-- 06 R134: bitwise and. -/
def execVand (f : VF) (s : State) : Out := noteV (.vand f) f .and .any .binary never s

/-- 06 R134: bitwise or. -/
def execVor (f : VF) (s : State) : Out := noteV (.vor f) f .or .any .binary never s

/-- 06 R134: bitwise exclusive or. -/
def execVxor (f : VF) (s : State) : Out := noteV (.vxor f) f .xor .any .binary never s

/-- 06 R134: A shifted left by B mod w. -/
def execVsll (f : VF) (s : State) : Out := noteV (.vsll f) f .sll .int .binary never s

/-- 06 R134: A shifted right by B mod w, zeros in. -/
def execVsrl (f : VF) (s : State) : Out := noteV (.vsrl f) f .srl .int .binary never s

/-- 06 R134: A shifted right by B mod w, sign in. -/
def execVsra (f : VF) (s : State) : Out := noteV (.vsra f) f .sra .int .binary never s

/-- 06 R135: B where k0 is set, else A. -/
def execVmerge (f : VF) (s : State) : Out := noteV (.vmerge f) f .merge .any .binary never s

/-- 06 R134, R135: B. -/
def execVmv (f : VF) (s : State) : Out := noteV (.vmv f) f .mv .any .move never s

/-- 06 R136: equal as patterns. -/
def execVcmpEq (f : VF) (s : State) : Out := noteV (.vcmpEq f) f .cmpEq .any .compare never s

/-- 06 R136: different as patterns. -/
def execVcmpNe (f : VF) (s : State) : Out := noteV (.vcmpNe f) f .cmpNe .any .compare never s

/-- 06 R136: less, signed. -/
def execVcmpLt (f : VF) (s : State) : Out := noteV (.vcmpLt f) f .cmpLt .int .compare never s

/-- 06 R136: at most, signed. -/
def execVcmpLe (f : VF) (s : State) : Out := noteV (.vcmpLe f) f .cmpLe .int .compare never s

/-- 06 R136: less, unsigned. -/
def execVcmpLtu (f : VF) (s : State) : Out := noteV (.vcmpLtu f) f .cmpLtu .int .compare never s

/-- 06 R136: at most, unsigned. -/
def execVcmpLeu (f : VF) (s : State) : Out := noteV (.vcmpLeu f) f .cmpLeu .int .compare never s

end Sys2Proof.Machine
end

