-- ==== Sys2Proof/Machine/VecMask.lean ====
section
/-! DEFINITION. Machine/VecMask.lean: mask logic, carries, counts and the other noted members of opcode 0x5B without a V
format (06 R147 to R151). -/

namespace Sys2Proof.Machine

/-- 06 R147: a and b. -/
def execKand (f : KF) (s : State) : Out := noteK (.kand f) f .kand s

/-- 06 R147: a or b. -/
def execKor (f : KF) (s : State) : Out := noteK (.kor f) f .kor s

/-- 06 R147: a xor b. -/
def execKxor (f : KF) (s : State) : Out := noteK (.kxor f) f .kxor s

/-- 06 R147: a and not b. -/
def execKandn (f : KF) (s : State) : Out := noteK (.kandn f) f .kandn s

/-- 06 R147: not a. -/
def execKnot (f : KF) (s : State) : Out := noteK (.knot f) f .knot s

/-- 06 R148, R451: toward higher indices by x[b]. -/
def execKshl (f : KF) (s : State) : Out := noteKShift (.kshl f) f .kshl s

/-- 06 R148, R451: toward lower indices by x[b]. -/
def execKshr (f : KF) (s : State) : Out := noteKShift (.kshr f) f .kshr s

/-- 06 R150: a + b + carry. -/
def execVadc (f : KF) (s : State) : Out := noteCarry (.vadc f) f .adc s

/-- 06 R150: a − b − borrow. -/
def execVsbc (f : KF) (s : State) : Out := noteCarry (.vsbc f) f .sbc s

/-- 06 R150: a + carry. -/
def execVaddk (f : KF) (s : State) : Out := noteCarry (.vaddk f) f .addk s

/-- 06 R151: leading zeros of each element. -/
def execVclz (f : RF) (s : State) : Out := noteR (.vclz f) f .clz .int (rVal f) (rReads f) s

/-- 06 R151: set bits of each element. -/
def execVpopcnt (f : RF) (s : State) : Out := noteR (.vpopcnt f) f .popcnt .int (rVal f) (rReads f) s

/-- 06 R151: the element index. -/
def execVid (f : RF) (s : State) : Out := noteR (.vid f) f .vid .any (fun _ => .zero) (fun _ => []) s

/-- 06 R149: the bits of x[rs1], repeated every 64 elements. -/
def execKset (f : RF) (s : State) : Out := noteGate s (.kset f) [f.rs1] (some 0x12) (ksetNote f)

/-- 06 R149: one or zero of et for each mask bit. -/
def execKtov (f : RF) (s : State) : Out := noteR (.ktov f) f .ktov .any (rMask f) (fun s => [.msk (rMask f s)]) s

end Sys2Proof.Machine
end

