-- ==== Sys2Proof/Machine/VecStream.lean ====
section
/-! DEFINITION. Machine/VecStream.lean: loads, stores, gathers, scatters and vector atomics (07 R158 to R169), and the
watermark attachments of streams (11 R267). -/

namespace Sys2Proof.Machine

/-- The x registers of a unit or strided stream. -/
def vmXs (f : VM) : List (BitVec 5) := [f.a, f.b]

/-- 07 R161, R163: a unit, strided or PB load. -/
def execVld (f : VM) (s : State) : Out := noteGate s (.vld f) (vmXs f) (some 0x13) (streamNote f .load)

/-- 07 R161 to R163: a unit, strided or PB store. -/
def execVst (f : VM) (s : State) : Out := noteGate s (.vst f) (vmXs f) (some 0x14) (streamNote f .store)

/-- 07 R164, R165: a gather. -/
def execVldx (f : VM) (s : State) : Out :=
  noteGate s (.vldx f) [f.a] (some 0x15) (indexNote f .loadx false)

/-- 07 R164, R165: a scatter. -/
def execVstx (f : VM) (s : State) : Out :=
  noteGate s (.vstx f) [f.a] (some 0x16) (indexNote f .storex false)

/-- What VAMOX needs of the types (07 R166): w 32 or 64, the memory format that of et, OR only under an integer et. -/
def amoxBad (f : VM) (s : State) : Bool :=
  let et := vtEt s.st.vec.vtype
  !(decide (etWidth et = 32) || decide (etWidth et = 64)) || !(f.mf == 0 || decide (f.mf.toNat = et)) ||
    (f.sub == 3 && etFloat et)

/-- 07 R166: vector atomics. -/
def execVamox (f : VM) (s : State) : Out :=
  noteGate s (.vamox f) [f.a] (some 0x16) (fun s => indexNote f .amo (amoxBad f s) s)

/-- A watermark attachment word (11 R267): object and base position; bits [63:47] are zero. -/
def attachWord (w : Word) : Option (Nat × Nat) := if fieldOf w 47 17 = 0 then some (fieldOf w 0 6, fieldOf w 6 41) else none

/-- The crew keeps the objects that its WMPUB attachments name (11 R270). -/
def State.notePub (s : State) (w : Word) : State :=
  s.mapCrews (fun c => if s.st.ofCrew c ∧ !c.pubs.contains (fieldOf w 0 6) then { c with pubs := c.pubs ++ [fieldOf w 0 6] } else c)

/-- An attachment joins the pricking, or the one that the command queue fills behind a pass in flight (11 R267; 04 R87). -/
def attach (s : State) (i : Instr) (f : RF) (set : Pricking → Nat × Nat → Pricking) (k : State → State) : Out :=
  queueGate s i [f.rs1] none (match attachWord (s.x f.rs1) with
    | none => trapI s 0x1F i
    | some w => retire (k (s.setVec (s.st.vec.setNewest (set s.st.vec.newest w))).dirtyVs))

/-- 11 R267: attaches to the next store stream. -/
def execWmpub (f : RF) (s : State) : Out :=
  attach s (.wmpub f) f (fun pk w => { pk with pub := some w }) (fun t => t.notePub (s.x f.rs1))

/-- 11 R267: attaches to the next VLD or VLDX. -/
def execWmlnk (f : RF) (s : State) : Out := attach s (.wmlnk f) f (fun pk w => { pk with lnk := some w }) id

end Sys2Proof.Machine
end

