-- ==== Sys2Proof/Machine/Dispatch.lean ====
section
/-! DEFINITION. Machine/Dispatch.lean: one arm per constructor of Instr. -/

namespace Sys2Proof.Machine

/-- What an instruction or event does. -/
def exec (i : Instr) (s : State) : Host.Outcome State Fault Refusal :=
  match i with
  | .vadd f => Sys2Proof.Machine.execVadd f s
  | .vsub f => Sys2Proof.Machine.execVsub f s
  | .vrsub f => Sys2Proof.Machine.execVrsub f s
  | .vmul f => Sys2Proof.Machine.execVmul f s
  | .vmulh f => Sys2Proof.Machine.execVmulh f s
  | .vmulhu f => Sys2Proof.Machine.execVmulhu f s
  | .vdiv f => Sys2Proof.Machine.execVdiv f s
  | .vdivu f => Sys2Proof.Machine.execVdivu f s
  | .vrem f => Sys2Proof.Machine.execVrem f s
  | .vremu f => Sys2Proof.Machine.execVremu f s
  | .vmin f => Sys2Proof.Machine.execVmin f s
  | .vmax f => Sys2Proof.Machine.execVmax f s
  | .vminu f => Sys2Proof.Machine.execVminu f s
  | .vmaxu f => Sys2Proof.Machine.execVmaxu f s
  | .vadds f => Sys2Proof.Machine.execVadds f s
  | .vsubs f => Sys2Proof.Machine.execVsubs f s
  | .vaddsu f => Sys2Proof.Machine.execVaddsu f s
  | .vsubsu f => Sys2Proof.Machine.execVsubsu f s
  | .vand f => Sys2Proof.Machine.execVand f s
  | .vor f => Sys2Proof.Machine.execVor f s
  | .vxor f => Sys2Proof.Machine.execVxor f s
  | .vsll f => Sys2Proof.Machine.execVsll f s
  | .vsrl f => Sys2Proof.Machine.execVsrl f s
  | .vsra f => Sys2Proof.Machine.execVsra f s
  | .vmerge f => Sys2Proof.Machine.execVmerge f s
  | .vmv f => Sys2Proof.Machine.execVmv f s
  | .vcmpEq f => Sys2Proof.Machine.execVcmpEq f s
  | .vcmpNe f => Sys2Proof.Machine.execVcmpNe f s
  | .vcmpLt f => Sys2Proof.Machine.execVcmpLt f s
  | .vcmpLe f => Sys2Proof.Machine.execVcmpLe f s
  | .vcmpLtu f => Sys2Proof.Machine.execVcmpLtu f s
  | .vcmpLeu f => Sys2Proof.Machine.execVcmpLeu f s
  | .vfadd f => Sys2Proof.Machine.execVfadd f s
  | .vfsub f => Sys2Proof.Machine.execVfsub f s
  | .vfmul f => Sys2Proof.Machine.execVfmul f s
  | .vfdiv f => Sys2Proof.Machine.execVfdiv f s
  | .vfma f => Sys2Proof.Machine.execVfma f s
  | .vfms f => Sys2Proof.Machine.execVfms f s
  | .vfnma f => Sys2Proof.Machine.execVfnma f s
  | .vfnms f => Sys2Proof.Machine.execVfnms f s
  | .vfmin f => Sys2Proof.Machine.execVfmin f s
  | .vfmax f => Sys2Proof.Machine.execVfmax f s
  | .vfsgnj f => Sys2Proof.Machine.execVfsgnj f s
  | .vfsqrt f => Sys2Proof.Machine.execVfsqrt f s
  | .vfexp2 f => Sys2Proof.Machine.execVfexp2 f s
  | .vflog2 f => Sys2Proof.Machine.execVflog2 f s
  | .vcvt f => Sys2Proof.Machine.execVcvt f s
  | .vfclass f => Sys2Proof.Machine.execVfclass f s
  | .vfcmpEq f => Sys2Proof.Machine.execVfcmpEq f s
  | .vfcmpLt f => Sys2Proof.Machine.execVfcmpLt f s
  | .vfcmpLe f => Sys2Proof.Machine.execVfcmpLe f s
  | .vfcmpUn f => Sys2Proof.Machine.execVfcmpUn f s
  | .vscanAdd f => Sys2Proof.Machine.execVscanAdd f s
  | .vscanMax f => Sys2Proof.Machine.execVscanMax f s
  | .vfscan f => Sys2Proof.Machine.execVfscan f s
  | .vlrec f => Sys2Proof.Machine.execVlrec f s
  | .vprev f => Sys2Proof.Machine.execVprev f s
  | .vrand f => Sys2Proof.Machine.execVrand f s
  | .vnms f => Sys2Proof.Machine.execVnms f s
  | .vnmst f => Sys2Proof.Machine.execVnmst f s
  | .vred f => Sys2Proof.Machine.execVred f s
  | .vfred f => Sys2Proof.Machine.execVfred f s
  | .vfredo f => Sys2Proof.Machine.execVfredo f s
  | .vld f => Sys2Proof.Machine.execVld f s
  | .vldx f => Sys2Proof.Machine.execVldx f s
  | .vst f => Sys2Proof.Machine.execVst f s
  | .vstx f => Sys2Proof.Machine.execVstx f s
  | .vamox f => Sys2Proof.Machine.execVamox f s
  | .kand f => Sys2Proof.Machine.execKand f s
  | .kor f => Sys2Proof.Machine.execKor f s
  | .kxor f => Sys2Proof.Machine.execKxor f s
  | .kandn f => Sys2Proof.Machine.execKandn f s
  | .knot f => Sys2Proof.Machine.execKnot f s
  | .kshl f => Sys2Proof.Machine.execKshl f s
  | .kshr f => Sys2Proof.Machine.execKshr f s
  | .vadc f => Sys2Proof.Machine.execVadc f s
  | .vsbc f => Sys2Proof.Machine.execVsbc f s
  | .vaddk f => Sys2Proof.Machine.execVaddk f s
  | .vsetl f => Sys2Proof.Machine.execVsetl f s
  | .vsetli f => Sys2Proof.Machine.execVsetli f s
  | .vlq f => Sys2Proof.Machine.execVlq f s
  | .vforce f => Sys2Proof.Machine.execVforce f s
  | .voset f => Sys2Proof.Machine.execVoset f s
  | .voget f => Sys2Proof.Machine.execVoget f s
  | .vspill f => Sys2Proof.Machine.execVspill f s
  | .vfill f => Sys2Proof.Machine.execVfill f s
  | .vsavef f => Sys2Proof.Machine.execVsavef f s
  | .vrestf f => Sys2Proof.Machine.execVrestf f s
  | .vldsg f => Sys2Proof.Machine.execVldsg f s
  | .vstsg f => Sys2Proof.Machine.execVstsg f s
  | .vsldup f => Sys2Proof.Machine.execVsldup f s
  | .vslddn f => Sys2Proof.Machine.execVslddn f s
  | .vperm f => Sys2Proof.Machine.execVperm f s
  | .vcompr f => Sys2Proof.Machine.execVcompr f s
  | .vexpnd f => Sys2Proof.Machine.execVexpnd f s
  | .vrev f => Sys2Proof.Machine.execVrev f s
  | .vclz f => Sys2Proof.Machine.execVclz f s
  | .vpopcnt f => Sys2Proof.Machine.execVpopcnt f s
  | .vid f => Sys2Proof.Machine.execVid f s
  | .kpopc f => Sys2Proof.Machine.execKpopc f s
  | .kfirst f => Sys2Proof.Machine.execKfirst f s
  | .klast f => Sys2Proof.Machine.execKlast f s
  | .kmv f => Sys2Proof.Machine.execKmv f s
  | .kset f => Sys2Proof.Machine.execKset f s
  | .ktov f => Sys2Proof.Machine.execKtov f s
  | .vtroww f => Sys2Proof.Machine.execVtroww f s
  | .vtrowr f => Sys2Proof.Machine.execVtrowr f s
  | .vtcolw f => Sys2Proof.Machine.execVtcolw f s
  | .vtcolr f => Sys2Proof.Machine.execVtcolr f s
  | .tzero f => Sys2Proof.Machine.execTzero f s
  | .hload f => Sys2Proof.Machine.execHload f s
  | .hloads f => Sys2Proof.Machine.execHloads f s
  | .hswap f => Sys2Proof.Machine.execHswap f s
  | .hmul f => Sys2Proof.Machine.execHmul f s
  | .hmulp f => Sys2Proof.Machine.execHmulp f s
  | .hmulf f => Sys2Proof.Machine.execHmulf f s
  | .hacc f => Sys2Proof.Machine.execHacc f s
  | .hmov f => Sys2Proof.Machine.execHmov f s
  | .hq f => Sys2Proof.Machine.execHq f s
  | .mnrmz f => Sys2Proof.Machine.execMnrmz f s
  | .mnorm f => Sys2Proof.Machine.execMnorm f s
  | .matab f => Sys2Proof.Machine.execMatab f s
  | .msamp f => Sys2Proof.Machine.execMsamp f s
  | .mscale f => Sys2Proof.Machine.execMscale f s
  | .cpy f => Sys2Proof.Machine.execCpy f s
  | .cpyf f => Sys2Proof.Machine.execCpyf f s
  | .cpyb f => Sys2Proof.Machine.execCpyb f s
  | .cpym f => Sys2Proof.Machine.execCpym f s
  | .twany f => Sys2Proof.Machine.execTwany f s
  | .twall f => Sys2Proof.Machine.execTwall f s
  | .tffr f => Sys2Proof.Machine.execTffr f s
  | .tclr f => Sys2Proof.Machine.execTclr f s
  | .waitc f => Sys2Proof.Machine.execWaitc f s
  | .fencep f => Sys2Proof.Machine.execFencep f s
  | .wmset f => Sys2Proof.Machine.execWmset f s
  | .wmpub f => Sys2Proof.Machine.execWmpub f s
  | .wmlnk f => Sys2Proof.Machine.execWmlnk f s
  | .wmget f => Sys2Proof.Machine.execWmget f s
  | .barc f => Sys2Proof.Machine.execBarc f s
  | .bara f => Sys2Proof.Machine.execBara f s
  | .barw f => Sys2Proof.Machine.execBarw f s
  | .sig f => Sys2Proof.Machine.execSig f s
  | .tend f => Sys2Proof.Machine.execTend f s
  | .ramo f => Sys2Proof.Machine.execRamo f s
  | .ramoq f => Sys2Proof.Machine.execRamoq f s
  | .loop f => Sys2Proof.Machine.execLoop f s
  | .fld f => Sys2Proof.Machine.execFld f s
  | .frun f => Sys2Proof.Machine.execFrun f s
  | .ftok f => Sys2Proof.Machine.execFtok f s
  | .fstat f => Sys2Proof.Machine.execFstat f s
  | .lidx f => Sys2Proof.Machine.execLidx f s
  | .lbrk f => Sys2Proof.Machine.execLbrk f s
  | .mpkw f => Sys2Proof.Machine.execMpkw f s
  | .mpkr f => Sys2Proof.Machine.execMpkr f s
  | .mpkp f => Sys2Proof.Machine.execMpkp f s
  | .tret f => Sys2Proof.Machine.execTret f s
  | .syield f => Sys2Proof.Machine.execSyield f s
  | .harnq f => Sys2Proof.Machine.execHarnq f s
  | .ecall => Sys2Proof.Machine.execEcall s
  | .ebreak => Sys2Proof.Machine.execEbreak s
  | .fence fm pred succ rs1 rd => Sys2Proof.Machine.execFence fm pred succ rs1 rd s
  | .fenceI imm rs1 rd => Sys2Proof.Machine.execFenceI imm rs1 rd s
  | .scalarInstruction k => Sys2Proof.Machine.execScalarInstruction k s
  | .bAdd f => Sys2Proof.Machine.execBAdd f s
  | .bSub f => Sys2Proof.Machine.execBSub f s
  | .bMul f => Sys2Proof.Machine.execBMul f s
  | .bAnd f => Sys2Proof.Machine.execBAnd f s
  | .bOr f => Sys2Proof.Machine.execBOr f s
  | .bXor f => Sys2Proof.Machine.execBXor f s
  | .bSll f => Sys2Proof.Machine.execBSll f s
  | .bSrl f => Sys2Proof.Machine.execBSrl f s
  | .bSra f => Sys2Proof.Machine.execBSra f s
  | .bMin f => Sys2Proof.Machine.execBMin f s
  | .bMax f => Sys2Proof.Machine.execBMax f s
  | .bMinu f => Sys2Proof.Machine.execBMinu f s
  | .bMaxu f => Sys2Proof.Machine.execBMaxu f s
  | .bMov f => Sys2Proof.Machine.execBMov f s
  | .bFadd f => Sys2Proof.Machine.execBFadd f s
  | .bFsub f => Sys2Proof.Machine.execBFsub f s
  | .bFmul f => Sys2Proof.Machine.execBFmul f s
  | .bFmin f => Sys2Proof.Machine.execBFmin f s
  | .bFmax f => Sys2Proof.Machine.execBFmax f s
  | .bFma f => Sys2Proof.Machine.execBFma f s
  | .bCeq f => Sys2Proof.Machine.execBCeq f s
  | .bClt f => Sys2Proof.Machine.execBClt f s
  | .bCltu f => Sys2Proof.Machine.execBCltu f s
  | .bFeq f => Sys2Proof.Machine.execBFeq f s
  | .bFlt f => Sys2Proof.Machine.execBFlt f s
  | .bFle f => Sys2Proof.Machine.execBFle f s
  | .bSel f => Sys2Proof.Machine.execBSel f s
  | .bJ f => Sys2Proof.Machine.execBJ f s
  | .bBnz f => Sys2Proof.Machine.execBBnz f s
  | .bBz f => Sys2Proof.Machine.execBBz f s
  | .bRet f => Sys2Proof.Machine.execBRet f s
  | .bHalt f => Sys2Proof.Machine.execBHalt f s
  | .bCtx f => Sys2Proof.Machine.execBCtx f s
  | .bTfwd f => Sys2Proof.Machine.execBTfwd f s
  | .bTget f => Sys2Proof.Machine.execBTget f s
  | .fabricRunEnd => Sys2Proof.Machine.execFabricRunEnd s
  | .fabricRunTimeout => Sys2Proof.Machine.execFabricRunTimeout s
  | .csrWrite c => Sys2Proof.Machine.execCsrWrite c s
  | .vfflagsWrite c => Sys2Proof.Machine.execVfflagsWrite c s
  | .vslipWrite c => Sys2Proof.Machine.execVslipWrite c s
  | .vmtWrite c => Sys2Proof.Machine.execVmtWrite c s
  | .tcfgWrite c => Sys2Proof.Machine.execTcfgWrite c s
  | .sstatWrite c => Sys2Proof.Machine.execSstatWrite c s
  | .samplingStatsRead c => Sys2Proof.Machine.execSamplingStatsRead c s
  | .dueForce => Sys2Proof.Machine.execDueForce s
  | .linkedStreamRelease => Sys2Proof.Machine.execLinkedStreamRelease s
  | .linkedStreamTimeout => Sys2Proof.Machine.execLinkedStreamTimeout s
  | .passEnd => Sys2Proof.Machine.execPassEnd s
  | .passFault err => Sys2Proof.Machine.execPassFault err s
  | .impreciseTrapEntry => Sys2Proof.Machine.execImpreciseTrapEntry s
  | .preEmptTrap => Sys2Proof.Machine.execPreEmptTrap s
  | .copyComplete n => Sys2Proof.Machine.execCopyComplete n s
  | .copyFaultStop n => Sys2Proof.Machine.execCopyFaultStop n s
  | .followOnRun => Sys2Proof.Machine.execFollowOnRun s
  | .cpymReplicaStop n r => Sys2Proof.Machine.execCpymReplicaStop n r s
  | .hoopOpComplete => Sys2Proof.Machine.execHoopOpComplete s
  | .engineFault src kind elem => Sys2Proof.Machine.execEngineFault src kind elem s
  | .msampEnd => Sys2Proof.Machine.execMsampEnd s
  | .barrierPhasePass => Sys2Proof.Machine.execBarrierPhasePass s
  | .barrierTimeout => Sys2Proof.Machine.execBarrierTimeout s
  | .packetAtBaseDie n => Sys2Proof.Machine.execPacketAtBaseDie n s
  | .packetReplyArrival n => Sys2Proof.Machine.execPacketReplyArrival n s
  | .ramoAtTarget n => Sys2Proof.Machine.execRamoAtTarget n s
  | .ramoResponse n => Sys2Proof.Machine.execRamoResponse n s
  | .launchLine0Write asid queue data => Sys2Proof.Machine.execLaunchLine0Write asid queue data s
  | .launchLine1Write asid queue data => Sys2Proof.Machine.execLaunchLine1Write asid queue data s
  | .portWriteDiscard asid queue => Sys2Proof.Machine.execPortWriteDiscard asid queue s
  | .taskPlacement => Sys2Proof.Machine.execTaskPlacement s
  | .priorityAging => Sys2Proof.Machine.execPriorityAging s
  | .preEmptionDecision => Sys2Proof.Machine.execPreEmptionDecision s
  | .slotHold fe => Sys2Proof.Machine.execSlotHold fe s
  | .slotArm fe => Sys2Proof.Machine.execSlotArm fe s
  | .slotDisarm fe => Sys2Proof.Machine.execSlotDisarm fe s
  | .slotFree fe => Sys2Proof.Machine.execSlotFree fe s
  | .bindRecordWrite fe word value => Sys2Proof.Machine.execBindRecordWrite fe word value s
  | .crewArmed ctx cnum => Sys2Proof.Machine.execCrewArmed ctx cnum s
  | .strandStart fe => Sys2Proof.Machine.execStrandStart fe s
  | .lockedClockEntry stack => Sys2Proof.Machine.execLockedClockEntry stack s
  | .pageFaultDeadline ctx cnum => Sys2Proof.Machine.execPageFaultDeadline ctx cnum s
  | .preEmptionDeadline ctx cnum => Sys2Proof.Machine.execPreEmptionDeadline ctx cnum s
  | .killTaskComplete ctx cnum => Sys2Proof.Machine.execKillTaskComplete ctx cnum s
  | .completionRecordWrite fe => Sys2Proof.Machine.execCompletionRecordWrite fe s
  | .headerReread fe => Sys2Proof.Machine.execHeaderReread fe s
  | .createContext root tvec pool keep => Sys2Proof.Machine.execCreateContext root tvec pool keep s
  | .destroyContext ctx => Sys2Proof.Machine.execDestroyContext ctx s
  | .setQueue ctx queue pri => Sys2Proof.Machine.execSetQueue ctx queue pri s
  | .killTask ctx task => Sys2Proof.Machine.execKillTask ctx task s
  | .shootdown w0 w1 w2 w3 => Sys2Proof.Machine.execShootdown w0 w1 w2 w3 s
  | .shootdownComplete n => Sys2Proof.Machine.execShootdownComplete n s
  | .granuleRegions change => Sys2Proof.Machine.execGranuleRegions change s
  | .update unit image signed => Sys2Proof.Machine.execUpdate unit image signed s
  | .measurements stack => Sys2Proof.Machine.execMeasurements stack s
  | .updateDrainTimeout unit => Sys2Proof.Machine.execUpdateDrainTimeout unit s
  | .updateSelfTestTimeout unit => Sys2Proof.Machine.execUpdateSelfTestTimeout unit s
  | .faultRecordToHost stack => Sys2Proof.Machine.execFaultRecordToHost stack s
  | .faultBufferStatusWrite stack value => Sys2Proof.Machine.execFaultBufferStatusWrite stack value s
  | .linkFlitResend link => Sys2Proof.Machine.execLinkFlitResend link s
  | .linkDown link => Sys2Proof.Machine.execLinkDown link s
  | .routeChange link => Sys2Proof.Machine.execRouteChange link s
  | .responseTimeout src n lost => Sys2Proof.Machine.execResponseTimeout src n lost s
  | .hostCxlMemAccess addr wr => Sys2Proof.Machine.execHostCxlMemAccess addr wr s
  | .peerRequest port addr wr => Sys2Proof.Machine.execPeerRequest port addr wr s
  | .spdmRequest stack => Sys2Proof.Machine.execSpdmRequest stack s
  | .hostLinkTraining width rate => Sys2Proof.Machine.execHostLinkTraining width rate s
  | .reset => Sys2Proof.Machine.execReset s
  | .coordinatorTakeover => Sys2Proof.Machine.execCoordinatorTakeover s
  | .calibration domain => Sys2Proof.Machine.execCalibration domain s
  | .patrolScrub addr found => Sys2Proof.Machine.execPatrolScrub addr found s
  | .undervoltStep domain => Sys2Proof.Machine.execUndervoltStep domain s
  | .undervoltRecountEnd domain => Sys2Proof.Machine.execUndervoltRecountEnd domain s
  | .domainSelfTest domain bad => Sys2Proof.Machine.execDomainSelfTest domain bad s
  | .illegalInstruction w => Sys2Proof.Machine.execIllegalInstruction w s
  | .ramoqAnswer => Sys2Proof.Machine.execRamoqAnswer s
  | .updateComplete unit => Sys2Proof.Machine.execUpdateComplete unit s

end Sys2Proof.Machine
end

