-- ==== Sys2Proof/Machine/Boundary.lean ====
section
/-! DEFINITION. Machine/Boundary.lean: what happens next: inputs, the events that engines and firmware have ready, and the next
instruction of the strand whose turn it is (02 R55; 04 R85; 05 R108, R124; 23 R396; log 8). -/

namespace Sys2Proof.Machine

/-! ## Events -/

/-- Events of one strand. -/
def ofStrand (i : Instr) : Bool :=
  match i with
  | .fabricRunEnd | .fabricRunTimeout | .dueForce | .linkedStreamRelease | .linkedStreamTimeout | .passEnd | .passFault _
  | .impreciseTrapEntry | .preEmptTrap | .copyComplete _ | .copyFaultStop _ | .followOnRun | .cpymReplicaStop _ _
  | .hoopOpComplete | .engineFault _ _ _ | .msampEnd | .barrierPhasePass | .barrierTimeout | .packetAtBaseDie _
  | .packetReplyArrival _ | .ramoAtTarget _ | .ramoResponse _ | .ramoqAnswer | .responseTimeout _ _ _ => true
  | _ => false

/-- Events of the package. -/
def ofPackage (i : Instr) : Bool :=
  match i with
  | .launchLine0Write _ _ _ | .launchLine1Write _ _ _ | .portWriteDiscard _ _ | .taskPlacement | .priorityAging
  | .preEmptionDecision | .slotHold _ | .slotArm _ | .slotDisarm _ | .slotFree _ | .bindRecordWrite _ _ _ | .crewArmed _ _
  | .strandStart _ | .lockedClockEntry _ | .pageFaultDeadline _ _ | .preEmptionDeadline _ _ | .killTaskComplete _ _
  | .completionRecordWrite _ | .headerReread _ | .createContext _ _ _ _ | .destroyContext _ | .setQueue _ _ _ | .killTask _ _
  | .shootdown _ _ _ _ | .shootdownComplete _ | .granuleRegions _ | .update _ _ _ | .measurements _ | .updateDrainTimeout _
  | .updateSelfTestTimeout _ | .updateComplete _ | .faultRecordToHost _ | .faultBufferStatusWrite _ _ | .linkFlitResend _
  | .linkDown _ | .routeChange _ | .hostCxlMemAccess _ _ | .peerRequest _ _ _ | .spdmRequest _ | .hostLinkTraining _ _ | .reset
  | .coordinatorTakeover | .calibration _ | .patrolScrub _ _ | .undervoltStep _ | .undervoltRecountEnd _
  | .domainSelfTest _ _ => true
  | _ => false

/-- What an input makes of a copy in flight. -/
def State.onCopy (s : State) (serial : Nat) (f : Copy → State) : State :=
  match s.st.eng.copies.find? (fun c => c.serial == serial) with
  | some c => f c
  | none => s

/-- An input takes effect: an event of a strand at the strand that a front end leads, while it is bound. -/
def runInput (u : Input) (s : State) : Out :=
  match u with
  | .event fe i =>
    if ofStrand i then
      let s' := s.focus fe
      if s'.st.fe = fe ∧ s'.st.run = .bound then exec i s' else ok s
    else if ofPackage i then exec i s
    else ok s
  | .upset e => ok (s.upset e)
  | .host key data => ok (s.hostWrite key data)
  | .passPart fe groups => ok (s.atFe fe (runPart groups))
  | .copyPart fe serial rep lo hi => ok (s.atFe fe (fun s => s.onCopy serial (fun c => runCopyPart s c rep lo hi)))
  | .matLine fe reading line => ok (s.atFe fe (fun s => s.readLine reading line))
  | .late fe serial cls => ok (s.atFe fe (fun s => s.onCopy serial (fun c => s.copyLate c cls)))
  | .observe fe cls => ok (s.atFe fe (fun s => s.observes cls))
  | .portRead asid queue off => ok (s.portRead asid queue off)
  | .barWrite off w => s.barWrite off w
  | .barRead off => ok (s.barRead off)
  | .bufferRead stack => ok (s.bufferRead stack)

/-! ## Events that are ready -/

/-- What an event does. -/
abbrev Event := State → Out

/-- The event of the pass in flight. -/
def State.passEvents (s : State) : List Event :=
  match passTurn s with
  | some .ends => [execPassEnd]
  | some (.faults ..) => [execPassFault none]
  | some (.waits _ _ .link) => [execLinkedStreamRelease]
  | some (.waits _ _ _) => [execPassEnd]
  | none => []

/-- The event of a copy. -/
def State.copyEvent (s : State) (c : Copy) : Option Event :=
  if !s.copyFree c then none
  else
    match s.failedReplica c with
    | some (r, _) => some (execCpymReplicaStop c.serial r)
    | none =>
      match s.copyTurn c with
      | .stops _ _ _ _ => some (execCopyFaultStop c.serial)
      | _ => some (execCopyComplete c.serial)

/-- The event of the matrix engines. -/
def State.matEvents (s : State) : List Event :=
  match s.st.mat.queue, s.matTurn.1 with
  | o :: _, .fault _ _ _ _ => [execEngineFault o.src 0 0]
  | _ :: _, .held => []
  | o :: _, _ => [if o.after.isSome then execFollowOnRun else if o.isMsamp then execMsampEnd else execHoopOpComplete]
  | [], _ => []

/-- The event of a remote atomic. -/
def State.ramoEvent (s : State) (r : Ramo) : Option Event :=
  if r.res.isSome then some (execRamoResponse r.serial)
  else
    match s.ramoTurn r with
    | .held => none
    | .faults _ _ => some (execEngineFault 14 0 0)
    | _ => some (execRamoAtTarget r.serial)

/-- Events that the engines of the strand whose turn it is have ready. -/
def State.engineEvents (s : State) : List Event :=
  if s.st.run ≠ .bound then []
  else
    s.passEvents ++ (if s.st.runHeld then [] else (runNext s).toList.map exec) ++ s.st.eng.copies.filterMap s.copyEvent ++
      s.matEvents ++ s.st.eng.ramos.filterMap s.ramoEvent ++
      (s.st.eng.pkts.filter s.packetFree).map (fun p => execPacketAtBaseDie p.serial) ++
      (List.range s.st.eng.flight.length).map execPacketReplyArrival

/-- The event of a slot of a crew that is to be bound; a lent slot follows its leader. -/
def State.slotEvents (s : State) (fe : Nat) : List Event :=
  if (s.slot fe).br.lent then []
  else
    match (s.slot fe).state with
    | .free => [execSlotHold fe]
    | .held => [execSlotArm fe]
    | .starting => [execStrandStart fe]
    | _ => []

/-- Events of a crew: its slots on their way to a bind, or its kill. -/
def State.crewEvents (s : State) (c : Crew) : List Event :=
  if c.kill.isSome then [execKillTaskComplete c.pkt.ctx c.cnum]
  else c.fes.flatMap s.slotEvents ++ (if s.crewReady c && !c.gone then [execCrewArmed c.pkt.ctx c.cnum] else [])

/-- Events that the firmware and dispatch have ready. -/
def State.firmwareEvents (s : State) : List Event :=
  s.fw.crews.flatMap s.crewEvents ++
    (s.slots.filter (fun p => p.2.state == .held && !s.fw.crews.any (fun c => c.fes.contains p.1))).map (fun p => execSlotFree p.1) ++
    (if s.ready.isEmpty then [] else [execTaskPlacement]) ++
    ((s.recq.map Prod.fst).eraseDups.filter (fun fe => decide (fe < 520))).map execCompletionRecordWrite ++
    (s.faultBufs.filter (fun p => !p.2.recs.isEmpty)).map (fun p => execFaultRecordToHost p.1) ++
    (List.range s.shoots.length).map execShootdownComplete ++ s.fw.locking.map execLockedClockEntry

/-- Everything that is ready beside the strand's own next instruction. -/
def State.events (s : State) : List Event := s.engineEvents ++ s.firmwareEvents

/-! ## The strand -/

/-- Whether an access of the instruction at pc waits on a page: the instruction has issued, and no boundary comes before it
ends. -/
def State.inAccess (s : State) : Bool :=
  s.pfWaits.any (fun w => w.fe == s.st.fe && !w.gaveUp && (w.src == 1 || w.src == 7 || w.src == 10 || w.src == 15))

/-- What the boundary before the next instruction brings: a fault held, the pre-empt trap, the due force (23 R396; 04 R85). An instruction
that waits with none of its effects done, as TWALL, WAITC or a CSR access may, has not issued, and a boundary stands before it (log
58). -/
def State.boundary (s : State) : Option Event :=
  if s.inAccess then none
  else if !s.sup && !s.st.held.isEmpty then some execImpreciseTrapEntry
  else if s.st.sstat.pp && !s.sup && s.atIteration then some execPreEmptTrap
  else if s.forceDue then some execDueForce
  else none

/-- The effect of a fetched word; one that is no instruction is illegal (05 R124). -/
def execWord (w : IWord) (s : State) : Out :=
  match decode w with
  | .ok i => exec i s
  | .error _ => execIllegalInstruction w s

/-- The strand fetches its next word and executes it. -/
def fetchExec (s : State) : Out := s.fetch.andThen execWord

/-- The strand goes on. -/
def strandStep (s : State) : Out :=
  if s.st.run ≠ .bound then ok s
  else
    match s.boundary with
    | some e => e s
    | none => fetchExec s

/-- A fabric run in the middle of a cycle goes on at once: its cycle is one moment (10 R242). -/
def State.midCycle (s : State) : Option Instr :=
  match s.st.fab.run with
  | some r => if s.st.run = .bound ∧ r.turn ≠ 0 then runNext s else none
  | none => none

/-- What is chosen among the events that are ready, the other strands, and the strand whose turn it is. -/
def choose (s : State) (evs : List Event) : Out :=
  let n := Config.schedule s.tick % (evs.length + s.others.length + 1)
  match evs[n]? with
  | some e => e s
  | none =>
    match s.others[n - evs.length]? with
    | some t => strandStep (s.focus t.fe)
    | none => strandStep s

/-- The next step of the machine. -/
def nextStep (s : State) : Out :=
  match s.inbox with
  | u :: rest => runInput u { s with inbox := rest }
  | [] =>
    match s.midCycle with
    | some i => exec i s
    | none =>
      match s.events, s.others with
      | [], [] => strandStep s
      | evs, _ => choose s evs

/-! ## Placing an instruction -/

/-- Nothing is ready, pending or due but the strand's next instruction. -/
def State.quiet (s : State) : Bool :=
  s.inbox.isEmpty && s.others.isEmpty && s.st.run == .bound && s.events.isEmpty && s.boundary.isNone && s.midCycle.isNone

/-- The strand with nothing under way and nothing pending; an unbound one is bound as a strand of one front end. -/
def Strand.calm (t : Strand) : Strand :=
  let e := t.eng
  { t with
    run := .bound
    lanes := if t.run = .unbound then 32 else t.lanes
    br := if t.run = .unbound then { t.br with g := 1, csize := 1 } else t.br
    held := []
    sstat := { t.sstat with pp := false }
    vec := { t.vec with pass := none, ahead := [], pk := { t.vec.pk with due := false, count := 0 } }
    fab := { t.fab with run := none }
    mat := { t.mat with queue := [] }
    eng := { e with copies := [], pkts := [], flight := [], ramos := [], pendX := [], trips := [] } }

/-- The state in which nothing but the strand's next instruction can come. -/
def State.calm (s : State) : State :=
  { s with
    st := s.st.calm, others := [], inbox := [], pfWaits := [], recq := [], faultBufs := [], shoots := [], slots := []
    fw := { s.fw with crews := [], locking := [], contexts := s.fw.contexts.map (fun c => { c with queues := [] }) } }

/-- A page-table line whose first entry maps 4 TiB of virtual addresses from 0 to physical addresses from 0: valid, read, write,
exec, task, the granule of region 0, accessed and dirty (12 Table 12.1). -/
def mapLine (gran : Nat) : Nat := 2 ^ 40 + 2 ^ 41 + 2 ^ 42 + 2 ^ 43 + 2 ^ 44 + gran * 2 ^ 47 + 2 ^ 51 + 2 ^ 52

/-- Where that table lies. -/
def mapRoot : Nat := 2 ^ 39

/-- Memory with bytes at successive keys. -/
def putBytes (m : Memory) (k : Nat) (bs : List Byte) : Memory := (keysFrom k bs.length |>.zip bs).foldl (fun m c => m.put c.1 c.2) m

/-- The keys that the strand's next fetch reads. -/
def State.fetchKeys (s : State) : Option (List Nat) :=
  match s.locateN s.st s.st.pc.toNat 4 s.sup .fetch with
  | .keys ks => some ks
  | _ => none

/-- The state with page tables that let the strand fetch at its pc, or at a low address where that cannot be mapped. -/
def State.mapped (s : State) : State :=
  let pc := BitVec.ofNat 64 (s.st.pc.toNat % 2 ^ 30 / 4 * 4)
  { s with
    mem := putBytes s.mem mapRoot (leBytes 64 (mapLine (s.granCode 0)))
    reserved := []
    down := []
    st := { s.st with pc := pc, br := { s.st.br with root := mapRoot } }
    fw := { s.fw with contexts := [] } }

/-- The word stored where the strand fetches next, with nothing older of it or of the tables in any cache. -/
def State.placeWord (s : State) (w : IWord) : State :=
  let s := if s.fetchKeys.isSome ∧ s.wlog.isEmpty ∧ s.st.pc.toNat % 4 = 0 then s else s.mapped
  match s.fetchKeys with
  | some ks =>
    { s with
      mem := (ks.zip (leBytes 4 w.toNat)).foldl (fun m c => m.put c.1 c.2) s.mem
      poison := []
      wlog := []
      st := { s.st with icMark := 0, icFence := Vector.replicate 8 0, icSeen := Vector.replicate 8 0 } }
  | none => s

/-- A run in the middle of its first cycle whose second bobbin is at a word. -/
def State.placeBobbin (s : State) (w : IWord) : State :=
  let b : Bobbin :=
    { b := Vector.replicate 8 0, ready := Vector.replicate 8 0, tok := 0, pc := 0, ret := 0, ctx := 0, halted := false,
      count := 0, qi := Vector.replicate 4 [], qr := [], ql := [], out0 := 0, out1 := 0 }
  let r : Run :=
    { bobbins := [b, b], turn := 1, start := [b, b], cycle := 0, moved := 0, lastHalt := 0, qo0 := none, qo1 := none, w0 := 0,
      w1 := 0, vl := 0, vtype := s.st.vec.vtype, flags := 0, drop := false, flips := [], pc := s.st.pc, serial := s.st.eng.serial }
  s.setFab { s.st.fab with ctx0 := Vector.replicate 32 w, run := some r }

/-- The state whose very next step executes a word: a strand's, or one that only a bobbin can execute (log 8). -/
def State.placed (s : State) (w : IWord) : State :=
  let s := if s.quiet then s else s.calm
  match decode w, decodeBobbin w with
  | .error _, .ok _ => s.placeBobbin w
  | _, _ => s.placeWord w

end Sys2Proof.Machine
end

