-- ==== Sys2Proof/Machine/Step.lean ====
section
/-! DEFINITION. Machine/Step.lean: one step of the machine. -/

namespace Sys2Proof.Machine

/-- One step: the oldest input, an event that is ready, or the next instruction of a strand. -/
def step (s : State) : Host.Outcome State Fault Refusal := nextStep s

/-- The state with an instruction where step fetches its next instruction: a strand's word in memory, or a bobbin's word in the
context of a run in flight. Every instruction is one word of 32 bits. -/
def State.withFetchWord (s : State) (nbits w : Nat) : State := if nbits ≤ 32 then s.placed (BitVec.ofNat 32 w) else s

end Sys2Proof.Machine
end

