-- ==== Sys2Proof/Safety.lean ====
section
/-! DEFINITION. Safety.lean: what claims call a good state and a safe run. -/

namespace Sys2Proof.Machine

/-- What holds of every strand: x0 holds zero in the register file itself (02 R36), the loop stack has at most six levels (11
R277), and vslip lies from 1 to 16 (02 R46). -/
def Strand.good (t : Strand) : Bool :=
  t.x[0] == 0 && decide (t.loops.length ≤ 6) && decide (1 ≤ t.csr.vslip.toNat) && decide (t.csr.vslip.toNat ≤ 16)

/-- The invariant of the machine: its memory is in canonical form, every strand is good, and so is the loop stack that each frame
saved. -/
def State.good (s : State) : Bool :=
  s.mem.wf && s.st.good && s.others.all Strand.good && s.frames.all (fun f => decide (f.loops.length ≤ 6))

/-- A run of n steps neither faults nor is refused. -/
def SafeRun (n : Nat) (s : State) : Prop := ∃ t, Sys2Proof.core.run n s = .next t

/-! ## Terms of the statements -/

/-- An instruction has completed without transferring control: the strand stands at what follows, and the step is counted. -/
def State.completed (s : State) : State := { advance s with tick := s.tick + 1 }

/-- One more step counted. -/
def State.ticked (s : State) : State := { s with tick := s.tick + 1 }

/-- The strand can take a vector instruction at once: none of the x registers is awaited, vs is on, and neither a pass, with what waits
behind it, nor a fabric run is in flight. -/
def State.vecReady (s : State) (xs : List (BitVec 5)) : Prop :=
  s.waitsX xs = false ∧ s.st.sstat.vs ≠ 0 ∧ s.st.vec.pass = none ∧ s.st.fab.run = none ∧ s.st.vec.ahead = []

/-- The noted instructions of the V format: fields, operation, class and operand form (05 Tables 5.3 and 5.4). -/
def vShape (i : Instr) : Option (VF × NOp × Cls × Form) :=
  match i with
  | .vadd f => some (f, .add, .int, .binary)
  | .vsub f => some (f, .sub, .int, .binary)
  | .vrsub f => some (f, .rsub, .int, .binary)
  | .vmul f => some (f, .mul, .int, .binary)
  | .vmulh f => some (f, .mulh, .int, .binary)
  | .vmulhu f => some (f, .mulhu, .int, .binary)
  | .vdiv f => some (f, .div, .int, .binary)
  | .vdivu f => some (f, .divu, .int, .binary)
  | .vrem f => some (f, .rem, .int, .binary)
  | .vremu f => some (f, .remu, .int, .binary)
  | .vmin f => some (f, .min, .int, .binary)
  | .vmax f => some (f, .max, .int, .binary)
  | .vminu f => some (f, .minu, .int, .binary)
  | .vmaxu f => some (f, .maxu, .int, .binary)
  | .vadds f => some (f, .adds, .int, .binary)
  | .vsubs f => some (f, .subs, .int, .binary)
  | .vaddsu f => some (f, .addsu, .int, .binary)
  | .vsubsu f => some (f, .subsu, .int, .binary)
  | .vand f => some (f, .and, .any, .binary)
  | .vor f => some (f, .or, .any, .binary)
  | .vxor f => some (f, .xor, .any, .binary)
  | .vsll f => some (f, .sll, .int, .binary)
  | .vsrl f => some (f, .srl, .int, .binary)
  | .vsra f => some (f, .sra, .int, .binary)
  | .vmerge f => some (f, .merge, .any, .binary)
  | .vmv f => some (f, .mv, .any, .move)
  | .vcmpEq f => some (f, .cmpEq, .any, .compare)
  | .vcmpNe f => some (f, .cmpNe, .any, .compare)
  | .vcmpLt f => some (f, .cmpLt, .int, .compare)
  | .vcmpLe f => some (f, .cmpLe, .int, .compare)
  | .vcmpLtu f => some (f, .cmpLtu, .int, .compare)
  | .vcmpLeu f => some (f, .cmpLeu, .int, .compare)
  | .vfadd f => some (f, .fadd, .float, .binary)
  | .vfsub f => some (f, .fsub, .float, .binary)
  | .vfmul f => some (f, .fmul, .float, .binary)
  | .vfdiv f => some (f, .fdiv, .float, .binary)
  | .vfma f => some (f, .fma, .float, .ternary)
  | .vfms f => some (f, .fms, .float, .ternary)
  | .vfnma f => some (f, .fnma, .float, .ternary)
  | .vfnms f => some (f, .fnms, .float, .ternary)
  | .vfmin f => some (f, .fmin, .float, .binary)
  | .vfmax f => some (f, .fmax, .float, .binary)
  | .vfsgnj f => some (f, .fsgnj, .float, .binary)
  | .vfsqrt f => some (f, .fsqrt, .float, .unary)
  | .vfexp2 f => some (f, .fexp2, .float, .unary)
  | .vflog2 f => some (f, .flog2, .float, .unary)
  | .vcvt f => some (f, .cvt, .any, .selected)
  | .vfclass f => some (f, .fclass, .float, .unary)
  | .vfcmpEq f => some (f, .fcmpEq, .float, .compare)
  | .vfcmpLt f => some (f, .fcmpLt, .float, .compare)
  | .vfcmpLe f => some (f, .fcmpLe, .float, .compare)
  | .vfcmpUn f => some (f, .fcmpUn, .float, .compare)
  | .vscanAdd f => some (f, .scanAdd, .int, .unary)
  | .vscanMax f => some (f, .scanMax, .int, .unary)
  | .vfscan f => some (f, .fscan, .float, .unary)
  | .vlrec f => some (f, .lrec, .any, .binary)
  | .vprev f => some (f, .prev, .any, .unary)
  | .vrand f => some (f, .rand, .any, .generated)
  | .vnms f => some (f, .nms, .float, .selected)
  | .vnmst f => some (f, .nmst, .float, .selected)
  | .vred f => some (f, .red, .int, .reduction)
  | .vfred f => some (f, .fred, .float, .reduction)
  | .vfredo f => some (f, .fredo, .float, .reduction)
  | _ => none

/-- The illegal states of single V-format instructions (06 R145; 08 R196, R198). -/
def vBad (i : Instr) (s : State) : Bool :=
  match i with
  | .vrand f => randBad f s
  | .vnms f => nmBad f (nmOf f.b.toNat).2 s
  | .vnmst f => nmBad f 16 s
  | _ => false

/-- The noted instructions that have no V format: the x registers they read, and what they note. -/
def otherNote (i : Instr) (s : State) : Option (List (BitVec 5) × Note) :=
  match i with
  | .vld f => some ([f.a, f.b], streamNote f .load s)
  | .vst f => some ([f.a, f.b], streamNote f .store s)
  | .vldx f => some ([f.a], indexNote f .loadx false s)
  | .vstx f => some ([f.a], indexNote f .storex false s)
  | .vamox f => some ([f.a], indexNote f .amo (amoxBad f s) s)
  | .kand f => some ([], kNote f .kand s)
  | .kor f => some ([], kNote f .kor s)
  | .kxor f => some ([], kNote f .kxor s)
  | .kandn f => some ([], kNote f .kandn s)
  | .knot f => some ([], kNote f .knot s)
  | .kshl f => some ([f.b], kShiftNote f .kshl s)
  | .kshr f => some ([f.b], kShiftNote f .kshr s)
  | .vadc f => some ([], carryNote f .adc s)
  | .vsbc f => some ([], carryNote f .sbc s)
  | .vaddk f => some ([], carryNote f .addk s)
  | .vclz f => some ([], rNote f .clz .int (rVal f) (rReads f) s)
  | .vpopcnt f => some ([], rNote f .popcnt .int (rVal f) (rReads f) s)
  | .vid f => some ([], rNote f .vid .any (fun _ => .zero) (fun _ => []) s)
  | .kset f => some ([f.rs1], ksetNote f s)
  | .ktov f => some ([], rNote f .ktov .any (rMask f) (fun s => [.msk (rMask f s)]) s)
  | _ => none

/-- What a noted instruction notes (04 Table 4.1): the x registers it reads, and its note. -/
def noteOf (i : Instr) (s : State) : Option (List (BitVec 5) × Note) :=
  match vShape i with
  | some (f, op, cls, form) => some (if form.readsB then vfX f else [], vNote f op cls form (vBad i s) s)
  | none => otherNote i s

/-- Nothing keeps a noting from joining the pricking at once: no illegal state, readable operands, no force needed, room, and a
usable last where last is an operand. -/
def Note.clear (n : Note) (s : State) : Prop :=
  n.bad = false ∧ n.reads.all s.readable = true ∧ n.forces s = false ∧ s.st.vec.pk.fits n.node.op = true ∧
    (n.last = none ∨ s.lastUsable (n.last.getD 0) = true)

/-- The state with a note's node in the pricking and its names bound; vs is dirty. -/
def State.noted (s : State) (n : Note) : State :=
  { s with st := { s.st with
      sstat := { s.st.sstat with vs := 3 }
      vec := { s.st.vec with pk := s.st.vec.pk.note (n.nodeIn s.st.vec) n.bind, answer := none, squashed := false } } }

/-- The cause of the illegal state of a noted instruction (07 R182; 05 R116). -/
def noteCause (i : Instr) : BitVec 8 :=
  match i with
  | .vld _ => 0x13
  | .vst _ => 0x14
  | .vldx _ => 0x15
  | .vstx _ => 0x16
  | .vamox _ => 0x16
  | _ => 0x12

/-- A force point before the instruction needs no pass, and leaves no fault to be taken first: what it does is to void last and
free what only last kept. -/
def State.forceFree (s : State) : Prop := s.needsPass none = false ∧ (s.sup = true ∨ s.st.held = [])

/-- The mask-to-scalar instructions: fields, x registers, and the value of x[rd] from the mask bits below vl and x[rs2] (06
R152). -/
def maskValue (i : Instr) : Option (RF × List (BitVec 5) × (Nat → Nat → Word → Word)) :=
  match i with
  | .kpopc f => some (f, [f.rd], fun bits vl _ => BitVec.ofNat 64 (((List.range vl).filter bits.testBit).length))
  | .kfirst f => some (f, [f.rd], fun bits vl _ =>
      match (List.range vl).find? bits.testBit with | some j => BitVec.ofNat 64 j | none => -1)
  | .klast f => some (f, [f.rd], fun bits vl _ =>
      match (List.range vl).reverse.find? bits.testBit with | some j => BitVec.ofNat 64 j | none => -1)
  | .kmv f => some (f, [f.rd, f.rs2], fun bits vl n => BitVec.ofNat 64 (bits / 2 ^ min n.toNat vl))
  | _ => none

/-- Element j below VL of v[rd] after a permutation (07 R180): src, old and idx are the elements of v[rs1], v[rd] and v[rs2], n is
x[rs2], and sel says which bits of k[rs2] are set. -/
def permuted (i : Instr) : Option (RF × List (BitVec 5) ×
    ((src old idx : Nat → Nat) → (n vl : Nat) → (sel : Nat → Bool) → Nat → Nat)) :=
  match i with
  | .vsldup f => some (f, [f.rs2], fun src old _ n _ _ j => if n ≤ j then src (j - n) else old j)
  | .vslddn f => some (f, [f.rs2], fun src _ _ n vl _ j => if j + n < vl then src (j + n) else 0)
  | .vperm f => some (f, [], fun src _ idx _ vl _ j => if idx j < vl then src (idx j) else 0)
  | .vcompr f => some (f, [], fun src old _ _ vl sel j =>
      match ((List.range vl).filter sel)[j]? with | some p => src p | none => old j)
  | .vexpnd f => some (f, [], fun src old _ _ _ sel j => if sel j then src ((List.range j).filter sel).length else old j)
  | .vrev f => some (f, [], fun src _ _ _ vl _ j => src (vl - 1 - j))
  | _ => none

/-- The register words that a permutation reads: those of v[rs1] below VL, and for VPERM those of v[rs2]. -/
def permWords (i : Instr) (s : State) : List (Nat × Nat) :=
  match i with
  | .vperm f => wordsOf [f.rs1.toNat, f.rs2.toNat] s.vlWords
  | .vsldup f | .vslddn f | .vcompr f | .vexpnd f | .vrev f => wordsOf [f.rs1.toNat] s.vlWords
  | _ => []

/-- The register-only instructions that must force and wait first: the instructions that return a result from vector state, and
the resident-only ones (04 R78, Table 4.2), with the x registers they read. -/
def forcesFirst (i : Instr) : Option (List (BitVec 5)) :=
  match i with
  | .voget f => some [f.rd]
  | .vspill f => some [f.rs1]
  | .vfill f => some [f.rs1]
  | .vldsg f => some [f.rs1]
  | .vstsg f => some [f.rs1]
  | .vsldup f => some [f.rs2]
  | .vslddn f => some [f.rs2]
  | .vperm _ => some []
  | .vcompr _ => some []
  | .vexpnd _ => some []
  | .vrev _ => some []
  | .frun f => some [f.rs1]
  | _ => none

/-- The spill, fill and segment instructions (07 R175, R176): fields, whether it stores, first register and number of fields. -/
def vMoveOf (i : Instr) : Option (RF × Bool × BitVec 5 × Nat) :=
  match i with
  | .vspill f => some (f, true, f.rs2, 1)
  | .vfill f => some (f, false, f.rd, 1)
  | .vldsg f => some (f, false, f.rd, f.rs2.toNat + 1)
  | .vstsg f => some (f, true, f.rd, f.rs2.toNat + 1)
  | _ => none

/-- The elements and fields of a move accepted one after another: each is aligned, lies in the space of vmt, is translated and
holds no poison when its turn comes, and the register word a store reads can be read. The state after the last. -/
def moveAll (store : Bool) (r : BitVec 5) (nf base : Nat) (is : List (Nat × Nat)) (s : State) : Option State :=
  match is with
  | [] => some s
  | (i, f) :: rest =>
    let w := s.ew
    let reg := r + BitVec.ofNat 5 f
    let a := (base + (i * nf + f) * (w / 8)) % 2 ^ 64
    if store then
      match s.st.lost reg.toNat (i * w / 64), (s.readWords [(reg.toNat, i * w / 64)]).vWrite i a (w / 8) (elemOf (s.v reg) w i) with
      | false, .val _ s' => moveAll store r nf base rest s'
      | _, _ => none
    else
      match s.vRead i a (w / 8) with
      | .val x s' => moveAll store r nf base rest (s'.loadElem reg i x)
      | _ => none

/-- Bytes of the frame that VSAVEF writes: all of it, or, while vs is off, its header (07 R177, R178). -/
def State.saveSize (s : State) : Nat := if s.st.sstat.vs = 0 then 8192 else 8192 + 75776 * s.st.br.g

/-- The strand as VSAVEF captures it: while vs is on, every register word of v0 to v31 has been read (24 R417). -/
def State.toSave (s : State) : State := if s.st.sstat.vs == 0 then s else s.readWords s.frameWords

/-- VSAVEF at x[rs1] goes on to its end: x[rs1] stands, no run is in flight, vmt is legal, the address is a multiple of 4096, every
register word that it saves can be read, no fence holds path V, no write of path V is about to be lost, and its bytes lie at the keys ks. -/
def State.saves (s : State) (f : RF) (ks : List Nat) : Prop :=
  s.waitsX [f.rs1] = false ∧ s.st.fab.run = none ∧ vmtLegal s.st.csr.vmt = true ∧ (s.x f.rs1).toNat % 4096 = 0 ∧
    (s.st.sstat.vs = 0 ∨ s.st.firstLost s.frameWords = none) ∧ s.toSave.openNow 1 = true ∧ s.trip? 7 11 = none ∧
    s.toSave.frameAt (s.x f.rs1).toNat s.saveSize .write = .val ks s.toSave

/-- The strand after the force of VRESTF, which a pricking that a squash has restored does not take (04 R78, 23 R407). -/
def State.toRestore (s : State) : State := if s.st.vec.squashed then s else force s

/-- VRESTF at x[rs1] finds a header to read at the keys of head, and n bytes of a frame at the keys ks, with nothing to wait for and no
poison. -/
def State.restores (s : State) (f : RF) (n : Nat) (head ks : List Nat) : Prop :=
  s.waitsX [f.rs1] = false ∧ s.st.fab.run = none ∧ s.st.vec.pass = none ∧ (s.st.vec.squashed = true ∨ s.forceFree) ∧
    vmtLegal s.st.csr.vmt = true ∧ (s.x f.rs1).toNat % 4096 = 0 ∧ s.toRestore.openNow 1 = true ∧ s.poison = [] ∧
    s.toRestore.frameAt (s.x f.rs1).toNat 8192 .read = .val head s.toRestore ∧
    s.toRestore.frameAt (s.x f.rs1).toNat n .read = .val ks s.toRestore

/-- What scalar results leave alone: the custom CSRs, sstat, frm, tile state, engines, fabric, held faults and vector state. -/
def State.keepsAround (s t : State) : Prop :=
  t.st.csr = s.st.csr ∧ t.st.sstat = s.st.sstat ∧ t.st.frm = s.st.frm ∧ t.st.mat = s.st.mat ∧ t.st.eng = s.st.eng ∧
    t.st.fab = s.st.fab ∧ t.st.held = s.st.held ∧ t.st.vec.v = s.st.vec.v ∧ t.st.vec.k = s.st.vec.k ∧ t.st.vec.o = s.st.vec.o ∧
    t.st.vec.vl = s.st.vec.vl ∧ t.st.vec.vtype = s.st.vec.vtype ∧ t.st.vec.vstart = s.st.vec.vstart

/-- What a store of the strand leaves alone: the same, but that the strand's paths observe the bytes it stored (11 R262). -/
def State.keepsButSeen (s t : State) : Prop := ({ s with st := { s.st with eng := { s.st.eng with unseen := t.st.eng.unseen } } } : State).keepsAround t

/-- What every CSR instruction leaves: the old value of its CSR in x[rd], and every other register, the vector registers with vl and vtype,
the engines, the fabric, the held faults and memory as they were. -/
def State.csrDone (s : State) (c : CsrF) (t : State) : Prop :=
  t.x c.rd = (if c.rd = 0 then 0 else s.csrVal c.csr) ∧ (∀ r, r ≠ c.rd → t.x r = s.x r) ∧ t.st.f = s.st.f ∧ t.st.eng = s.st.eng ∧
    t.st.fab = s.st.fab ∧ t.st.held = s.st.held ∧ t.st.vec.v = s.st.vec.v ∧ t.st.vec.k = s.st.vec.k ∧ t.st.vec.o = s.st.vec.o ∧
    t.st.vec.vl = s.st.vec.vl ∧ t.st.vec.vtype = s.st.vec.vtype ∧ (∀ a, t.mem.get a = s.mem.get a) ∧
    t.st.pc = (loopEnd s.st.pc s.st.loops).2.1

/-- The floating-point CSRs and vstart as they were. -/
def State.csrKept (s t : State) : Prop := t.st.fflags = s.st.fflags ∧ t.st.frm = s.st.frm ∧ t.st.vec.vstart = s.st.vec.vstart

/-- Every byte of memory reads as before. -/
def State.keepsMem (s t : State) : Prop := ∀ a, t.mem.get a = s.mem.get a

/-- Where an instruction at the pc that transfers no control leads (11 R278). -/
def State.nextPc (s : State) : Word := (loopEnd s.st.pc s.st.loops).2.1

/-- The scalar instructions that only write one x register, and what they write. -/
def scalarX (i : Scalar) (s : State) : Option (BitVec 5 × Word) :=
  match i with
  | .lui rd imm => some (rd, (imm ++ (0 : BitVec 12)).signExtend 64)
  | .auipc rd imm => some (rd, s.st.pc + (imm ++ (0 : BitVec 12)).signExtend 64)
  | .opImm o rd rs1 imm => some (rd, immOp o (s.x rs1) imm)
  | .shImm o rd rs1 sh => some (rd, shOp o (s.x rs1) sh)
  | .shImmW o rd rs1 sh => some (rd, shWOp o (s.x rs1) sh)
  | .opReg o rd rs1 rs2 => some (rd, regOp o (s.x rs1) (s.x rs2))
  | .unary o rd rs1 => some (rd, unOp o (s.x rs1))
  | .fclass dbl rd rs1 => some (rd, BitVec.ofNat 64 (2 ^ fClass (dFmt dbl) (s.fIn dbl rs1)))
  | .fmvToX dbl rd rs1 => some (rd, if dbl then s.f rs1 else sext32 (s.f rs1))
  | _ => none

/-- The rounding field of a floating-point instruction that has one. -/
def scalarRm (i : Scalar) : Option (BitVec 3) :=
  match i with
  | .fma _ _ rm _ _ _ _ | .farith _ _ rm _ _ _ | .fsqrt _ rm _ _ | .fcvtFF _ rm _ _ | .fcvtToInt _ _ rm _ _
  | .fcvtFromInt _ _ rm _ _ => some rm
  | _ => none

/-- The floating-point instructions that write an f register: destination, format of the result, and its pattern and flags in a
rounding mode. -/
def scalarF (i : Scalar) (s : State) (r : Nat) : Option (BitVec 5 × Bool × (Nat × FFlags)) :=
  let u := fun dbl q => unpack (dFmt dbl) (s.fIn dbl q)
  match i with
  | .fma o dbl _ rd rs1 rs2 rs3 => some (rd, dbl, fmaOp o (dFmt dbl) r (u dbl rs1) (u dbl rs2) (u dbl rs3))
  | .farith o dbl _ rd rs1 rs2 => some (rd, dbl, farOp o (dFmt dbl) r (u dbl rs1) (u dbl rs2))
  | .fsqrt dbl _ rd rs1 => some (rd, dbl, fSqrt (dFmt dbl) r (u dbl rs1))
  | .fsgn o dbl rd rs1 rs2 => some (rd, dbl, (fsgOp o (dFmt dbl) (s.fIn dbl rs1) (s.fIn dbl rs2), 0))
  | .fminmax m dbl rd rs1 rs2 => some (rd, dbl, fMinMax (dFmt dbl) m (s.fIn dbl rs1) (s.fIn dbl rs2))
  | .fcvtFF toDbl _ rd rs1 => some (rd, toDbl, packFp (dFmt toDbl) r false (u (!toDbl) rs1))
  | .fcvtFromInt k dbl _ rd rs1 => some (rd, dbl, fFromInt k (dFmt dbl) r (s.x rs1))
  | .fmvFromX dbl rd rs1 => some (rd, dbl, ((s.x rs1).toNat, 0))
  | _ => none

/-- The compares and conversions to integers: destination, value and flags. -/
def scalarXFlags (i : Scalar) (s : State) (r : Nat) : Option (BitVec 5 × Word × FFlags) :=
  match i with
  | .fcmp o dbl rd rs1 rs2 =>
    let c := fcmpOp o (dFmt dbl) (s.fIn dbl rs1) (s.fIn dbl rs2)
    some (rd, (if c.1 then 1 else 0), c.2)
  | .fcvtToInt k dbl _ rd rs1 =>
    let c := fToInt k r (unpack (dFmt dbl) (s.fIn dbl rs1))
    some (rd, c.1, c.2)
  | _ => none

/-- The access of n bytes at a may be made by a path now: no lost request and no waiting page stands before it, and its bytes
lie at the keys ks. -/
def State.reachesKeys (s : State) (a n src : Nat) (use : Use) (ks : List Nat) : Prop :=
  s.trip? src 11 = none ∧ s.pfHold s.st.fe a n src 0 = none ∧ s.locateN s.st a n s.sup use = .keys ks

/-- A scalar store of n bytes at a is made whole now, at the keys ks: it is reached, no part of it was made before (13 R325), and it would come
between the bytes of no element that a pass is yet to write (log 93). -/
def State.storesWhole (s : State) (a n : Nat) (ks : List Nat) : Prop :=
  s.reachesKeys a n 1 .write ks ∧ s.st.eng.half = none ∧ s.splitsPass ks = false

/-- A control transfer of an instruction: its target and the link register it writes, if it transfers (05 R109). -/
def scalarJump (i : Scalar) (s : State) : Option (Word × Option (BitVec 5)) :=
  match i with
  | .jal rd off => some (s.st.pc + (off ++ (0 : BitVec 1)).signExtend 64, some rd)
  | .jalr rd rs1 imm => some ((s.x rs1 + imm.signExtend 64) &&& ~~~1, some rd)
  | .branch c rs1 rs2 off =>
    if brTaken c (s.x rs1) (s.x rs2) then some (s.st.pc + (off ++ (0 : BitVec 1)).signExtend 64, none) else none
  | _ => none

/-- What the issue of a hoop or sampling instruction but MSAMP reads: x registers, the operands it captures, and whether its checks
pass (08 R207; 09 R212, R213, R227). -/
def matArgs (i : Instr) (s : State) : Option (List (BitVec 5) × Word × Word × Bool) :=
  let hoop := fun xs x1 x2 => some (xs, x1, x2, (hoopCheck s i x1 x2).isNone)
  match i with
  | .tzero _ | .hswap _ | .hmul _ | .hmulf _ | .hmov _ => hoop [] 0 0
  | .hload f | .hloads f => hoop [f.rs2] 0 (s.x f.rs2)
  | .hmulp f => hoop [f.rs1, f.rs2] (s.x f.rs1) (s.x f.rs2)
  | .hacc f => if f.rs2 = 0 then hoop [] 0 0 else hoop [f.rs1] (s.x f.rs1) 0
  | .mnrmz _ => some ([], 0, 0, true)
  | .mnorm f => some ([f.rs1, f.rs2], s.x f.rs1, s.x f.rs2, chunkOk (chunkOf (s.x f.rs2)) &&
      !misplaced (chunkOf (s.x f.rs2)).fmt (s.x f.rs1).toNat (chunkOf (s.x f.rs2)).pitch)
  | .matab f => some ([], 0, 0, s.st.mat.queue.isEmpty && (s.st.mat.nlenBad (f.rs1.toNat % 4) || s.st.mat.nlenBad (f.rs2.toNat % 4) ||
      (s.st.mat.nlen (f.rs2.toNat % 4) == s.st.mat.nlen (f.rs1.toNat % 4) && s.st.mat.nlen (f.rs1.toNat % 4) != 0)))
  | .mscale f => some ([f.rs1], s.x f.rs1, 0, true)
  | _ => none

/-- Outside a range of the tile space every byte is as it was. -/
def Mat.sameBut (m t : Mat) (lo n : Nat) : Prop := ∀ off, off < lo ∨ lo + n ≤ off → t.bytes.get off = m.bytes.get off

/-- A dot product's operands as HMUL takes them: row p of a tile, or its column p where the product is transposed (08 R191). -/
def Mat.activations (m : Mat) (tile : Nat) (h : Shape) (tr : Bool) (p : Nat) : List FV :=
  (List.range (if tr then h.rows else h.cols)).map (fun k => if tr then m.elem tile h k p else m.elem tile h p k)

/-- A load of the buffer that is the shadow one at its issue (08 R188, R190): t has its shape there and m's other buffer, and no byte of
the tiles changes; below latch index lo and from hi on what that buffer held stays, or, where the rule empties it, nothing is there. -/
def Mat.loads (m t : Mat) (serial fmt kind : Nat) (tr : Bool) (n o lo hi : Nat) (b : Latch) : Prop :=
  let was := (m.atIssue serial).shadowBuf
  b.fmt = fmt ∧ b.kind = kind ∧ b.t = tr ∧ b.n = n ∧
    (if (m.atIssue serial).active then t.latch0 = b ∧ t.latch1 = m.latch1 else t.latch1 = b ∧ t.latch0 = m.latch0) ∧
    t.active = m.active ∧ (∀ off, t.bytes.get off = m.bytes.get off) ∧
    ∀ k j, k < lo ∨ hi ≤ k → b.weight k j =
      if o ≠ 0 ∧ was.fmt ≠ 0 ∧ was.fmt = fmt ∧ was.kind = kind ∧ was.t = tr ∧ was.n = n then was.weight k j else none

/-- Rows of activations multiplied by a buffer's weights (08 R192): each word of accumulator a in one of the n rows whose column has a
present weight among the row's is the chain of its products, and every other byte stays. -/
def Mat.products (m t : Mat) (g a : Nat) (b : Latch) (n : Nat) (row : Nat → List FV) : Prop :=
  n ≤ 128 → b.n ≤ 64 * g →
    (∀ p j, p < n → j < b.n →
      let col := b.column j (row p).length
      t.get (accOff g a p j) 4 = if col.any (fun x => decide (x.1 < (row p).length)) then
        chain b col (m.get (accOff g a p j) 4) (row p) % 2 ^ 32 else m.get (accOff g a p j) 4) ∧
    (∀ off, (∀ p j, p < n → j < b.n → off < accOff g a p j ∨ accOff g a p j + 4 ≤ off) → t.bytes.get off = m.bytes.get off)

/-- What an instruction of the hoop array, MNRMZ, MNORM or MSCALE that finds no poison leaves in the engines' state t (08 R188, R192 to
R195, R199, R200; 09 R211, R212, R223). -/
def State.matLeaves (s : State) (o : MatOp) (t : Mat) : Prop :=
  let m := s.st.mat
  let g := s.st.br.g
  let acc := fun (m : Mat) (a p j : Nat) => m.get (accOff g a p j) 4
  let eachWord := fun (a : Nat) (f : Nat → Nat) =>
    (∀ p j, p < 128 → j < 64 * g → acc t a p j = f (acc m a p j) % 2 ^ 32) ∧ m.sameBut t (accOff g a 0 0) (32768 * g)
  let shape := fun n : Nat => shapeOf (o.tcfg.toList.getD n 0)
  let serial := o.serial
  match o.i with
  | .hacc f => eachWord (f.rd.toNat % 4) (fun x => if f.rs2 = 0 then 0 else
      (fMul fp32 0 (unpack fp32 x) (unpack fp32 (o.x1.toNat % 2 ^ 32))).1)
  | .mscale f => eachWord (f.rd.toNat % 4) (fun x => if o.x1 = 0 then x else
      (fDiv fp32 0 (unpack fp32 x) (fvInt (o.x1.toNat : Int) 0 false)).1)
  | .mnrmz _ => ∀ off, t.bytes.get off =
      if (0x40000 ≤ off ∧ off < 0xC0000) ∨ (0x100000 ≤ off ∧ off < 0x100008) then 0 else m.bytes.get off
  | .mnorm f =>
    let c := chunkOf o.x2
    let r := f.rd.toNat % 4
    c.row0 + c.rows ≤ 32768 → t.nlen r = max (m.nlen r) (c.row0 + c.rows) ∧
      (∀ k xs, k < c.rows → c.cols ≠ 0 →
        s.rowOf (o.look s 0) o.sup c.space c.fmt (o.x1.toNat + k * c.pitch) c.cols = .ok xs →
        t.get (nmOff r (c.row0 + k)) 4 = (packFp fp32 0 false (fvAdd 0 (unpack fp32 (m.get (nmOff r (c.row0 + k)) 4))
          (xs.foldl (fun a x => (fvAdd 0 a (fvMul x x).1).1) (.fin false 0 0))).1).1 % 2 ^ 32) ∧
      (∀ off, off < nmOff r c.row0 ∨ nmOff r (if c.cols = 0 then c.row0 else c.row0 + c.rows) ≤ off →
        off < 0x100000 + 2 * r ∨ 0x100002 + 2 * r ≤ off → t.bytes.get off = m.bytes.get off)
  | .hload f =>
    let tile := f.rs1.toNat
    let h := shape tile
    let tr := decide (f.rd = 1)
    let o := fieldOf o.x2 0 7
    let d := hoopD h.fmt
    let kt := if tr then h.cols else h.rows
    ∃ b, m.loads t serial h.fmt 0 tr (if tr then h.rows else h.cols) o (o * d) ((o + ceilDiv kt d) * d) b ∧
      (∀ k j, k < kt → j < (if tr then h.rows else h.cols) → o * d + k < 128 * d →
        b.weight (o * d + k) j = some (keepWeight h.fmt (if tr then m.elem tile h j k else m.elem tile h k j))) ∧
      (∀ k j, kt ≤ k → k < ceilDiv kt d * d → b.weight (o * d + k) j = none)
  | .hloads f =>
    let tile := f.rs1.toNat
    let h := shape tile
    let pat := fun i j => m.raw (tile + 1) (shape (tile + 1)) i j
    let tr := decide (f.rd = 1)
    let kind := fieldOf o.x2 8 2
    let o := fieldOf o.x2 0 7
    let e := 2 * hoopD h.fmt
    let nn := if kind = 0 then 2 else 4
    let at_ := fun j c => 2 * nn * (c / nn) + pat j c % (2 * nn)
    if kind < 2 then
      ∃ b, m.loads t serial h.fmt (kind + 1) tr h.rows o (o * e)
          (max ((o + ceilDiv (2 * h.cols) e) * e) (o * e + 2 * nn * ceilDiv h.cols nn)) b ∧
        (∀ j c, j < h.rows → c < h.cols → o * e + at_ j c < 128 * e → (∀ d, c < d → d < h.cols → at_ j d ≠ at_ j c) →
          b.weight (o * e + at_ j c) j = some (keepWeight h.fmt (m.elem tile h j c))) ∧
        (∀ k j, k < 2 * h.cols → (∀ c, c < h.cols → at_ j c ≠ k) → b.weight (o * e + k) j = none)
    else
      let kt := if tr then 2 * h.cols else h.rows
      ∃ b, m.loads t serial h.fmt 3 tr (if tr then h.rows else 2 * h.cols) o (o * e) ((o + ceilDiv kt e) * e) b ∧
        (∀ r c, r < h.rows → c < 2 * h.cols →
          let p := pat (r / 4) (c / 4)
          let pr := pairOf ((patterns.getD p []).getD (r % 4) 0)
          let k := if tr then c else r
          o * e + k < 128 * e → b.weight (o * e + k) (if tr then r else c) =
            if p < 90 ∧ c % 4 = pr.1 then some (keepWeight h.fmt (m.elem tile h r (2 * (c / 4))))
            else if p < 90 ∧ c % 4 = pr.2 then some (keepWeight h.fmt (m.elem tile h r (2 * (c / 4) + 1)))
            else none)
  | .hmul f =>
    let tr := f.rd.getLsbD 2
    let h := shape f.rs1.toNat
    m.products t g (f.rd.toNat % 4) (m.atIssue serial).activeBuf (if tr then h.cols else h.rows) (m.activations f.rs1.toNat h tr)
  | .hmulp f =>
    let c := pshapeOf o.x2
    ∃ row : Nat → List FV,
      (∀ p, p < c.p → c.k ≠ 0 → s.memRow (o.look s 0) o.sup o.x1.toNat c (f.rd.getLsbD 2) p = .ok (row p)) ∧
      m.products t g (f.rd.toNat % 4) (m.atIssue serial).activeBuf (if c.k = 0 then 0 else c.p) row
  | .hmulf f =>
    let a := f.rd.toNat % 4
    let ha := shape f.rs1.toNat
    let hb := shape f.rs2.toNat
    ha.rows ≤ 128 → hb.cols ≤ 32 * g →
      (∀ p q, p < ha.rows → q < hb.cols → t.get (accOff g a p (2 * q)) 8 =
        sliceDot (vtSl o.vtype + 1) (o.smode.getLsbD 1) (vtRm o.vtype) (m.activations f.rs1.toNat ha false p)
          (m.activations f.rs2.toNat hb true q) % 2 ^ 64) ∧
      (∀ off, (∀ p q, p < ha.rows → q < hb.cols → off < accOff g a p (2 * q) ∨ accOff g a p (2 * q) + 8 ≤ off) →
        t.bytes.get off = m.bytes.get off)
  | .hmov f =>
    let tile := f.rd.toNat
    let h := shape tile
    let a := f.rs1.toNat % 4
    let rm := if vtVill o.vtype then 0 else vtRm o.vtype
    let sat := !vtVill o.vtype && vtSat o.vtype
    tile < 8 → tcfgLegal (o.tcfg.toList.getD tile 0) = true →
      (∀ p j, p < h.rows → j < h.cols → mfIsPb h.fmt = false → t.raw tile h p j =
        (if h.fmt = 8 then m.get (accOff g a p (2 * j)) 8
          else if h.fmt = 3 then acc m a p j
          else (cvt (acc m a p j) (if movInt h.fmt then 3 else 7) h.fmt rm sat).1) % 256 ^ mfSize h.fmt) ∧
      (∀ p b, p < h.rows → b < h.cols / 16 → mfIsPb h.fmt = true → t.raw tile h p (16 * b) =
        (pbEncode rm (pbK h.fmt) ((List.range 16).map (fun j => etValue 7 (acc m a p (16 * b + j))))).1 % 256 ^ pbBytes h.fmt) ∧
      m.sameBut t (tileOff tile) 32768
  | _ => True

/-- What MATAB, and an MSAMP that returns count, leave in the engines' state t where they find no poison (09 R213 to R222). MATAB: the
masses of the weights, whole units of 2^−16 with the remainders to the largest fractions, and the words of Vose's table. MSAMP: the samples
that it drew, their probe statistics, and their groups of four added in order. -/
def State.drawLeaves (s : State) (o : MatOp) (t : Mat) (count : Nat) : Prop :=
  let m := s.st.mat
  let g := s.st.br.g
  match o.i with
  | .matab f =>
    let k := m.nlen (f.rs1.toNat % 4)
    let root := fun j : Nat => massRoot (m.get (nmOff (f.rs1.toNat % 4) j) 4) (m.get (nmOff (f.rs2.toNat % 4) j) 4)
    let w := fun j : Nat => fp64Units (root j)
    let total := ((List.range k).map w).sum
    let q := masses ((List.range k).map w)
    let rem := fun j : Nat => k * 2 ^ 16 * w j % total
    let up := fun j : Nat => q.getD j 0 = k * 2 ^ 16 * w j / total + 1
    let ix := List.range k
    let table := vose (2 * k) (ix.filter (fun j => decide (q.getD j 0 < 2 ^ 16))) (ix.filter (fun j => decide (2 ^ 16 ≤ q.getD j 0))) q []
    1 ≤ k → k ≤ 32768 → (∀ j, j < k → (unpack fp64 (root j)).isFin = true) ∧ t.tk = k ∧ q.length = k ∧ q.sum = k * 2 ^ 16 ∧
      (total = 0 → ∀ j, j < k → q.getD j 0 = 2 ^ 16) ∧
      (total ≠ 0 → (∀ j, j < k → q.getD j 0 = k * 2 ^ 16 * w j / total ∨ up j) ∧
        (∀ i j, i < k → j < k → up j → rem j < rem i ∨ (rem i = rem j ∧ i < j) → up i)) ∧
      (∀ e ∈ table, t.get (tabOff e.1) 8 = (if q.getD e.1 0 = 0 then 0 else
        (fDiv fp32 0 (fvInt (k * 2 ^ 16 : Nat) 0 false) (fvInt (q.getD e.1 0) 0 false)).1) * 2 ^ 32 + e.2.2 * 2 ^ 16 + e.2.1) ∧
      (∀ j, j < k → ∃ e ∈ table, e.1 = j) ∧ (∀ j, k ≤ j → j < 32768 → t.get (tabOff j) 8 = 0) ∧
      (∀ off, (off < 0xC0000 ∨ 0x100000 ≤ off) → (off < 0x100008 ∨ 0x100010 ≤ off) → t.bytes.get off = m.bytes.get off)
  | .msamp _ =>
    let a := fieldOf o.x2 0 2
    let d := descOf o.desc
    d.m ≤ 128 → d.n ≤ 64 * g → ∃ ds : List Draw, ds.length = count ∧ count ≤ o.x1.toNat ∧ t.scount = BitVec.ofNat 64 count ∧
      (∀ n x, ds[n]? = some x →
        let u := drawWords o.skey o.sbase n
        let j := u.1 * m.tk / 2 ^ 32
        let e := m.get (tabOff j) 8
        let jj := if u.2.1 % 2 ^ 16 < e % 2 ^ 16 then j else e / 2 ^ 16 % 2 ^ 16
        jj < m.tk ∧ x.w = unpack fp32 (m.get (tabOff jj) 8 / 2 ^ 32) ∧
          s.rowOf (o.look s n) o.sup d.space d.afmt (d.abase + jj * d.apitch) d.m = .ok x.a ∧
          s.rowOf (o.look s n) o.sup d.space d.bfmt (d.bbase + jj * d.bpitch) d.n = .ok x.b) ∧
      (let st : Stats := ds.foldl (fun (t : Stats) x => t.step (packFp fp64 0 false (fvMul (fvMul x.w (unpack fp64 (probeSum o.skey 1 x.a))).1
          (unpack fp64 (probeSum o.skey 2 x.b))).1).1) { count := 0, mean := 0, var := 0 }
       t.smean = BitVec.ofNat 64 st.mean ∧ t.svar = BitVec.ofNat 64 st.var ∧
         (count < o.x1.toNat → st.stops o.smin o.stau (o.smode.getLsbD 0) = true)) ∧
      (∀ p q, p < d.m → q < d.n → t.get (accOff g a p q) 4 =
        (List.range (ceilDiv count 4)).foldl (fun w i => (packFp fp32 0 false (((ds.drop (4 * i)).take 4).foldl (fun z x =>
          (fvAdd 0 z (fvMul (fvMul x.w (x.a.getD p (.fin false 0 0))).1 (x.b.getD q (.fin false 0 0))).1).1)
          (unpack fp32 w))).1 % 2 ^ 32) (m.get (accOff g a p q) 4)) ∧
      (∀ off, (∀ p q, p < d.m → q < d.n → off < accOff g a p q ∨ accOff g a p q + 4 ≤ off) → t.bytes.get off = m.bytes.get off)
  | _ => True

/-- The sampling instructions. -/
def isSampling (i : Instr) : Bool :=
  match i with
  | .mnrmz _ | .mnorm _ | .matab _ | .mscale _ | .msamp _ => true
  | _ => false

/-- The tile moves (08 R185): tile, whether of a column, whether into the tile, the x register of the index, and the v register. -/
def tileMoveOf (i : Instr) : Option (Nat × Bool × Bool × BitVec 5 × BitVec 5) :=
  match i with
  | .vtroww f => some (f.rd.toNat, false, true, f.rs2, f.rs1)
  | .vtrowr f => some (f.rs1.toNat, false, false, f.rs2, f.rd)
  | .vtcolw f => some (f.rd.toNat, true, true, f.rs2, f.rs1)
  | .vtcolr f => some (f.rs1.toNat, true, false, f.rs2, f.rd)
  | _ => none

/-- The copy instructions that issue one copy: registers they read, the command, its replicas, and whether their checks pass (11
R253, R291; 05 R126). -/
def copyOf (i : Instr) (s : State) : Option (List (BitVec 5) × CopyCmd × Option (List Nat) × Bool) :=
  match i with
  | .cpy f =>
    let c := s.command f.rs1
    some (quad f.rs1, c, none, !s.tileFirst c && (copyBad s.st.br.g c).isNone)
  | .cpym f =>
    let c := s.command f.rs1
    some (f.rs2 :: quad f.rs1, c, some (replicas (s.x f.rs2)), !s.tileFirst c && (s.multicastBad c (s.x f.rs2)).isNone)
  | .cpyf f =>
    let c := s.command f.rs1
    match followOn (s.x f.rs2) with
    | some fo =>
      let r := followRegs fo
      some (r.1.toList ++ r.2.toList ++ f.rs2 :: quad f.rs1, c, none, !s.tileFirst c && (hoopFirst s fo).isNone &&
        (copyBad s.st.br.g c).isNone && (hoopCheck s fo (s.xOr r.1) (s.xOr r.2)).isNone)
    | none => none
  | _ => none

/-- The commands below q that a batch of copies issues, in order (11 R259): those that k0 selects, that meet R251, R252, R255 and R253,
and whose tag has no copy in flight, those of earlier commands of the batch included. -/
def State.batchIssued (s : State) (f : RF) (q : Nat) : List Nat :=
  match q with
  | 0 => []
  | q + 1 =>
    let cmd := batchCmd (s.v f.rs1)
    let c := cmd q
    let before := s.batchIssued f q
    let busy := s.st.eng.tagBusy c.tag || before.any (fun p => !(cmd p).isEmpty && (cmd p).tag == c.tag)
    if (s.st.vec.k[0]).getLsbD (4 * q) && !s.tileFirst c && (copyBad s.st.br.g c).isNone && !busy then before ++ [q] else before

/-- Nothing of the strand's engines is under way. -/
def State.idle (s : State) : Prop :=
  s.st.vec.pass = none ∧ s.st.fab.run = none ∧ s.st.eng.copies = [] ∧ s.st.mat.queue = [] ∧ s.st.eng.ramos = [] ∧ s.st.eng.pkts = []

/-- The bobbin words of class data whose result is an integer function of A and B (10 Table 10.4). -/
def bobbinValue (i : Instr) : Option (BW × (Nat → Nat → Nat)) :=
  match i with
  | .bAdd f => some (f, fun a b => (a + b) % 2 ^ 64)
  | .bSub f => some (f, fun a b => (a + 2 ^ 64 - b) % 2 ^ 64)
  | .bMul f => some (f, fun a b => a * b % 2 ^ 64)
  | .bAnd f => some (f, fun a b => a &&& b)
  | .bOr f => some (f, fun a b => a ||| b)
  | .bXor f => some (f, fun a b => a ^^^ b)
  | .bSll f => some (f, fun a b => a * 2 ^ (b % 64) % 2 ^ 64)
  | .bSrl f => some (f, fun a b => a / 2 ^ (b % 64))
  | .bSra f => some (f, fun a b => ((sgn 64 a / 2 ^ (b % 64)) % 2 ^ 64).toNat)
  | .bMin f => some (f, fun a b => if sgn 64 a ≤ sgn 64 b then a else b)
  | .bMax f => some (f, fun a b => if sgn 64 a ≤ sgn 64 b then b else a)
  | .bMinu f => some (f, fun a b => min a b)
  | .bMaxu f => some (f, fun a b => max a b)
  | .bMov f => some (f, fun a _ => a)
  | .bCeq f => some (f, fun a b => if a = b then 1 else 0)
  | .bClt f => some (f, fun a b => if sgn 64 a < sgn 64 b then 1 else 0)
  | .bCltu f => some (f, fun a b => if a < b then 1 else 0)
  | _ => none

/-- The other bobbin words with their fields, and the b registers they read beside A and B. -/
def bobbinOther (i : Instr) : Option (BW × List Nat) :=
  match i with
  | .bFma f => some (f, [f.dst.toNat])
  | .bSel f => some (f, [f.imm.toNat % 8])
  | .bFadd f | .bFsub f | .bFmul f | .bFmin f | .bFmax f | .bFeq f | .bFlt f | .bFle f | .bJ f | .bBnz f | .bBz f | .bRet f
  | .bHalt f | .bCtx f | .bTfwd f | .bTget f => some (f, [])
  | _ => none

/-- Where a control word leads its bobbin, from pc, ret and the value of A: the next word's index (10 R239, R240). -/
def bobbinPc (i : Instr) (a pc ret : Nat) : Nat :=
  match i with
  | .bJ f | .bCtx f => f.imm.toNat % 32
  | .bBnz f => if a ≠ 0 then f.imm.toNat % 32 else (pc + 1) % 32
  | .bBz f => if a = 0 then f.imm.toNat % 32 else (pc + 1) % 32
  | .bRet _ => ret
  | _ => (pc + 1) % 32

/-- Bobbin n of a run, whose turn it is, can execute a word now (10 R235, R242, R244): it is not held back, the registers it reads
stand, its entries are present and none is a token, and its destination has room. -/
def State.bobbinFree (s : State) (r : Run) (b : Bobbin) (f : BW) (extra : List Nat) : Prop :=
  s.st.fab.run = some r ∧ r.bobbins[r.turn]? = some b ∧ b.halted = false ∧ r.heldBack s.st.fab r.turn = false ∧
    r.ready r.turn (regsOf f ++ extra) = true ∧ (takesOf f).all (fun t => (b.entry t.1 t.2 r.cycle).isSome) = true ∧
    r.room r.start r.turn f.dst = true ∧ r.tokenIn b f = none

end Sys2Proof.Machine
end

