-- ==== Sys2Proof/Certificates/Slice0/Obligations.lean ====
section
/-! DEFINITION. Certificates/Slice0/Obligations.lean: the statements for the provers, family by family. -/

open Sys2Proof Sys2Proof.Machine

/-- Every noted vector instruction, where nothing keeps it from noting (vs on, vill 0, no pass or run in flight and nothing
queued behind one, x operands settled, no illegal state, readable operands, no force needed, room, a usable last), adds its
node to the pricking, rebinds its names, makes vs dirty, and completes; nothing else of the machine changes. (R77, R79, R80,
R54.) -/
def Obligations.NotedInstructionsComplete : Prop :=
  ∀ (s : State) (i : Instr) (xs : List (BitVec 5)) (n : Note), noteOf i s = some (xs, n) → s.vecReady xs →
    vtVill s.st.vec.vtype = false → n.clear s → exec i s = .next (s.noted n).completed

/-- A noted instruction that no engine holds back leaves every x and f register, every resident v and k register, every o
register and every byte of memory as it was, whatever it comes to: noted, trapped, or forcing the pricking first. (R77,
04_deferred.md: Noting.) -/
def Obligations.NotingChangesNoElement : Prop :=
  ∀ (s t : State) (i : Instr) (xs : List (BitVec 5)) (n : Note), noteOf i s = some (xs, n) → s.vecReady xs →
    exec i s = .next t →
      (∀ r, t.x r = s.x r) ∧ (∀ r, t.f r = s.f r) ∧ t.st.vec.v = s.st.vec.v ∧ t.st.vec.k = s.st.vec.k ∧
      t.st.vec.o = s.st.vec.o ∧ (∀ a, t.mem.get a = s.mem.get a)

/-- A noted instruction takes 0xD2 while vs is off. With vs on and vill = 1 it takes 0x13 for VLD, 0x14 for VST, 0x15 for VLDX,
0x16 for VSTX and VAMOX, and 0x12 otherwise. In an illegal state of its own it takes the same cause, and 0x12 where an
operand may not be read as it would read it. That its own illegal state comes before an unreadable operand, an order that
R125 step 4 leaves open, is the model's choice (log 84). (R38, R54, R116, R182, R91.) -/
def Obligations.NotedInstructionsTrap : Prop :=
  ∀ (s : State) (i : Instr) (xs : List (BitVec 5)) (n : Note), noteOf i s = some (xs, n) → s.waitsX xs = false →
    (s.st.sstat.vs = 0 → exec i s = trapI s 0xD2 i) ∧
    (s.st.sstat.vs ≠ 0 → vtVill s.st.vec.vtype = true → exec i s = trapI s (noteCause i) i) ∧
    (s.vecReady xs → vtVill s.st.vec.vtype = false →
      (n.bad = true → exec i s = trapI s (noteCause i) i) ∧
      (n.bad = false → n.reads.all s.readable = false → exec i s = trapI s 0x12 i))

/-- Operand B of a V-format word is v[b] for bk = 00, x[b] for bk = 01, o[b2:0] for bk = 10, and for bk = 11 the sign-extended
imm5: converted exactly to et under a floating-point operation, else as an integer. VCVT, whose b names the source type,
gives a non-zero value that et holds exactly as that value with no flag; a NaN as the canonical NaN, or as 0 with NV in an
integer type; an infinity as that infinity, or as the nearer end of an integer type with NV, and so a finite value beyond
it; an integer as its low bits, or clamped under sat, in an integer type. VRAND, whose b names the kind, draws element i
from the generator at counter vctr + i: the low bits of its words, the number of its leading bits over their power of two,
or the sign of its lowest bit, with no flag; where the exact normal is zero it is +0. How an inexact result rounds is not
stated here. (R115, R63, R140, R145.) -/
def Obligations.OperandBForms : Prop :=
  (∀ (s : State) (float : Bool) (f : VF),
    (f.bk = 0 → opB s float f = vSrc s.st.vec.pk f.b) ∧
    (f.bk = 1 → opB s float f = .scalar (s.x f.b)) ∧
    (f.bk = 2 → opB s float f = .scalar (s.st.vec.o[f.b.toNat % 8]'(Nat.mod_lt _ (by decide)))) ∧
    (f.bk = 3 → float = false → opB s float f = .scalar (f.b.signExtend 64)) ∧
    (f.bk = 3 → float = true → opB s float f =
      .scalar (BitVec.ofNat 64 (packFp (ffOf (vtEt s.st.vec.vtype)) 0 false (fvInt f.b.toInt 0 false)).1))) ∧
  (∀ (n : Node) (g : Reads) (tick i : Nat), n.op = .cvt → 1 ≤ n.sel → n.sel ≤ 8 → 1 ≤ vtEt n.vtype → vtEt n.vtype ≤ 8 →
    let x := g n.a (etWidth n.sel) i
    let w := n.w
    let f := ffOf (vtEt n.vtype)
    let r := pointElem n g tick i
    let fl := etFloat (vtEt n.vtype)
    let val := fun ty p : Nat => if etFloat ty then
        (match unpack (ffOf ty) p with
         | .fin neg m e => some ((if neg then -1 else 1 : Int) * m * 2 ^ (e + 2200).toNat)
         | _ => none)
      else some (sgn (etWidth ty) p * 2 ^ 2200)
    let top : Int := 2 ^ (w - 1)
    x < 2 ^ etWidth n.sel →
      (∀ c v, c < 2 ^ w → val n.sel x = some v → val (vtEt n.vtype) c = some v → v ≠ 0 → r = (c, 0, 0)) ∧
      (etFloat n.sel = true → (unpack (ffOf n.sel) x).isNan = true →
        r = (if fl then f.nan else 0, 0, if !fl || (unpack (ffOf n.sel) x).isSig then fNV else 0)) ∧
      (∀ neg, etFloat n.sel = true → unpack (ffOf n.sel) x = .inf neg →
        (fl = true → r = (f.inf neg, 0, 0)) ∧ (fl = false → sgn w r.1 = (if neg then -top else top - 1) ∧ r.2.2 = fNV)) ∧
      (∀ v, etFloat n.sel = true → fl = false → val n.sel x = some v →
        (top * 2 ^ 2200 ≤ v → sgn w r.1 = top - 1 ∧ r.2.2 = fNV) ∧ (v ≤ (-top - 1) * 2 ^ 2200 → sgn w r.1 = -top ∧ r.2.2 = fNV)) ∧
      (etFloat n.sel = false → fl = false → r.2.2 = 0 ∧
        (vtSat n.vtype = false → (r.1 : Int) = sgn (etWidth n.sel) x % 2 ^ w) ∧
        (vtSat n.vtype = true → sgn w r.1 = max (-top) (min (top - 1) (sgn (etWidth n.sel) x))))) ∧
  (∀ (n : Node) (g : Reads) (tick i : Nat), n.op = .rand →
    let et := vtEt n.vtype
    let f := ffOf et
    let at_ := (n.seed2.toNat + i) % 2 ^ 64
    let u := philox (at_ % 2 ^ 32, at_ / 2 ^ 32, 0, 0) (n.seed.toNat % 2 ^ 32) (n.seed.toNat / 2 ^ 32)
    let q := u.2.1 * 2 ^ 32 + u.1
    let r := pointElem n g tick i
    let wide := et = 8
    (n.sel = 0 → r = (q % 2 ^ n.w, 0, 0)) ∧
    (n.sel = 1 → 5 ≤ et → et ≤ 8 →
      let k := if wide then q / 2 ^ 11 else if et = 7 then u.1 / 2 ^ 8 else if et = 6 then u.1 / 2 ^ 21 else u.1 / 2 ^ 24
      let bits := if wide then 53 else if et = 7 then 24 else if et = 6 then 11 else 8
      r.2.2 = 0 ∧ ∃ m e, unpack f r.1 = .fin false m e ∧ m * 2 ^ (e + 2200).toNat = k * 2 ^ (2200 - bits)) ∧
    (n.sel = 2 → 1 ≤ et → et ≤ 8 → r.2.2 = 0 ∧
      (etFloat et = false → sgn n.w r.1 = if u.1 % 2 = 1 then -1 else 1) ∧
      (etFloat et = true → ∃ m e, unpack f r.1 = .fin (u.1 % 2 == 1) m e ∧ m * 2 ^ (e + 2200).toNat = 2 ^ 2200)) ∧
    (n.sel = 3 → 5 ≤ et → et ≤ 8 →
      let bits := if wide then 53 else 24
      let one := if wide then q / 2 ^ 11 + 1 else u.1 / 2 ^ 8 + 1
      let turn := if wide then (u.2.2.2 * 2 ^ 32 + u.2.2.1) / 2 ^ 11 else u.2.1 / 2 ^ 8
      one = 2 ^ bits ∨ 4 * turn = 2 ^ bits ∨ 4 * turn = 3 * 2 ^ bits → r = (0, 0, 0)))

/-- KAND, KOR, KXOR, KANDN and KNOT compute, for every element i, a[i] and b[i], a[i] or b[i], a[i] xor b[i], a[i] and not b[i],
and not a[i]. KSHL and KSHR give the bit n elements below or above, and 0 where that lies outside 0 to VL − 1; KSET gives
bit i mod 64 of its x register; KTOV gives one or zero in et. VADC, VSBC and VADDK give the sum or difference with the carry
mask modulo 2^w, and their carry or borrow. VCLZ counts leading zeros and VPOPCNT set bits; VID gives i modulo 2^w, or i
where a floating-point et holds it exactly. VNMS keeps in each group of M the N elements of largest magnitude, the lower
position first among equals, with their positions; VNMST keeps in each block what its best pattern names, the lowest among
equals, with its number; kept NaNs are canonical, and the elements beyond take their under elements. (R147.) -/
def Obligations.MaskLogicElements : Prop :=
  (∀ (n : Node) (g : Reads) (tick i : Nat) (a b : Bool), g n.a 1 i = a.toNat → g n.b 1 i = b.toNat →
    (n.op = .kand → (pointElem n g tick i).1 = (a && b).toNat) ∧
    (n.op = .kor → (pointElem n g tick i).1 = (a || b).toNat) ∧
    (n.op = .kxor → (pointElem n g tick i).1 = (a ^^ b).toNat) ∧
    (n.op = .kandn → (pointElem n g tick i).1 = (a && !b).toNat) ∧
    (n.op = .knot → (pointElem n g tick i).1 = (!a).toNat)) ∧
  (∀ (n : Node) (g : Reads) (tick i : Nat),
    let w := n.w
    let et := vtEt n.vtype
    let f := ffOf et
    let a := g n.a w i
    let b := g n.b w i
    let c := g n.c 1 i
    let k := n.seed.toNat
    let r := pointElem n g tick i
    (n.op = .kshl → r.1 = if k ≤ i ∧ g n.a 1 (i - k) = 1 then 1 else 0) ∧
    (n.op = .kshr → r.1 = if i + k < n.vl ∧ g n.a 1 (i + k) = 1 then 1 else 0) ∧
    (n.op = .kset → r.1 = (n.seed.getLsbD (i % 64)).toNat) ∧
    (n.op = .ktov → r.2.2 = 0 ∧ (g n.a 1 i ≠ 1 → r.1 = 0) ∧ (g n.a 1 i = 1 → r.1 = if et = 5 then 0x3F80 else if et = 6 then 0x3C00
      else if et = 7 then 0x3F800000 else if et = 8 then 0x3FF0000000000000 else 1)) ∧
    (a < 2 ^ w → b < 2 ^ w → c ≤ 1 →
      (n.op = .adc → r.1 = (a + b + c) % 2 ^ w ∧ r.2.1 = if 2 ^ w ≤ a + b + c then 1 else 0) ∧
      (n.op = .sbc → (r.1 : Int) = ((a : Int) - b - c) % 2 ^ w ∧ r.2.1 = if a < b + c then 1 else 0) ∧
      (n.op = .addk → r.1 = (a + c) % 2 ^ w ∧ r.2.1 = if 2 ^ w ≤ a + c then 1 else 0)) ∧
    (n.op = .clz → a < 2 ^ w → (a = 0 → r.1 = w) ∧ (a ≠ 0 → 2 ^ w ≤ 2 * (a * 2 ^ r.1) ∧ a * 2 ^ r.1 < 2 ^ w)) ∧
    (n.op = .popcnt → r.1 = ((List.range w).filter a.testBit).length) ∧
    (n.op = .vid → (etFloat et = false → r = (i % 2 ^ w, 0, 0)) ∧ (etFloat et = true → i = 0 → r = (0, 0, 0)) ∧
      (etFloat et = true → ∀ c m e, i ≠ 0 → c < 2 ^ f.width → unpack f c = .fin false m e → m * 2 ^ (e + 2200).toNat = i * 2 ^ 2200 →
        r = (c, 0, 0)))) ∧
  (∀ (n : Node) (g : Reads) (tick : Nat),
    let w := n.w
    let f := ffOf (vtEt n.vtype)
    let x := fun i => g n.a w i
    let keep := fun y => if (unpack f y).isNan then f.nan else y
    let number := fun m : Nat => (packFp f 0 false (fvInt m 0 false)).1
    let r := evalNode n g tick
    (n.op = .nms →
      let k := (nmOf n.sel).1
      let m := (nmOf n.sel).2
      n.vl % m = 0 →
        (∀ q, q < n.vl / m → ∃ pos : Nat → Nat, (∀ t, t < k → pos t < m) ∧ (∀ t u, t < u → u < k → pos t < pos u) ∧
          (∀ t j, t < k → j < m → (∀ u, u < k → pos u ≠ j) →
            let rank := fun j => magRank f (x (q * m + j))
            rank j < rank (pos t) ∨ (rank j = rank (pos t) ∧ pos t < j)) ∧
          (∀ t, t < k → r.p0[q * k + t]? = some (keep (x (q * m + pos t))) ∧ r.p1[q * k + t]? = some (number (pos t)))) ∧
        (∀ j, n.vl / m * k ≤ j → j < n.vl → r.p0[j]? = some (g n.under w j) ∧ r.p1[j]? = some (g n.under2 w j))) ∧
    (n.op = .nmst → n.vl % 16 = 0 →
      let c := n.vl / 4
      (∀ b, b < c / 4 →
        let blk := fun r j => x (r * c + 4 * b + j)
        let score := fun p => keepScore f (blockKept blk (patterns.getD p []))
        ∃ p, p < 90 ∧ (∀ q, q < 90 → scoreLt (score p) (score q) = false) ∧ (∀ q, q < p → scoreLt (score q) (score p) = true) ∧
          r.p1[b]? = some (number p) ∧ ∀ t, t < 4 →
            let pr := pairOf ((patterns.getD p []).getD t 0)
            r.p0[t * (c / 2) + 2 * b]? = some (keep (blk t pr.1)) ∧ r.p0[t * (c / 2) + 2 * b + 1]? = some (keep (blk t pr.2))) ∧
      (∀ j, j < n.vl → (n.vl / 2 ≤ j → r.p0[j]? = some (g n.under w j)) ∧ (n.vl / 16 ≤ j → r.p1[j]? = some (g n.under2 w j)))))

/-- Each memory format has its element size of 1, 2, 4 or 8 bytes or, for PB3, PB5 and PB8, its whole blocks of 8, 12 or 18
bytes; mf 0 stands for the format equal to vtype.et as captured at noting. (R158.) -/
def Obligations.MemoryFormatSizes : Prop :=
  (∀ n : Node, n.mf = 0 → n.fmt = vtEt n.vtype) ∧ (∀ n : Node, n.mf ≠ 0 → n.fmt = n.mf) ∧
    (∀ mf ∈ [1, 12], mfSize mf = 1 ∧ mfIsPb mf = false) ∧ (∀ mf ∈ [2, 5, 6, 13], mfSize mf = 2 ∧ mfIsPb mf = false) ∧
    (∀ mf ∈ [3, 7, 14], mfSize mf = 4 ∧ mfIsPb mf = false) ∧ (∀ mf ∈ [4, 8], mfSize mf = 8 ∧ mfIsPb mf = false) ∧
    (∀ n : Node, n.fmt = 9 → mfIsPb n.fmt = true ∧ n.size = 8) ∧ (∀ n : Node, n.fmt = 10 → mfIsPb n.fmt = true ∧ n.size = 12) ∧
    (∀ n : Node, n.fmt = 11 → mfIsPb n.fmt = true ∧ n.size = 18) ∧
    (∀ n : Node, mfIsPb n.fmt = false → n.size = mfSize n.fmt)

/-- On w-bit patterns a and b, the sum, difference, reverse difference and product wrap modulo 2^w; the high halves are those of
the exact products; division by zero gives all ones and its remainder the dividend, the one signed overflow gives the
dividend and remainder zero, and any other quotient is truncated toward zero with the remainder that takes the sign of the
dividend; the minima and maxima compare as signed or unsigned numbers; the four saturating forms clamp the exact result to
their bounds; AND, OR and XOR are bitwise; shifts use b mod w; a move gives b. (R56, R57, R134.) -/
def Obligations.IntegerElements : Prop :=
  ∀ (w a b : Nat), w ∈ [8, 16, 32, 64] → a < 2 ^ w → b < 2 ^ w →
    ((intElem .add w a b : Int) = ((a : Int) + b) % 2 ^ w) ∧ ((intElem .sub w a b : Int) = ((a : Int) - b) % 2 ^ w) ∧
    ((intElem .rsub w a b : Int) = ((b : Int) - a) % 2 ^ w) ∧ ((intElem .mul w a b : Int) = ((a : Int) * b) % 2 ^ w) ∧
    ((intElem .mulh w a b : Int) = (sgn w a * sgn w b / 2 ^ w) % 2 ^ w) ∧ ((intElem .mulhu w a b : Int) = (a : Int) * b / 2 ^ w) ∧
    intElem .div w a 0 = 2 ^ w - 1 ∧ intElem .divu w a 0 = 2 ^ w - 1 ∧ intElem .rem w a 0 = a ∧ intElem .remu w a 0 = a ∧
    intElem .div w (2 ^ (w - 1)) (2 ^ w - 1) = 2 ^ (w - 1) ∧ intElem .rem w (2 ^ (w - 1)) (2 ^ w - 1) = 0 ∧
    (b ≠ 0 → intElem .divu w a b = a / b ∧ intElem .remu w a b = a % b) ∧
    (b ≠ 0 → ¬ (a = 2 ^ (w - 1) ∧ b = 2 ^ w - 1) →
      sgn w (intElem .div w a b) = (sgn w a).tdiv (sgn w b) ∧ sgn w (intElem .rem w a b) = (sgn w a).tmod (sgn w b)) ∧
    sgn w (intElem .min w a b) = min (sgn w a) (sgn w b) ∧ sgn w (intElem .max w a b) = max (sgn w a) (sgn w b) ∧
    intElem .minu w a b = min a b ∧ intElem .maxu w a b = max a b ∧
    (∀ j, (intElem .and w a b).testBit j = (a.testBit j && b.testBit j)) ∧
    (∀ j, (intElem .or w a b).testBit j = (a.testBit j || b.testBit j)) ∧
    (∀ j, (intElem .xor w a b).testBit j = (a.testBit j != b.testBit j)) ∧ intElem .mv w a b = b ∧
    sgn w (intElem .adds w a b) = max (-(2 ^ (w - 1))) (min (2 ^ (w - 1) - 1) (sgn w a + sgn w b)) ∧
    sgn w (intElem .subs w a b) = max (-(2 ^ (w - 1))) (min (2 ^ (w - 1) - 1) (sgn w a - sgn w b)) ∧
    ((intElem .subsu w a b : Int) = max 0 ((a : Int) - b)) ∧ ((intElem .addsu w a b : Int) = min (2 ^ w - 1) ((a : Int) + b)) ∧
    intElem .sll w a b = a * 2 ^ (b % w) % 2 ^ w ∧ intElem .srl w a b = a / 2 ^ (b % w) ∧
    sgn w (intElem .sra w a b) = sgn w a / 2 ^ (b % w)

/-- Where a node that VMERGE does not note computes element by element, an element below VL whose k0 bit is 0 takes the element
of the under operand, in both results of the node; every other element below VL takes elem. A node all of whose elements are
masked off raises no flag. An integer compare gives 1 exactly when its condition holds; of two floating-point values that
are no NaN exactly one of below, equal and above holds, and a NaN is unordered. A floating-point sum, difference, product,
quotient, square root or fused product whose exact value the format holds is that value with no flag (values are written in
units of 2^−2200, below every exponent of the formats), and one with a NaN among its operands is the canonical NaN. VFMIN
and VFMAX take the lesser and the greater, −0 below +0, the other operand of one NaN, and the canonical NaN of two; VFSGNJ
puts the sign of B on A; VFCLASS sets the bit of the class. VFEXP2 of an integer and VFLOG2 of a power of two are exact
where the format holds them, and their special inputs give the results of R64. A scan carries one value through the active
elements in ascending order. A reduction of integers combines the present elements and the seed, VFREDO in strict order and
VFRED (sum, least, greatest and sum of squares) in the canonical tree with the seed last, and with none present gives
nothing. (R129, R105, R136, R141, R137, R59, R142, R68, R69, R170, R172.) -/
def Obligations.MaskedElementsKeepUnder : Prop :=
  ∀ (n : Node) (g : Reads) (tick : Nat),
    (n.op ≠ .merge → (∀ o ∈ [NOp.scanAdd, .scanMax, .fscan, .lrec, .prev, .nms, .nmst], n.op ≠ o) →
      (evalNode n g tick).p0.length = n.vl ∧
      (∀ i, i < n.vl → n.off g i = true →
        (evalNode n g tick).p0[i]? = some (g n.under n.w i) ∧ (evalNode n g tick).p1[i]? = some (g n.under2 n.w i)) ∧
      (∀ i, i < n.vl → n.off g i = false →
        (evalNode n g tick).p0[i]? = some (pointElem n g tick i).1 ∧ (evalNode n g tick).p1[i]? = some (pointElem n g tick i).2.1) ∧
      ((∀ i, i < n.vl → n.off g i = true) → ∀ f ∈ (evalNode n g tick).fls, f = 0)) ∧
    (let f := ffOf (vtEt n.vtype)
     let rm := vtRm n.vtype
     let w := n.w
     (∀ i, let a := g n.a w i
        let b := g n.b w i
        let r := (pointElem n g tick i).1
        let x := unpack f a
        let y := unpack f b
        (n.op = .cmpEq → r = if a = b then 1 else 0) ∧ (n.op = .cmpNe → r = if a = b then 0 else 1) ∧
        (n.op = .cmpLt → r = if sgn w a < sgn w b then 1 else 0) ∧ (n.op = .cmpLe → r = if sgn w a ≤ sgn w b then 1 else 0) ∧
        (n.op = .cmpLtu → r = if a < b then 1 else 0) ∧ (n.op = .cmpLeu → r = if a ≤ b then 1 else 0) ∧
        (x.isNan = true ∨ y.isNan = true → (n.op = .fcmpEq ∨ n.op = .fcmpLt ∨ n.op = .fcmpLe → r = 0) ∧ (n.op = .fcmpUn → r = 1)) ∧
        (x.isNan = false → y.isNan = false → n.op = .fcmpUn → r = 0) ∧
        (n.op ∈ [NOp.fadd, .fsub, .fmul, .fdiv] → x.isNan = true ∨ y.isNan = true → r = f.nan) ∧
        (n.op ∈ [NOp.fsqrt, .fexp2, .flog2] → x.isNan = true → r = f.nan) ∧
        (n.op ∈ [NOp.fma, .fms, .fnma, .fnms] → x.isNan = true ∨ y.isNan = true ∨ (unpack f (g n.c w i)).isNan = true → r = f.nan) ∧
        (n.op = .fmin ∨ n.op = .fmax →
          let below := fun a b => (fpCmp .fcmpLt f a b).1 || ((fpCmp .fcmpEq f a b).1 && (unpack f a).isNeg && !(unpack f b).isNeg)
          (x.isNan = true → y.isNan = true → r = f.nan) ∧ (x.isNan = true → y.isNan = false → r = b) ∧
          (x.isNan = false → y.isNan = true → r = a) ∧
          (x.isNan = false → y.isNan = false → (r = a ∨ r = b) ∧ (below a b = true → r = if n.op = .fmin then a else b) ∧
            (below b a = true → r = if n.op = .fmin then b else a))) ∧
        (n.op = .fsgnj → r = if x.isNan then f.nan
          else a % 2 ^ (f.width - 1) + b / 2 ^ (f.width - 1) % 2 * 2 ^ (f.width - 1)) ∧
        (n.op = .fclass →
          let neg := a / 2 ^ (f.width - 1) % 2 = 1
          let ex := a / 2 ^ f.fb % 2 ^ f.eb
          let fr := a % 2 ^ f.fb
          r = 2 ^ (if ex = 2 ^ f.eb - 1 then (if fr ≠ 0 then (if fr < 2 ^ (f.fb - 1) then 8 else 9) else if neg then 0 else 7)
            else if ex ≠ 0 then (if neg then 1 else 6) else if fr ≠ 0 then (if neg then 2 else 5) else if neg then 3 else 4)) ∧
        (n.op = .fexp2 → (x = .inf false → r = f.inf false) ∧ (x = .inf true → r = 0)) ∧
        (n.op = .flog2 → (x = .inf false → r = f.inf false) ∧ (x = .inf true → r = f.nan) ∧ (∀ neg m e, x = .fin neg m e →
          (m = 0 → r = f.inf true ∧ (pointElem n g tick i).2.2 = fDZ) ∧
          (neg = true → m ≠ 0 → r = f.nan ∧ (pointElem n g tick i).2.2 = fNV)))) ∧
     (∀ (a b : Nat), let x := unpack f a
        let y := unpack f b
        let lt := fun a b => (fpCmp .fcmpLt f a b).1
        x.isNan = false → y.isNan = false →
          (lt a b = true ∨ (fpCmp .fcmpEq f a b).1 = true ∨ lt b a = true) ∧ ¬ (lt a b = true ∧ lt b a = true) ∧
          ¬ (lt a b = true ∧ (fpCmp .fcmpEq f a b).1 = true) ∧
          ((fpCmp .fcmpLe f a b).1 = true ↔ lt a b = true ∨ (fpCmp .fcmpEq f a b).1 = true)) ∧
     (∀ (a b d c : Nat) (na nb nd nc : Bool) (ma mb md mc : Nat) (ea eb ed ec : Int), c < 2 ^ f.width →
        unpack f a = .fin na ma ea → unpack f b = .fin nb mb eb → unpack f d = .fin nd md ed → unpack f c = .fin nc mc ec → mc ≠ 0 →
        let one : Int := 2 ^ 2200
        let val := fun (neg : Bool) (m : Nat) (e : Int) => (if neg then -1 else 1 : Int) * m * 2 ^ (e + 2200).toNat
        let x := val na ma ea
        let y := val nb mb eb
        let z := val nd md ed
        let v := val nc mc ec
        let is := fun o : NOp => fpElem o f rm tick a b d = (c, (0 : FFlags))
        (x + y = v → is .fadd) ∧ (x - y = v → is .fsub) ∧ (x * y = v * one → is .fmul) ∧ (mb ≠ 0 → v * y = x * one → is .fdiv) ∧
        (nc = false → v * v = x * one → is .fsqrt) ∧ (x * y + z * one = v * one → is .fma) ∧ (x * y - z * one = v * one → is .fms) ∧
        (-(x * y) - z * one = v * one → is .fnma) ∧ (-(x * y) + z * one = v * one → is .fnms) ∧
        (∀ k : Nat, nc = false → mc = 2 ^ k → x = (k + ec) * one → is .fexp2) ∧
        (∀ k : Nat, na = false → ma = 2 ^ k → (k + ea) * one = v → is .flog2)) ∧
     (n.op ∈ [NOp.scanAdd, .scanMax, .fscan, .lrec, .prev] →
        let next := fun (c i : Nat) =>
          let a := g n.a w i
          let b := g n.b w i
          if n.op = .scanAdd then (a + c) % 2 ^ w
          else if n.op = .scanMax then (if sgn w c < sgn w a then a else c)
          else if n.op = .fscan then (fAdd f rm (unpack f c) (unpack f a)).1
          else if n.op = .lrec then
            (if etFloat (vtEt n.vtype) then (fFma f rm (unpack f a) (unpack f c) (unpack f b)).1 else (a * c + b) % 2 ^ w)
          else a
        let carried := fun i : Nat => ((List.range i).filter (fun j => !n.off g j)).foldl next (n.seed.toNat % 2 ^ w)
        ∀ i, i < n.vl → (evalNode n g tick).p0[i]? = some (if n.off g i = true then g n.under w i
          else if n.op = .prev then carried i else next (carried i) i)) ∧
     (∀ ls : List (Option Nat), (∀ x ∈ ls, x = none) → (reduce n ls).1 = none) ∧
     (∀ ls : List (Option Nat), ls.length ≤ 65536 → (∃ x ∈ ls, x ≠ none) → (∀ x, some x ∈ ls → x < 2 ^ w) →
        let xs := ls.filterMap id
        let seed := n.seed.toNat % 2 ^ w
        let put := fun r : Nat => if n.sel ≠ 3 ∧ n.sel ≠ 4 then wordOf (sgn w r) else BitVec.ofNat 64 r
        let fold := fun o : Nat → Nat → Nat => (reduce n ls).1 = some (put (xs.foldl o seed))
        n.op = .red →
          (n.sel = 0 → fold (fun a b => (a + b) % 2 ^ w)) ∧ (n.sel = 1 → fold (fun a b => if sgn w a ≤ sgn w b then a else b)) ∧
          (n.sel = 2 → fold (fun a b => if sgn w b ≤ sgn w a then a else b)) ∧ (n.sel = 3 → fold min) ∧ (n.sel = 4 → fold max) ∧
          (n.sel = 5 → fold (fun a b => a &&& b)) ∧ (n.sel = 6 → fold (fun a b => a ||| b)) ∧ (n.sel = 7 → fold (fun a b => a ^^^ b))) ∧
     (∀ ls : List (Option Nat), (∃ x ∈ ls, x ≠ none) → n.op = .fredo → (reduce n ls).1 =
        some (BitVec.ofNat 64 ((ls.filterMap id).foldl (fun a x => (fAdd f rm (unpack f a) (unpack f x)).1) (n.seed.toNat % 2 ^ w)))) ∧
     (∀ (ls : List (Option Nat)) (t : Nat → Nat → Option Nat) (d : Nat), n.op = .fred → (∃ x ∈ ls, x ≠ none) → ls.length ≤ 2 ^ d → d ≤ 64 →
        let leaf := fun x : Nat => if n.sel = 3 then (fMul f rm (unpack f x) (unpack f x)).1 else x
        let op := fun a b : Nat => if n.sel = 1 then (fMinMax f false a b).1 else if n.sel = 2 then (fMinMax f true a b).1
          else (fAdd f rm (unpack f a) (unpack f b)).1
        let put := fun a b : Option Nat => match a, b with
          | none, b => b
          | a, none => a
          | some a, some b => some (op a b)
        (∀ i, t 0 i = (ls.getD i none).map leaf) → (∀ l i, t (l + 1) i = put (t l (2 * i)) (t l (2 * i + 1))) →
          (reduce n ls).1 = (put (t d 0) (some (n.seed.toNat % 2 ^ w))).map (BitVec.ofNat 64)))

/-- A force point voids last. With no pass in flight it starts a pass exactly when the pricking holds a sink, or a v or k name
is pending in resident mode, and no store overlaps another stream under another mapping; the pass records the registers as
they stand, and the pricking stays until the pass ends. Where nothing needs a pass none starts and the nodes that only last
kept live are freed, which makes vs dirty where it changes vector state. (R54, R81, R83, R86, R96.) -/
def Obligations.ForceStartsAPass : Prop :=
  ∀ s : State, s.st.vec.pass = none →
    let p := s.st.vec.pk
    let need : Prop := (∃ n ∈ p.nodes, n.op.isSink = true) ∨ (vtSm s.st.vec.vtype = false ∧ p.bound ≠ [])
    (force s).st.vec.pk.last = none ∧
    (¬ need → force s = s.dirtyIf (s.setPk p.forced.gc)) ∧
    (need → refusedStore (p.passNodes (vtSm s.st.vec.vtype) none) = none →
      ∃ q, (force s).st.vec.pass = some q ∧ q.v = s.st.vec.v ∧ q.k = s.st.vec.k ∧ q.chk = 0 ∧ q.held = false ∧
        q.stream = vtSm s.st.vec.vtype ∧ q.pk.nodes.map Node.slot = p.nodes.map Node.slot ∧
        (force s).st.vec.pk.nodes = q.pk.nodes) ∧
    (need → refusedStore (p.passNodes (vtSm s.st.vec.vtype) none) ≠ none → (force s).st.vec.pass = none)

/-- Where vs is on, no pass or run is in flight and their x operands stand, VSETL and VSETLI complete whatever vill holds. With
a legal request vtype becomes it and vl the lesser of the requested length and VLMAX, or 2^40 − 1 in stream mode; with an
illegal one vill is set and vl is 0. vstart becomes 0, x[rd] receives the new vl, and no other x register, no f register and
no byte of memory changes. The first set-length since bind leaves every v, k and o register zero and the pricking empty. vs
is dirty where a v, k or o register, vl, vtype or vstart changes, and as it was where nothing does (that a changed value
makes it dirty, and an equal one does not, is log 69). (R153, R39, R40, R19, R54.) -/
def Obligations.SetLengthCompletes : Prop :=
  ∀ (s : State) (i : Instr) (avl : Nat) (req : Word) (rd : BitVec 5),
    ((∃ f, i = .vsetl f ∧ avl = (s.x f.rs1).toNat ∧ req = s.x f.rs2 ∧ rd = f.rd ∧ s.vecReady [f.rs1, f.rs2, f.rd]) ∨
     (∃ f, i = .vsetli f ∧ avl = (s.x f.rs1).toNat ∧ req = f.imm.zeroExtend 64 ∧ rd = f.rd ∧ s.vecReady [f.rs1, f.rd])) →
    ∃ t, exec i s = .next t ∧
      (vtLegal req s.st.br.prot = true → t.st.vec.vtype = req ∧
        t.st.vec.vl = min avl (if vtSm req then 2 ^ 40 - 1 else s.st.lanes * 512 / etWidth (vtEt req))) ∧
      (vtLegal req s.st.br.prot = false → vtVill t.st.vec.vtype = true ∧ t.st.vec.vl = 0) ∧
      t.st.vec.vstart = 0 ∧ t.st.vec.first = true ∧
      (s.st.vec.first = false → t.st.vec.v = Vector.replicate 32 0 ∧ t.st.vec.k = Vector.replicate 8 0 ∧
        t.st.vec.o = Vector.replicate 8 0 ∧ t.st.vec.pk.nodes = []) ∧
      (t.st.vec.v ≠ s.st.vec.v ∨ t.st.vec.k ≠ s.st.vec.k ∨ t.st.vec.o ≠ s.st.vec.o ∨ t.st.vec.vl ≠ s.st.vec.vl ∨
        t.st.vec.vtype ≠ s.st.vec.vtype ∨ s.st.vec.vstart ≠ 0 → t.st.sstat.vs = 3) ∧
      (s.st.vec.first = true ∧ t.st.vec.vl = s.st.vec.vl ∧ t.st.vec.vtype = s.st.vec.vtype ∧ s.st.vec.vstart = 0 →
        t.st.sstat.vs = s.st.sstat.vs) ∧
      (rd ≠ 0 → t.x rd = BitVec.ofNat 64 t.st.vec.vl) ∧ (∀ r, r ≠ rd → t.x r = s.x r) ∧ (∀ r, t.f r = s.f r) ∧
      (∀ a, t.mem.get a = s.mem.get a) ∧ t.st.pc = (loopEnd s.st.pc s.st.loops).2.1

/-- VLQ puts its answer into x[rd] and forces nothing; it answers whatever vill holds, and while a pass is held. Behind a pass
that runs it completes, and x[rd], which holds the answer as that pass and the command queue will leave the strand, is
waited for until the pass has ended (log 23, the model's choice). VFORCE forces and completes without waiting. VOSET with no
pass in flight writes the o register, once no pending reduction targets it; vs becomes dirty where the register changes, and
stays as it was where it does not (log 69). VOGET, once its force needs no pass, puts the o register into x[rd]. The answers
are VLMAX for query 0, L for 1, the elements of one group for 2, the size of a frame for 3, the free nodes, loads and sinks
and the resident v and k names for 4, whether the pricking holds a node, is due, and how many instructions have followed its
sink for 5 (that count is log 26), the greatest VL for 6 and g for 7; queries 0, 2 and 6 give 0 while vill = 1. (R155, R156,
R157, R19, R54, R101, R177.) -/
def Obligations.QueriesAndForceComplete : Prop :=
  ∀ (s : State) (f : RF),
    (s.waitsX [f.rd] = false → s.st.sstat.vs ≠ 0 → s.st.fab.run = none → (∀ p, s.st.vec.pass = some p → p.held = true) →
      exec (.vlq f) s = .next (s.setX f.rd (BitVec.ofNat 64 (s.vlq f.rs1.toNat))).completed) ∧
    (∀ p, s.waitsX [f.rd] = false → s.st.sstat.vs ≠ 0 → s.st.vec.pass = some p → p.held = false → p.serial < s.st.eng.serial → s.queueOpen = true →
      ∃ t, exec (.vlq f) s = .next t ∧ t.st.vec.pass = some p ∧ (∀ r, r ≠ f.rd → t.x r = s.x r) ∧
        (f.rd ≠ 0 → t.x f.rd = BitVec.ofNat 64 (s.afterQueue.vlq f.rs1.toNat) ∧ t.waitsX [f.rd] = true)) ∧
    (s.vecReady [] → vtVill s.st.vec.vtype = false → exec (.vforce f) s = .next (force s).completed) ∧
    (s.vecReady [f.rs1] → vtVill s.st.vec.vtype = false → s.st.vec.pk.redTargets (f.rd.toNat % 8) = false →
      exec (.voset f) s = .next (s.dirtyIf (s.setO (low3 f.rd) (s.x f.rs1))).completed) ∧
    (s.vecReady [f.rd] → vtVill s.st.vec.vtype = false → s.forceFree →
      exec (.voget f) s = .next ((force s).setX f.rd (s.o (low3 f.rs1))).completed) ∧
    (let w := etWidth (vtEt s.st.vec.vtype)
     (vtVill s.st.vec.vtype = true → s.vlq 0 = 0 ∧ s.vlq 2 = 0 ∧ s.vlq 6 = 0) ∧
     (vtVill s.st.vec.vtype = false → s.vlq 0 = s.st.lanes * 512 / w ∧ s.vlq 2 = s.st.lanes * 64 / w ∧
       s.vlq 6 = if vtSm s.st.vec.vtype then 2 ^ 40 - 1 else s.st.lanes * 512 / w) ∧
     s.vlq 1 = s.st.lanes ∧ s.vlq 7 = s.st.br.g ∧ s.vlq 3 = 8192 + 75776 * s.st.br.g ∧
     (let p := s.st.vec.pk
      let four := fun k => s.vlq 4 / 2 ^ (8 * k) % 2 ^ 8
      four 0 = 64 - p.nodes.length ∧ four 1 = 16 - (p.nodes.filter (fun n => n.op.isLoad)).length ∧
      four 2 = 8 - (p.nodes.filter (fun n => n.op.isSink)).length ∧ four 3 = (p.vb.toList.filter Option.isNone).length ∧
      four 4 = (p.kb.toList.filter Option.isNone).length ∧
      (s.vlq 5 % 2 = 1 ↔ p.nodes ≠ []) ∧ (s.vlq 5 / 2 % 2 = 1 ↔ p.due = true) ∧
      s.vlq 5 / 2 ^ 8 = if p.due then p.count % 64 else 0))

/-- Where the strand is ready, the mask may be read, it is not a recipe of stream mode and the force needs no pass, the mask-to-
scalar instructions complete with their value of the mask bits below VL in x[rd]: the count, the lowest index or all ones,
the highest index or all ones, and the bits from position min(x[rs2], VL). A mask that R91 does not let be read takes 0x12.
(R152, R154, R91.) -/
def Obligations.MaskToScalarCompletes : Prop :=
  ∀ (s : State) (i : Instr) (f : RF) (xs : List (BitVec 5)) (val : Nat → Nat → Word → Word),
    maskValue i = some (f, xs, val) → s.vecReady xs → vtVill s.st.vec.vtype = false → s.st.vec.answer = none →
    let open_ := s.readable (.msk (kSrc s.st.vec.pk (low3 f.rs1)))
    (open_ = true → s.forceFree → (vtSm s.st.vec.vtype = false ∨ s.st.vec.pk.kb[low3 f.rs1] = none) →
      exec i s = .next ((force s).setX f.rd
        (val ((s.st.vec.k[low3 f.rs1]).toNat % 2 ^ s.st.vec.vl) s.st.vec.vl (s.x f.rs2))).completed) ∧
    (open_ = false → exec i s = trapI s 0x12 i)

/-- VOGET, the spills, fills and segment moves, the permutations and FRUN start a pass where the pricking needs one: nothing
else happens in that step, and the instruction issues again at the same pc. In stream mode the resident-only ones take 0x12
once their force needs no pass, the spills, fills and segment moves among them where vmt is legal. (R78, R86, R87.) -/
def Obligations.ResultsAndResidentWorkForceFirst : Prop :=
  ∀ (s : State) (i : Instr) (xs : List (BitVec 5)), forcesFirst i = some xs → s.vecReady xs → vtVill s.st.vec.vtype = false →
    ((force s).st.vec.pass.isSome = true → exec i s = .next (force s).ticked ∧ (force s).ticked.st.pc = s.st.pc) ∧
    (s.forceFree → vtSm s.st.vec.vtype = true → (∀ f, i ≠ .voget f) → ((vMoveOf i).isSome = true → vmtLegal s.st.csr.vmt = true) → exec i s = trapI (force s) 0x12 i)

/-- Where the strand is ready in resident mode, the force needs no pass, every register word read can be read and VL does not
exceed VLMAX, VSLDUP, VSLDDN, VPERM, VCOMPR, VEXPND and VREV complete: every element below VL of v[rd] is the one the
instruction names, elements at or above VL and every other register stay, vstart is 0, and no memory changes. A register
word that cannot be rebuilt takes 0x77 instead: R417 names that cause for spills, frames, tile moves and CPYB, and that a
permutation takes it as they do is the model's choice (log 73). In task mode, behind a pass that runs and with room in the
command queue, a permutation completes at once: the pass, the registers and memory stay as they are in that step (log 23,
the model's choice). (R180, R181, R105, R417, R87.) -/
def Obligations.PermutationsComplete : Prop :=
  ∀ (s : State) (i : Instr) (f : RF) (xs : List (BitVec 5)) (p : (Nat → Nat) → (Nat → Nat) → (Nat → Nat) → Nat → Nat → (Nat → Bool) → Nat → Nat),
    permuted i = some (f, xs, p) → vtVill s.st.vec.vtype = false → vtSm s.st.vec.vtype = false →
    let w := etWidth (vtEt s.st.vec.vtype)
    let el := fun (r : BitVec 5) (j : Nat) => elemOf (s.v r) w j
    (∀ q, s.waitsX xs = false → s.st.sstat.vs ≠ 0 → s.sup = false → s.st.vec.pass = some q → s.queueOpen = true → (force s).queueOpen = true →
      ∃ t, exec i s = .next t ∧ t.st.vec.pass = some q ∧ t.st.vec.v = s.st.vec.v ∧ t.st.vec.k = s.st.vec.k ∧ t.st.vec.o = s.st.vec.o ∧
        t.st.vec.vstart = 0 ∧ t.st.x = s.st.x ∧ t.st.f = s.st.f ∧ s.keepsMem t ∧ t.st.pc = (loopEnd s.st.pc s.st.loops).2.1) ∧
    (s.vecReady xs → s.forceFree → s.ew * s.st.vec.vl ≤ 65536 →
    (∀ q, s.st.firstLost (permWords i s) = some q → exec i s = trapV ((force s).logLost q.1 q.2 0x77) 0x77 0) ∧
    (s.st.firstLost (permWords i s) = none → ∃ t, exec i s = .next t ∧
      (∀ j, j < s.st.vec.vl → elemOf (t.v f.rd) w j =
        p (el f.rs1) (el f.rd) (el f.rs2) (s.x f.rs2).toNat s.st.vec.vl (fun b => (s.st.vec.k[low3 f.rs2]).getLsbD b) j) ∧
      (t.v f.rd).toNat / 2 ^ (w * s.st.vec.vl) = (s.v f.rd).toNat / 2 ^ (w * s.st.vec.vl) ∧
      (∀ r, r ≠ f.rd → t.v r = s.v r) ∧ t.st.vec.pk.vb[f.rd.toNat]'f.rd.isLt = none ∧ t.st.vec.vstart = 0 ∧
      t.st.x = s.st.x ∧ t.st.f = s.st.f ∧ t.st.vec.k = s.st.vec.k ∧ t.st.vec.o = s.st.vec.o ∧
      (∀ a, t.mem.get a = s.mem.get a) ∧ t.st.pc = (loopEnd s.st.pc s.st.loops).2.1))

/-- Where the strand is ready in resident mode with a legal vmt, the force needs no pass, no fence holds path V, and every
element and field from vstart to VL − 1 is accepted in turn, the spill, fill and segment instructions complete with the
state those accesses leave; vstart is 0 afterwards. Above VL, VFILL leaves a value of its own (log 24: what it leaves there
is not stated). (R175, R176, R106.) -/
def Obligations.SpillsAndFillsComplete : Prop :=
  ∀ (s u : State) (i : Instr) (f : RF) (store : Bool) (r : BitVec 5) (nf : Nat), vMoveOf i = some (f, store, r, nf) →
    s.vecReady [f.rs1] → vtVill s.st.vec.vtype = false → vtSm s.st.vec.vtype = false → s.forceFree →
    vmtLegal s.st.csr.vmt = true → (force s).openNow 1 = true →
    moveAll store r nf (s.x f.rs1).toNat ((force s).todo nf) (force s) = some u →
    let v := u.setVstart 0
    exec i s = .next (if i = .vfill f then v.fillTail f.rd else v).completed

/-- The store of one spilled element that is accepted, with no hardware error to meet, writes the element little-endian to
consecutive bytes at the keys its address is translated to, where no poison stands, and leaves every other byte of memory,
every x and f register and every vector register as it was. (R176, R3, R160.) -/
def Obligations.SpilledBytes : Prop :=
  ∀ (s s' : State) (i a n v : Nat) (ks : List Nat), s.mem.wf = true → s.poison = [] → s.trip? 7 11 = none → s.trip? 7 8 = none →
    (let va := (s.spaceVa s.st.csr.vmt a n).1
     s.pfHold s.st.fe va n 7 0 = none ∧ s.locateN s.st va n s.sup .write = .keys ks) →
    ks.Nodup → ks.length = n → s.vWrite i a n v = .val () s' →
      (∀ j, (h : j < ks.length) → s'.mem.get ks[j] = BitVec.ofNat 8 (v / 256 ^ j)) ∧
      (∀ k, k ∉ ks → s'.mem.get k = s.mem.get k) ∧ s'.st.x = s.st.x ∧ s'.st.f = s.st.f ∧ s'.st.vec.v = s.st.vec.v

/-- VSAVEF traps 0x17 on an illegal vmt, 0x57 on an address that is no multiple of 4096, and 0x77 where, with vs on, a register
word cannot be rebuilt; where nothing holds it back it completes. The frame it adds holds word 0 and the loop stack; with vs
off nothing else, and vector state stays. With vs on it also holds v, k, o, vl, vtype, vstart, the pricking and the pass as
the force leaves them, and the fabric; vector state is then as a bind leaves it but for the first set-length, and vs is
initial. VRESTF forces first, and issues again after the pass; then VRESTF of a frame that memory still holds, of the same
g, L and protection, with an empty loop stack, restores it and completes; that of the frame just saved gives the loop stack
and, with vs on, the vector state and the pricking back, with vs clean. The model's own: frames kept beside memory and
compared with its bytes (log 9, DESIGN CHOICE), a restored pricking that is not forced (log 30), and 0x17 before 0x57 (log
81). (R177, R178, R179, R404, R78, R417.) -/
def Obligations.FramesSaveAndRestore : Prop :=
  (∀ (s : State) (f : RF), s.waitsX [f.rs1] = false → s.st.fab.run = none →
    let a := (s.x f.rs1).toNat
    (vmtLegal s.st.csr.vmt = false → exec (.vsavef f) s = trapI s 0x17 (.vsavef f)) ∧
    (vmtLegal s.st.csr.vmt = true → a % 4096 ≠ 0 →
      exec (.vsavef f) s = trapV s 0x57 (BitVec.ofNat 64 (s.spaceVa s.st.csr.vmt a 1).1)) ∧
    (∀ w, vmtLegal s.st.csr.vmt = true → a % 4096 = 0 → s.st.sstat.vs ≠ 0 → s.st.firstLost s.frameWords = some w →
      exec (.vsavef f) s = trapV (s.logLost w.1 w.2 0x77) 0x77 0)) ∧
  (∀ (s : State) (f : RF) (ks : List Nat), s.saves f ks →
    let c := s.toSave.saveForce.st.vec
    let on := s.st.sstat.vs != 0
    ∃ t fr, exec (.vsavef f) s = .next t ∧ t.frames = fr :: s.frames ∧ fr.ctx = s.st.br.ctx ∧ fr.loops = s.st.loops ∧
      fr.word0 = s.frameWord0 on (on && c.pass.isSome) ∧ t.st.pc = s.nextPc ∧ t.st.x = s.st.x ∧ t.st.f = s.st.f ∧
      (s.mem.wf = true → ∀ k, k ∉ ks → t.mem.get k = s.mem.get k) ∧
      (s.mem.wf = true → s.poison = [] → ks.Nodup → ks.length = s.saveSize →
        leNat ((ks.take 8).map t.mem.get) = fr.word0.toNat) ∧
      (on = false → fr.vec = none ∧ t.st.sstat = s.st.sstat ∧ t.st.vec.v = s.st.vec.v ∧ t.st.vec.k = s.st.vec.k ∧
        t.st.vec.o = s.st.vec.o ∧ t.st.vec.vl = s.st.vec.vl ∧ t.st.vec.vtype = s.st.vec.vtype ∧
        t.st.vec.vstart = s.st.vec.vstart ∧ t.st.vec.pk.nodes = s.st.vec.pk.nodes ∧ t.st.fab = s.st.fab) ∧
      (on = true → fr.vec = some (c.captured, s.st.fab) ∧ c.v = s.st.vec.v ∧ c.k = s.st.vec.k ∧ c.o = s.st.vec.o ∧
        c.vl = s.st.vec.vl ∧ c.vtype = s.st.vec.vtype ∧ c.vstart = s.st.vec.vstart ∧
        (s.st.vec.squashed = false → c.pk = (force s.toSave).st.vec.pk ∧ c.pass = (force s.toSave).st.vec.pass) ∧
        (s.st.vec.squashed = true → c.pk = s.st.vec.pk) ∧
        t.st.sstat.vs = 1 ∧ t.st.vec = { Vec.reset with first := s.st.vec.first } ∧ t.st.fab.pending = [] ∧
        t.st.fab.ctx0 = Fabric.reset.ctx0 ∧ t.st.fab.ctx1 = Fabric.reset.ctx1)) ∧
  (∀ (u : State) (f : RF), u.waitsX [f.rs1] = false → u.st.fab.run = none → u.st.vec.pass = none → u.st.vec.squashed = false →
    (force u).st.vec.pass.isSome = true → exec (.vrestf f) u = .next (force u).ticked) ∧
  (∀ (u : State) (f : RF) (n : Nat) (head ks : List Nat) (fr : Frame), u.restores f n head ks →
    let w := BitVec.ofNat 64 (leNat ((head.take 8).map (u.toRestore.byteFor 1)))
    u.toRestore.frameFits w = true → n = (if w.getLsbD 11 then 8192 + 75776 * u.st.br.g else 8192) →
    u.toRestore.frameFind ks = some fr → exec (.vrestf f) u = .next (u.toRestore.restore ks fr).completed) ∧
  (∀ (s t u : State) (f : RF) (ks : List Nat), s.saves f ks → s.good = true → s.poison = [] → s.st.br.g < 8 → s.st.lanes < 256 →
    ks.Nodup → ks.length = s.saveSize → exec (.vsavef f) s = .next t →
    u.frames = t.frames → u.mem = t.mem → u.st.eng.unseen = [] → u.st.br = s.st.br → u.st.lanes = s.st.lanes → u.st.loops = [] →
    u.restores f s.saveSize (ks.take 8192) ks →
    let c := s.toSave.saveForce.st.vec
    ∃ r, exec (.vrestf f) u = .next r ∧ r.st.loops = (loopEnd u.st.pc s.st.loops).1 ∧
      (s.st.sstat.vs ≠ 0 → r.st.vec.v = s.st.vec.v ∧ r.st.vec.k = s.st.vec.k ∧ r.st.vec.o = s.st.vec.o ∧
        r.st.vec.vl = s.st.vec.vl ∧ r.st.vec.vtype = s.st.vec.vtype ∧ r.st.vec.vstart = s.st.vec.vstart ∧
        r.st.vec.pk.nodes = c.pk.nodes ∧ r.st.vec.pk.vb = c.pk.vb ∧ r.st.vec.pk.kb = c.pk.kb ∧
        r.st.vec.pass.isSome = c.pass.isSome ∧ r.st.fab.ctx0 = s.st.fab.ctx0 ∧ r.st.fab.ctx1 = s.st.fab.ctx1 ∧
        r.st.fab.pending = s.st.fab.pending ∧ r.st.sstat.vs = 2))

/-- The integer operations of registers and immediates, LUI, AUIPC, FCLASS and the moves from f to x complete, once no MSAMP or
RAMO has yet to write a register they name: x[rd] holds the result, x0 reads zero, and every other x register, every f
register, the flags, the CSRs, tile and vector state and every byte of memory are unchanged. (R109, R36.) -/
def Obligations.ScalarResultsComplete : Prop :=
  ∀ (s : State) (i : Scalar) (rd : BitVec 5) (v : Word), scalarX i s = some (rd, v) → s.waitsX (scalarRegs i) = false →
    ∃ t, exec (.scalarInstruction i) s = .next t ∧ t.x rd = (if rd = 0 then 0 else v) ∧ (∀ r, r ≠ rd → t.x r = s.x r) ∧
      t.st.f = s.st.f ∧ t.st.fflags = s.st.fflags ∧ s.keepsAround t ∧ s.keepsMem t ∧ t.st.pc = s.nextPc

/-- A scalar floating-point instruction whose rm field, or frm for rm 7, names a rounding mode completes: f[rd] holds the
result, a binary32 one boxed, or x[rd] holds the value of a compare or conversion; the flags it raises join fflags, and no
other register, no CSR and no byte of memory changes. One whose rm names no mode is an illegal instruction, cause 0x00 (the
model's reading, log 13). (R109, R60.) -/
def Obligations.ScalarFloatsComplete : Prop :=
  ∀ (s : State) (i : Scalar) (r : Nat), s.waitsX (scalarRegs i) = false →
    ((scalarRm i).all (fun m => s.rmOf m == some r) = true →
      (∀ rd dbl v, scalarF i s r = some (rd, dbl, v) →
        ∃ t, exec (.scalarInstruction i) s = .next t ∧ t.f rd = fBox dbl v.1 ∧ (∀ q, q ≠ rd → t.f q = s.f q) ∧ t.st.x = s.st.x ∧
          t.st.fflags = s.st.fflags ||| v.2 ∧ s.keepsAround t ∧ s.keepsMem t ∧ t.st.pc = s.nextPc) ∧
      (∀ rd v fl, scalarXFlags i s r = some (rd, v, fl) →
        ∃ t, exec (.scalarInstruction i) s = .next t ∧ t.x rd = (if rd = 0 then 0 else v) ∧ (∀ q, q ≠ rd → t.x q = s.x q) ∧
          t.st.f = s.st.f ∧ t.st.fflags = s.st.fflags ||| fl ∧ s.keepsAround t ∧ s.keepsMem t ∧ t.st.pc = s.nextPc)) ∧
    (∀ m, scalarRm i = some m → s.rmOf m = none → exec (.scalarInstruction i) s = trapI s 0x00 (.scalarInstruction i))

/-- A scalar load of any alignment whose bytes are reached and hold no poison completes: x[rd] holds the little-endian value
sign- or zero-extended as the instruction says, or f[rd] the value, boxed when 4 bytes; no other register and no byte of
memory changes. (R325, R109, R3.) -/
def Obligations.ScalarLoadsComplete : Prop :=
  ∀ (s : State) (rd rs1 : BitVec 5) (imm : BitVec 12) (ks : List Nat), let a := (s.x rs1 + imm.signExtend 64).toNat
    s.poisonVa a ks = none →
    (∀ k, s.waitsX [rd, rs1] = false → s.reachesKeys a (ldShape k).1 1 .read ks →
      let n := leNat (ks.map s.mem.get)
      ∃ t, exec (.scalarInstruction (.load k rd rs1 imm)) s = .next t ∧
        t.x rd = (if rd = 0 then 0 else if (ldShape k).2 then BitVec.ofInt 64 (sgn (8 * (ldShape k).1) n) else BitVec.ofNat 64 n) ∧
        (∀ r, r ≠ rd → t.x r = s.x r) ∧ t.st.f = s.st.f ∧ t.st.fflags = s.st.fflags ∧ s.keepsAround t ∧ s.keepsMem t ∧
        t.st.pc = s.nextPc) ∧
    (∀ dbl, s.waitsX [rs1] = false → s.reachesKeys a (if dbl then 8 else 4) 1 .read ks →
      ∃ t, exec (.scalarInstruction (.fload dbl rd rs1 imm)) s = .next t ∧ t.f rd = fBox dbl (leNat (ks.map s.mem.get)) ∧
        (∀ r, r ≠ rd → t.f r = s.f r) ∧ t.st.x = s.st.x ∧ t.st.fflags = s.st.fflags ∧ s.keepsAround t ∧ s.keepsMem t ∧
        t.st.pc = s.nextPc)

/-- A scalar store of any alignment whose bytes are reached, of which no part was made before, and which comes between the bytes
of no element that a pass is yet to write (it waits for that pass: log 93, the model's choice), completes. Where no byte of
it meets poison that it only partly covers, byte j at its place holds byte j of the register; every byte of memory outside
its bytes is unchanged, and so is every register. (R325, R109, R3.) -/
def Obligations.ScalarStoresComplete : Prop :=
  ∀ (s : State) (i : Scalar) (rs1 rs2 : BitVec 5) (imm : BitVec 12) (n : Nat) (v : Word) (ks : List Nat),
    (∃ k, i = .store k rs1 rs2 imm ∧ s.waitsX [rs1, rs2] = false ∧ n = stSize k ∧ v = s.x rs2) ∨
      (∃ dbl, i = .fstore dbl rs1 rs2 imm ∧ s.waitsX [rs1] = false ∧ n = (if dbl then 8 else 4) ∧ v = s.f rs2) →
    s.storesWhole (s.x rs1 + imm.signExtend 64).toNat n ks → s.mem.wf = true →
    ∃ t, exec (.scalarInstruction i) s = .next t ∧
      (ks.Nodup → ks.length = n → s.poison = [] → ∀ j, (h : j < ks.length) → t.mem.get ks[j] = BitVec.ofNat 8 (v.toNat / 256 ^ j)) ∧
      (∀ k, k ∉ ks → t.mem.get k = s.mem.get k) ∧ t.mem.wf = true ∧ t.st.x = s.st.x ∧ t.st.f = s.st.f ∧
      t.st.fflags = s.st.fflags ∧ s.keepsButSeen t ∧ t.st.pc = s.nextPc

/-- A naturally aligned RV64A access whose bytes are reached and hold no poison completes, an SC or AMO where no pass in flight
may write them (it waits for that pass: log 93). LR puts the value into x[rd] and reserves its 64-byte line. SC on a
reserved line that no other path of the strand has written stores x[rs2] and puts 0 into x[rd]; with no reservation it
stores nothing and puts 1 (the model's reading, log 13); either way no reservation is left. An AMO puts the old value into
x[rd] and stores the new one. Every other byte of memory and every other x register is unchanged. A misaligned one takes
0x51 with its address. (R325, R330, R109.) -/
def Obligations.AtomicsComplete : Prop :=
  ∀ (s : State) (dbl aq rl : Bool) (rd rs1 rs2 : BitVec 5) (o : AmoOp) (ks : List Nat),
    let n := if dbl then 8 else 4
    let a := (s.x rs1).toNat
    let old := leNat (ks.map s.mem.get)
    let res : Word := if rd = 0 then 0 else BitVec.ofInt 64 (sgn (8 * n) old)
    s.waitsX [rd, rs1, rs2] = false →
    (a % n ≠ 0 → ∀ i ∈ [Scalar.lr dbl aq rl rd rs1, .sc dbl aq rl rd rs1 rs2, .amo o dbl aq rl rd rs1 rs2],
      exec (.scalarInstruction i) s = trapV s 0x51 (BitVec.ofNat 64 a)) ∧
    (a % n = 0 → s.poison = [] → s.mem.wf = true → ks.Nodup → ks.length = n → s.passMayWrite ks = false →
      (s.reachesKeys a n 1 .read ks → ∃ t, exec (.scalarInstruction (.lr dbl aq rl rd rs1)) s = .next t ∧ t.x rd = res ∧
        t.st.resv = some (ks.headD 0 / 64, false) ∧ (∀ r, r ≠ rd → t.x r = s.x r) ∧ s.keepsMem t ∧ t.st.pc = s.nextPc) ∧
      (s.reachesKeys a n 1 .write ks → s.st.resv = some (ks.headD 0 / 64, false) →
        ∃ t, exec (.scalarInstruction (.sc dbl aq rl rd rs1 rs2)) s = .next t ∧ t.x rd = 0 ∧ t.st.resv = none ∧
          (∀ j, (h : j < ks.length) → t.mem.get ks[j] = BitVec.ofNat 8 ((s.x rs2).toNat / 256 ^ j)) ∧
          (∀ k, k ∉ ks → t.mem.get k = s.mem.get k) ∧ (∀ r, r ≠ rd → t.x r = s.x r) ∧ t.st.pc = s.nextPc) ∧
      (s.st.resv = none → ∃ t, exec (.scalarInstruction (.sc dbl aq rl rd rs1 rs2)) s = .next t ∧
        t.x rd = (if rd = 0 then 0 else 1) ∧ t.st.resv = none ∧ (∀ r, r ≠ rd → t.x r = s.x r) ∧ s.keepsMem t) ∧
      (s.reachesKeys a n 1 .atomic ks → ∃ t, exec (.scalarInstruction (.amo o dbl aq rl rd rs1 rs2)) s = .next t ∧ t.x rd = res ∧
        (∀ j, (h : j < ks.length) → t.mem.get ks[j] = BitVec.ofNat 8 (amoNew o (8 * n) old (s.x rs2).toNat / 256 ^ j)) ∧
        (∀ k, k ∉ ks → t.mem.get k = s.mem.get k) ∧ (∀ r, r ≠ rd → t.x r = s.x r) ∧ t.st.pc = s.nextPc))

/-- JAL, JALR and a taken branch to a target that is a multiple of 4 complete with the pc at the target and, for a jump, pc + 4
in x[rd]; every loop level whose body does not hold the target is popped, up to the first that does; memory and every other
register stay. A target that is not a multiple of 4 takes 0x50 with the target in stval. A branch that is not taken only
completes. (R109, R108, R279.) -/
def Obligations.JumpsTransfer : Prop :=
  ∀ (s : State) (i : Scalar), s.waitsX (scalarRegs i) = false →
    (∀ target link, scalarJump i s = some (target, link) →
      (target.toNat % 4 ≠ 0 → exec (.scalarInstruction i) s = trapV s 0x50 target) ∧
      (target.toNat % 4 = 0 → ∃ t, exec (.scalarInstruction i) s = .next t ∧ t.st.pc = target ∧ t.st.backEdge = false ∧
        (∃ popped, s.st.loops = popped ++ t.st.loops ∧ (∀ l ∈ popped, ¬ (l.start ≤ target ∧ target ≤ l.stop)) ∧
          (∀ l, t.st.loops.head? = some l → l.start ≤ target ∧ target ≤ l.stop)) ∧
        (∀ rd, link = some rd → rd ≠ 0 → t.x rd = s.st.pc + 4) ∧ (∀ r, link ≠ some r → t.x r = s.x r) ∧
        t.st.f = s.st.f ∧ s.keepsAround t ∧ s.keepsMem t)) ∧
    (∀ c rs1 rs2 off, i = .branch c rs1 rs2 off → brTaken c (s.x rs1) (s.x rs2) = false →
      exec (.scalarInstruction i) s = .next s.completed)

/-- When an instruction at the innermost level's E completes without transferring control, index goes up by one; while it stays
below count the pc is the start of the body; otherwise the level is popped and the same rule is applied to the next level if
its E is the same address, and else the pc is E + 4. It is an iteration boundary. Where the innermost level does not end
there, the pc is the next word and the levels stay. (R278.) -/
def Obligations.BackEdges : Prop :=
  ∀ (pc : Word) (l : LoopLvl) (ls : List LoopLvl),
    (l.stop = pc → l.index + 1 < l.count → loopEnd pc (l :: ls) = ({ l with index := l.index + 1 } :: ls, l.start, true)) ∧
    (l.stop = pc → l.count ≤ l.index + 1 → loopEnd pc (l :: ls) = ((loopEnd pc ls).1, (loopEnd pc ls).2.1, true)) ∧
    (l.stop ≠ pc → loopEnd pc (l :: ls) = (l :: ls, pc + 4, false)) ∧ loopEnd pc [] = ([], pc + 4, false) ∧
    (∀ s : State, (advance s).st.pc = (loopEnd s.st.pc s.st.loops).2.1 ∧ (advance s).st.loops = (loopEnd s.st.pc s.st.loops).1 ∧
      (advance s).st.backEdge = (loopEnd s.st.pc s.st.loops).2.2)

/-- LOOP with a body that ends no later than the enclosing one and a free level completes: a count that is not zero pushes a
level with index 0 and the pc at the body; a count of 0 skips the body and pushes none. A body beyond the enclosing one
takes 0x10, a seventh level 0x90. LIDX writes the index of level l, or −1 where the stack holds l or fewer levels. LBRK pops
the innermost level and goes to E + 4; on an empty stack it takes 0x10. None of them changes memory or another register.
(R277, R280, R291.) -/
def Obligations.LoopInstructions : Prop :=
  (∀ (s : State) (f : IF), s.waitsX [f.rs1] = false →
    let stop := s.st.pc + BitVec.ofNat 64 (4 * f.imm.toNat)
    (loopBeyond stop s.st.loops = true → exec (.loop f) s = trapI s 0x10 (.loop f)) ∧
    (loopBeyond stop s.st.loops = false → 6 ≤ s.st.loops.length → exec (.loop f) s = trapI s 0x90 (.loop f)) ∧
    (loopBeyond stop s.st.loops = false → s.st.loops.length < 6 → ∃ t, exec (.loop f) s = .next t ∧
      (s.x f.rs1 ≠ 0 → t.st.pc = s.st.pc + 4 ∧ t.st.loops =
        { count := (s.x f.rs1).toNat, index := 0, start := s.st.pc + 4, stop := stop } :: s.st.loops) ∧
      (s.x f.rs1 = 0 → t.st.pc = stop + 4 ∧ t.st.loops = s.st.loops) ∧
      t.st.x = s.st.x ∧ t.st.f = s.st.f ∧ s.keepsAround t ∧ s.keepsMem t)) ∧
  (∀ (s : State) (f : RF), s.waitsX [f.rd] = false → exec (.lidx f) s =
    .next (s.setX f.rd (match s.st.loops[f.rs1.toNat]? with | some l => BitVec.ofNat 64 l.index | none => -1)).completed) ∧
  (∀ (s : State) (f : RF), (s.st.loops = [] → exec (.lbrk f) s = trapI s 0x10 (.lbrk f)) ∧
    (∀ l ls, s.st.loops = l :: ls → ∃ t, exec (.lbrk f) s = .next t ∧ t.st.pc = l.stop + 4 ∧ t.st.loops = ls ∧ t.st.x = s.st.x ∧
      t.st.f = s.st.f ∧ s.keepsAround t ∧ s.keepsMem t))

/-- In task mode with stvec other than zero, a trap entry forces, unless a squash restored the pricking (log 30); scause
receives the code with the imprecise and kill flags, sepc the pc handed in, stval, selem and sorig the values of the trap;
pmode receives the mode, the mode becomes supervisor, the reservation ends, and the pc is stvec. x and f registers, the loop
stack, tile state and memory stay. In supervisor mode, or with stvec zero, the task is killed. (R285, R51, R394, R330.) -/
def Obligations.TrapEntrySaves : Prop :=
  ∀ (s : State) (t : TrapInfo) (imp : Bool) (pc : Word), let u := trapEntry s t imp pc
    (s.sup = false → s.st.csr.stvec ≠ 0 →
      u.st.pc = s.st.csr.stvec ∧ u.st.csr.sepc = pc ∧ u.st.csr.stval = t.stval ∧ u.st.csr.selem = t.selem ∧ u.st.csr.sorig = t.sorig ∧
      u.st.csr.scause = causeWord t.code imp (fatal t.code imp) ∧ u.st.sstat.mode = true ∧ u.st.sstat.pmode = false ∧
      u.st.resv = none ∧ u.st.vec = (if s.st.vec.squashed then s.st.vec else (force s).st.vec) ∧ u.st.x = s.st.x ∧ u.st.f = s.st.f ∧ u.st.loops = s.st.loops ∧ u.st.mat = s.st.mat ∧ s.keepsMem u) ∧
    (s.sup = true ∨ s.st.csr.stvec = 0 → u.st.run = (if s.st.run = .unbound then .unbound else .stopped) ∧ s.keepsMem u)

/-- ECALL takes cause 0xE0 and EBREAK 0xE1 with stval zero, and a word that decodes to nothing takes 0x00 with the word in
stval: in task mode with stvec other than zero each answers a next state in supervisor mode at stvec, sepc the instruction's
own address. (R109, R124, R285, R394.) -/
def Obligations.CallsAndIllegalWords : Prop :=
  ∀ (s : State) (w : IWord), s.sup = false → s.st.csr.stvec ≠ 0 →
    (∀ p ∈ [(Instr.ecall, (0xE0 : Word), (0 : Word)), (.ebreak, 0xE1, 0), (.illegalInstruction w, 0, w.zeroExtend 64)],
      ∃ t, exec p.1 s = .next t ∧ t.st.pc = s.st.csr.stvec ∧ t.st.csr.sepc = s.st.pc ∧ t.st.csr.scause = p.2.1 ∧
        t.st.csr.stval = p.2.2 ∧ t.st.sstat.mode = true ∧ t.st.sstat.pmode = false ∧ t.st.x = s.st.x ∧ t.st.f = s.st.f ∧ s.keepsMem t)

/-- TRET takes 0x2F in task mode. In supervisor mode with scause.kp = 1 it kills the task; otherwise a target that is not a
multiple of 4 takes 0x50, and else mode becomes pmode, pmode 0 and the pc sepc; no register and no byte of memory changes,
and a held pass is released to replay (R402), unless a fault of its own is yet to be delivered: that exception is the
model's inference from R395 and R396. (R286, R402, R400, R395, R396.) -/
def Obligations.TretReturns : Prop :=
  ∀ (s : State) (f : RF),
    (s.sup = false → exec (.tret f) s = trapI s 0x2F (.tret f)) ∧
    (s.sup = true → s.st.csr.scause.getLsbD 9 = true → ∃ t, exec (.tret f) s = .next t ∧
      t.st.run = (if s.st.run = .unbound then .unbound else .stopped) ∧ t.fw.contexts = s.fw.contexts ∧ s.keepsMem t) ∧
    (s.sup = true → s.st.csr.scause.getLsbD 9 = false → s.st.csr.sepc.toNat % 4 ≠ 0 → exec (.tret f) s = trapV s 0x50 s.st.csr.sepc) ∧
    (s.sup = true → s.st.csr.scause.getLsbD 9 = false → s.st.csr.sepc.toNat % 4 = 0 → ∃ t, exec (.tret f) s = .next t ∧
      t.st.pc = s.st.csr.sepc ∧ t.st.sstat = { s.st.sstat with mode := s.st.sstat.pmode, pmode := false } ∧
      t.st.vec.pass = s.st.vec.pass.map (fun p => { p with held := p.held && s.st.held.any TrapInfo.ofPass }) ∧ t.st.csr = s.st.csr ∧ t.st.x = s.st.x ∧
      t.st.f = s.st.f ∧ t.st.loops = s.st.loops ∧ t.st.mat = s.st.mat ∧ s.keepsMem t)

/-- In supervisor mode HARNQ completes and writes x[rd]: the identifier of the half in slot s, its retired-lane mask in [31:16],
1 in bit 32 and zeros above; for an empty slot 0xFFFF, whose other fields are zero (log 46, the model's choice). Every other
register, CSR and byte of memory is unchanged. In task mode it takes 0x2F. (R288, R21, R50.) -/
def Obligations.HarnessQuery : Prop :=
  ∀ (s : State) (f : RF), (s.sup = false → exec (.harnq f) s = trapI s 0x2F (.harnq f)) ∧
    (s.sup = true → s.waitsX [f.rd] = false → (h : f.rs1.toNat < 8) → ∃ t, exec (.harnq f) s = .next t ∧
      (f.rd ≠ 0 → let half := s.st.br.halves[f.rs1.toNat]
        (half = 0xFFFF → t.x f.rd = 0xFFFF) ∧
        (half ≠ 0xFFFF → (t.x f.rd).extractLsb' 0 16 = half ∧ (t.x f.rd).extractLsb' 16 16 = (s.halfRec half).lanes ∧
          (t.x f.rd).getLsbD 32 = true ∧ (t.x f.rd).toNat < 2 ^ 33)) ∧
      (∀ r, r ≠ f.rd → t.x r = s.x r) ∧ t.st.f = s.st.f ∧ s.keepsAround t ∧ s.keepsMem t ∧ t.st.pc = s.nextPc)

/-- In task mode the supervisor CSRs and the instructions only supervisor mode may execute take a privilege trap: 0x2D for the
packet instructions, 0x2F for TRET, SYIELD, HARNQ and an access to a CSR from 0x5C0 to 0x5C9. It comes before any effect.
(R50, R291, R41.) -/
def Obligations.PrivilegedInTaskMode : Prop :=
  ∀ (s : State), s.sup = false →
    (∀ f, exec (.mpkw f) s = trapI s 0x2D (.mpkw f) ∧ exec (.mpkr f) s = trapI s 0x2D (.mpkr f) ∧
      exec (.mpkp f) s = trapI s 0x2D (.mpkp f) ∧ exec (.tret f) s = trapI s 0x2F (.tret f) ∧
      exec (.syield f) s = trapI s 0x2F (.syield f) ∧ exec (.harnq f) s = trapI s 0x2F (.harnq f)) ∧
    (∀ c : CsrF, 0x5C0 ≤ c.csr.toNat → c.csr.toNat ≤ 0x5C9 → s.waitsX [c.src, c.rd] = false →
      exec (.csrWrite c) s = trapI s 0x2F (.csrWrite c) ∧ exec (.sstatWrite c) s = trapI s 0x2F (.sstatWrite c) ∧
      exec (.scalarInstruction (.csrRead c)) s = trapI s 0x2F (.scalarInstruction (.csrRead c)))

/-- A Zicsr instruction whose mode and dirty-state field allow it, and whose CSR no set-length in the command queue is yet to
write (log 23, the model's choice), completes: x[rd] holds the old value, and the CSR the value written, which replaces it,
sets its bits or clears them. smin keeps the low 32 bits of what is written, smode the low 2 and scause the low 10, as their
other bits are reserved. vfflags waits for a pass in flight; vslip takes the value clamped to 1 to 16; vmt and tcfg hold
what is written, and ts becomes dirty where tcfg changes, vs where vstart does (that an equal value leaves them is log 69);
sstat takes pmode, ts and vs. A read, also of the sampling statistics once no MSAMP is queued, only reads. Every other CSR,
no other x register, no f register, no other vector, tile, engine or fabric state and no byte of memory changes. (R41, R45,
R46, R47, R49, R54, R6.) -/
def Obligations.CsrWritesComplete : Prop :=
  ∀ (s : State) (c : CsrF), s.waitsX (if c.uimm then [c.rd] else [c.src, c.rd]) = false → (csrSup c.csr = true → s.sup = true) →
    s.csrFirst c.csr = none → s.csrWaits c.csr = false →
    let old := s.csrVal c.csr
    let src : Word := if c.uimm then c.src.zeroExtend 64 else s.x c.src
    let v : Word := match c.op with | .rw => src | .rs => old ||| src | .rc => old &&& ~~~src
    (∃ t, exec (.csrWrite c) s = .next t ∧ s.csrDone c t ∧
      (c.csr = 0x001 → t.st.fflags = v.truncate 5) ∧ (c.csr = 0x002 → t.st.frm = v.truncate 3) ∧
      (c.csr = 0x003 → t.st.fflags = v.truncate 5 ∧ t.st.frm = (v >>> 5).truncate 3) ∧
      (c.csr ∈ [0x800, 0x804, 0x805, 0x820, 0x821, 0x823, 0x5C1, 0x5C2, 0x5C3, 0x5C4, 0x5C6, 0x5C7, 0x5C9] → t.csrVal c.csr = v) ∧
      (c.csr = 0x822 → t.csrVal c.csr = v &&& 0xFFFFFFFF) ∧ (c.csr = 0x824 → t.csrVal c.csr = v &&& 3) ∧
      (c.csr = 0x5C0 → t.csrVal c.csr = v &&& 0x3FF) ∧
      (∀ a, a ∉ [c.csr, 0x001, 0x002, 0x003, 0x5C5, 0xC00, 0xC01, 0xC02, 0xCCB] → t.csrVal a = s.csrVal a) ∧
      (c.csr ≠ 0x001 → c.csr ≠ 0x003 → t.st.fflags = s.st.fflags) ∧ (c.csr ≠ 0x002 → c.csr ≠ 0x003 → t.st.frm = s.st.frm) ∧
      (c.csr ≠ 0x800 → t.st.sstat = s.st.sstat ∧ t.st.vec.vstart = s.st.vec.vstart) ∧
      (c.csr = 0x800 → t.st.sstat = { s.st.sstat with vs := if v = s.st.vec.vstart then s.st.sstat.vs else 3 }) ∧
      t.st.mat = s.st.mat) ∧
    (s.st.vec.pass = none → ∃ t, exec (.vfflagsWrite c) s = .next t ∧ s.csrDone c t ∧ s.csrKept t ∧ t.st.mat = s.st.mat ∧
      t.st.sstat = s.st.sstat ∧ t.st.csr = { s.st.csr with vfflags := v.truncate 5 }) ∧
    (∃ t, exec (.vslipWrite c) s = .next t ∧ s.csrDone c t ∧ s.csrKept t ∧ t.st.mat = s.st.mat ∧ t.st.sstat = s.st.sstat ∧
      t.st.csr = { s.st.csr with vslip := BitVec.ofNat 64 (max 1 (min 16 (v.toNat % 32))) }) ∧
    (∃ t, exec (.vmtWrite c) s = .next t ∧ s.csrDone c t ∧ s.csrKept t ∧ t.st.mat = s.st.mat ∧ t.st.sstat = s.st.sstat ∧
      t.st.csr = { s.st.csr with vmt := v }) ∧
    ((h : 0x810 ≤ c.csr.toNat ∧ c.csr.toNat ≤ 0x817) → ∃ t, exec (.tcfgWrite c) s = .next t ∧ s.csrDone c t ∧ s.csrKept t ∧
      t.st.csr = s.st.csr ∧ t.st.mat = { s.st.mat with tcfg := s.st.mat.tcfg.set (c.csr.toNat - 0x810) v } ∧
      t.st.sstat = { s.st.sstat with ts := if s.st.mat.tcfg[c.csr.toNat - 0x810] = v then s.st.sstat.ts else 3 }) ∧
    (∃ t, exec (.sstatWrite c) s = .next t ∧ s.csrDone c t ∧ s.csrKept t ∧ t.st.csr = s.st.csr ∧ t.st.mat = s.st.mat ∧
      t.st.sstat = { s.st.sstat with pmode := v.getLsbD 6, ts := v.extractLsb' 2 2, vs := v.extractLsb' 0 2 }) ∧
    (s.st.mat.queue.any MatOp.isMsamp = false → ∃ t, exec (.samplingStatsRead c) s = .next t ∧ s.csrDone c t ∧ s.csrKept t ∧
      s.keepsAround t) ∧
    (∃ t, exec (.scalarInstruction (.csrRead c)) s = .next t ∧ s.csrDone c t ∧ s.csrKept t ∧ s.keepsAround t)

/-- Where vs and ts are on, the tile has a legal shape, the index and VL lie in it, the strand is ready in resident mode and the
hoop queue is empty, the four tile moves complete. A move into a tile puts the elements below VL of the v register,
converted to the format of the tile, in order into the row or column (for a PB tile, whole blocks encoded with positions at
or above VL as +0); a move out of it puts them, as the strand observes the tile (08 R202; log 86), converted to et, into the
v register. Elements at or above VL, every other byte of the tile space, other registers and memory stay; vstart is 0, ts
dirty, and vfflags gains the flags of those conversions. A register word that a move into a tile would read and that cannot
be rebuilt takes 0x77 instead. (R185, R201, R202, R207, R417.) -/
def Obligations.TileMovesComplete : Prop :=
  ∀ (s : State) (i : Instr) (m : Nat) (col store : Bool) (xr n : BitVec 5), tileMoveOf i = some (m, col, store, xr, n) →
    s.vecReady [xr] → hoopFirst s i = none → s.moveOk m col store (s.x xr) = true → s.forceFree → vtSm s.st.vec.vtype = false →
    s.st.mat.queue = [] → (force s).openNow 4 = true →
    (∀ q, store = true → s.st.firstLost (wordsOf [n.toNat] s.vlWords) = some q →
      exec i s = trapV ((force s).logLost q.1 q.2 0x77) 0x77 0) ∧
    ((store = true → s.st.firstLost (wordsOf [n.toNat] s.vlWords) = none) → s.st.mat.poison = [] → s.st.mat.bytes.wf = true →
    s.ew * s.st.vec.vl ≤ 65536 →
    let h := s.shape m
    let x := (s.x xr).toNat
    let ty := s.st.vec.vtype
    let w := etWidth (vtEt ty)
    let at_ := fun j : Nat => if col then (j, x) else (x, j)
    ∃ t, exec i s = .next t ∧
      (store = true → t.st.vec.v = s.st.vec.v ∧
        (mfIsPb h.fmt = false → ∀ j, j < s.st.vec.vl → t.st.mat.raw m h (at_ j).1 (at_ j).2 =
          (if vtEt ty = h.fmt then elemOf (s.v n) w j else (cvt (elemOf (s.v n) w j) (vtEt ty) h.fmt (vtRm ty) (vtSat ty)).1) %
            256 ^ mfSize h.fmt) ∧
        (mfIsPb h.fmt = true → ∀ b, b < ceilDiv s.st.vec.vl 16 → t.st.mat.raw m h x (16 * b) =
          (pbEncode (vtRm ty) (pbK h.fmt) ((List.range 16).map (fun j => if 16 * b + j < s.st.vec.vl
            then etValue (vtEt ty) (elemOf (s.v n) w (16 * b + j)) else .fin false 0 0))).1 % 256 ^ pbBytes h.fmt) ∧
        (∀ off, (∀ j, j < s.st.vec.vl → off < 0x8000 * m + (h.place (at_ j).1 (at_ j).2).1 ∨
          0x8000 * m + (h.place (at_ j).1 (at_ j).2).1 + (h.place (at_ j).1 (at_ j).2).2.1 ≤ off) →
          t.st.mat.bytes.get off = s.st.mat.bytes.get off)) ∧
      (∀ b, b < 5 → t.st.csr.vfflags.getLsbD b = (s.st.csr.vfflags.getLsbD b ||
        if store = false then (List.range s.st.vec.vl).any (fun j => (convIn h.fmt (s.seenMat.raw m h (at_ j).1 (at_ j).2)
          (h.place (at_ j).1 (at_ j).2).2.2 (vtEt ty) (vtRm ty) (vtSat ty)).2.getLsbD b)
        else if mfIsPb h.fmt then (List.range (ceilDiv s.st.vec.vl 16)).any (fun q => (pbEncode (vtRm ty) (pbK h.fmt)
          ((List.range 16).map (fun j => if 16 * q + j < s.st.vec.vl then etValue (vtEt ty) (elemOf (s.v n) w (16 * q + j))
            else .fin false 0 0))).2.getLsbD b)
        else vtEt ty != h.fmt && (List.range s.st.vec.vl).any (fun j =>
          (cvt (elemOf (s.v n) w j) (vtEt ty) h.fmt (vtRm ty) (vtSat ty)).2.getLsbD b))) ∧
      (store = false → t.st.mat = s.st.mat ∧
        (∀ j, j < s.st.vec.vl → elemOf (t.v n) w j = (convIn h.fmt (s.seenMat.raw m h (at_ j).1 (at_ j).2)
          (h.place (at_ j).1 (at_ j).2).2.2 (vtEt ty) (vtRm ty) (vtSat ty)).1 % 2 ^ w) ∧
        (t.v n).toNat / 2 ^ (w * s.st.vec.vl) = (s.v n).toNat / 2 ^ (w * s.st.vec.vl) ∧ (∀ r, r ≠ n → t.v r = s.v r)) ∧
      t.st.vec.vstart = 0 ∧ t.st.sstat.ts = 3 ∧ t.st.x = s.st.x ∧ t.st.f = s.st.f ∧ t.st.vec.k = s.st.vec.k ∧ t.st.vec.o = s.st.vec.o ∧
      s.keepsMem t ∧ t.st.pc = s.nextPc)

/-- TZERO, HLOAD, HLOADS, HSWAP, HMUL, HMULP, HMULF, HACC, HMOV, MNRMZ, MNORM, MATAB and MSCALE complete at issue once their
first-use and other checks pass: the instruction with the operands it captures stands last in the queue, ts is dirty, and no
register, no other tile state and no byte of memory changes. HMOV and HMULF take 0xD2 while vs is off. While ts is off every
other one takes 0xD8, or 0xD9 where it is a sampling instruction, whatever vs holds; HMOV and HMULF then take 0xD8 where vs
is on. HQ completes while ts is on with its answer in x[rd]: query 2 gives 128 rows and 64g columns. (R190, R204, R206,
R207, R224, R227, R54.) -/
def Obligations.MatrixInstructionsIssue : Prop :=
  ∀ (s : State) (i : Instr) (xs : List (BitVec 5)) (x1 x2 : Word) (b : Bool), matArgs i s = some (xs, x1, x2, b) → s.waitsX xs = false →
    (b = true → hoopFirst s i = none → ∃ t, exec i s = .next t ∧ t.st.mat.queue = s.st.mat.queue ++ [s.matOp i x1 x2] ∧
      { t.st.mat with queue := s.st.mat.queue } = s.st.mat ∧ t.st.sstat = { s.st.sstat with ts := 3 } ∧ t.st.x = s.st.x ∧
      t.st.f = s.st.f ∧ t.st.csr = s.st.csr ∧ t.st.vec.v = s.st.vec.v ∧ s.keepsMem t ∧ t.st.pc = s.nextPc) ∧
    (let vec : Prop := ∃ f, i = .hmov f ∨ i = .hmulf f
     (vec → s.st.sstat.vs = 0 → exec i s = trapI s 0xD2 i) ∧
     (vec → s.st.sstat.vs ≠ 0 → s.st.sstat.ts = 0 → exec i s = trapI s 0xD8 i) ∧
     (¬ vec → s.st.sstat.ts = 0 → exec i s = trapI s (if isSampling i then 0xD9 else 0xD8) i)) ∧
    (∀ f : RF, s.waitsX [f.rd] = false →
      (s.st.sstat.ts ≠ 0 → exec (.hq f) s = .next (s.setX f.rd (s.hq f.rs1.toNat)).completed) ∧
      (s.st.sstat.ts = 0 → exec (.hq f) s = trapI s 0xD8 (.hq f))) ∧ s.hq 2 = BitVec.ofNat 64 (128 * 2 ^ 16 + 64 * s.st.br.g)

/-- MSAMP, with ts on, the engines idle, no fence over path M, reserved bits zero, tk not zero or poisoned (its run then meets
the poison) and a legal, placed descriptor that it can read, completes: it captures its operands and the 32 bytes of the
descriptor, clears the statistics, and x[rd] is to come from its end. At the head of the queue, where no poison, soft error,
fence or unobserved copy is in the way, MATAB leaves the words of Vose's table over the masses of the weights, which sum to
k · 2^16, with tk = k; an MSAMP that ends leaves in each accumulator word of its m rows and n columns the samples drawn,
added four by four, and their statistics, and returns their number: no more than asked for, and fewer only where the stop
test holds. No other byte of the tile space changes. (R213, R214, R215, R216, R217, R219, R220, R221, R222, R227.) -/
def Obligations.SamplingIssues : Prop :=
  (∀ (s : State) (o : MatOp) (rest : List MatOp) (m : Mat) (c : Nat), s.st.mat.queue = o :: rest → s.st.mat.poison = [] →
    s.st.eng.unseen = [] → o.flips = [] → o.after = none → s.st.matOpen o = true → s.st.mat.bytes.wf = true → s.st.br.g ≤ 4 →
    s.matTurn = (.done m, c) → s.drawLeaves o m c) ∧
  ∀ (s : State) (f : RF) (ks : List Nat), s.waitsX [f.rs1, f.rs2, f.rd] = false → s.st.sstat.ts ≠ 0 → s.st.mat.queue = [] →
    fieldOf (s.x f.rs1) 32 32 = 0 → fieldOf (s.x f.rs2) 2 3 = 0 → (s.st.mat.bad 0x100008 8 = true ∨ s.st.mat.tk ≠ 0) →
    s.openNow 4 = true →
    let a := (s.x f.rs2).toNat / 32 * 32
    let bs := ks.map (s.readByte 9)
    s.reachesKeys a 32 9 .read ks → s.poisonVa a ks = none → (descOf bs).legal s.st.br.g = true → (descOf bs).misplacedAt = none →
    ∃ t, exec (.msamp f) s = .next t ∧
      t.st.mat.queue = [{ s.matOp (.msamp f) (s.x f.rs1) (s.x f.rs2) with desc := bs }] ∧
      t.st.mat.scount = 0 ∧ t.st.mat.smean = 0 ∧ t.st.mat.svar = 0 ∧ t.st.mat.bytes = s.st.mat.bytes ∧
      t.st.eng.pendX = (if f.rd = 0 then s.st.eng.pendX else s.st.eng.pendX ++ [f.rd.toNat]) ∧ t.st.sstat.ts = 3 ∧
      t.st.x = s.st.x ∧ t.st.f = s.st.f ∧ s.keepsMem t ∧ t.st.pc = s.nextPc

/-- The end of a hoop or sampling instruction performs the head of the queue where it can be performed: the engines hold the
state it makes, the head is gone, and an MSAMP puts its count into x[rd]. A follow-on is performed after its copy has
landed. An engine fault stops the head: what it has done stands, and the fault is held, once for each engine, for an
imprecise trap; no byte of memory changes. Where no poison, soft error, fence or unobserved copy is in the way, an
instruction that reads no memory is performed, but that MATAB may fault; then HACC zeroes its accumulator or multiplies
every word by the scale, rounded once; MSCALE divides every word; MNRMZ clears norms and nlen; MNORM adds each row's sum of
squares, rounded once, to its norm and raises nlen; HLOAD and HLOADS latch the tile's elements, dense or at the places its
metadata name, into the buffer that was the shadow one at issue, from their offset on, and keep or empty the rest (an entry
of kinds 0 and 1 beyond logical K is latched too: log 79); HMUL and HMULP add to each word of the accumulator whose column
has a present weight the product of its row, of a tile or of memory, with the buffer that was active at issue; HMULF
replaces each word pair by the sum of slice products; HMOV writes the tile's elements from the accumulator. Every other byte
of the tile space stays. (R204, R222, R258, R408, R188, R192, R193, R195, R199, R200, R212, R223.) -/
def Obligations.MatrixQueueRuns : Prop :=
  ∀ (s : State) (o : MatOp) (rest : List MatOp) (i : Instr), s.st.mat.queue = o :: rest →
    ((i = .hoopOpComplete ∧ o.after = none ∧ o.isMsamp = false) ∨ (i = .msampEnd ∧ o.isMsamp = true) ∨
        (i = .followOnRun ∧ o.after.isSome = true) →
      ∀ m c, s.matTurn = (.done m, c) → ∃ t, exec i s = .next t ∧ t.st.mat = { m.release o.serial with queue := rest } ∧
        (∀ f, o.i = .msamp f → f.rd ≠ 0 → t.x f.rd = BitVec.ofNat 64 c ∧ t.st.eng.pendX = s.st.eng.pendX.erase f.rd.toNat) ∧
        (∀ r, (∀ f, o.i = .msamp f → r ≠ f.rd) → t.x r = s.x r) ∧ t.st.f = s.st.f ∧ t.st.pc = s.st.pc ∧ t.st.held = s.st.held ∧
        s.keepsMem t) ∧
    (∀ m c k va e, s.matTurn = (.fault m k va e, c) → ∃ t, exec (.engineFault o.src 0 0) s = .next t ∧
      t.st.mat = { m.release o.serial with queue := rest } ∧ t.st.pc = s.st.pc ∧ t.st.f = s.st.f ∧ s.keepsMem t ∧
      ((∀ u ∈ s.st.held, u.code.toNat % 16 ≠ (causeOf k o.src).toNat % 16) → t.st.held = s.st.held ++
        [{ code := causeOf k o.src, stval := BitVec.ofNat 64 (if k = 1 ∨ k = 8 then 0 else va), selem := BitVec.ofNat 64 e,
           sorig := o.pc }])) ∧
    (s.st.mat.poison = [] → s.st.eng.unseen = [] → o.flips = [] → o.after = none → s.st.matOpen o = true → s.st.mat.bytes.wf = true →
      s.st.br.g ≤ 4 → (o.reads = false → (∀ f, o.i ≠ .matab f) → ∃ m, s.matTurn = (.done m, 0)) ∧
        (∀ m c, s.matTurn = (.done m, c) → s.matLeaves o m))

/-- At the head of the queue with nothing holding it and no soft error in it, TZERO sets all 32,768 bytes of its tile to zero,
whatever its tcfg holds, and changes no other byte of the tile space and no tcfg; HSWAP exchanges the active and the shadow
buffer, empty or not, and changes no weight. (R184, R189.) -/
def Obligations.TileZeroAndSwap : Prop :=
  ∀ (s : State) (o : MatOp) (rest : List MatOp) (f : RF), s.st.mat.queue = o :: rest → o.after = none → o.flips = [] → s.st.matOpen o = true →
    s.st.mat.bytes.wf = true →
    (o.i = .tzero f → ∃ t, exec .hoopOpComplete s = .next t ∧
      (∀ off, t.st.mat.bytes.get off =
        if 0x8000 * f.rd.toNat ≤ off ∧ off < 0x8000 * f.rd.toNat + 32768 then 0 else s.st.mat.bytes.get off) ∧
      t.st.mat.tcfg = s.st.mat.tcfg ∧ t.st.mat.latch0 = s.st.mat.latch0 ∧ t.st.mat.latch1 = s.st.mat.latch1) ∧
    (o.i = .hswap f → ∃ t, exec .hoopOpComplete s = .next t ∧
      t.st.mat.activeBuf = s.st.mat.shadowBuf ∧ t.st.mat.shadowBuf = s.st.mat.activeBuf ∧ t.st.mat.bytes = s.st.mat.bytes ∧
      t.st.mat.tcfg = s.st.mat.tcfg)

/-- A copy instruction whose checks pass and whose tag has no copy in flight completes: the tag leaves tagset and tagerr, and
the copy is in flight with its command; an empty copy completes its tag at once. ts becomes dirty where a copy that is not
empty writes the tile space in task mode. CPYF also places its follow-on last in the hoop order, behind that copy. No
register and no byte of memory changes, and every other tag stays. (R251, R253, R254, R256, R258, R260.) -/
def Obligations.CopiesIssue : Prop :=
  ∀ (s : State) (i : Instr) (xs : List (BitVec 5)) (c : CopyCmd) (reps : Option (List Nat)),
    copyOf i s = some (xs, c, reps, true) → s.waitsX xs = false → s.st.eng.tagBusy c.tag = false →
    ∃ t, exec i s = .next t ∧
      t.st.eng.copies = s.st.eng.copies ++ (if c.isEmpty then [] else
        [{ serial := s.st.eng.serial, cmd := c, reps := reps, pc := s.st.pc, err := false, sup := s.sup, done := [],
           errs := [], late := [] }]) ∧
      (∀ b, b < 64 → t.st.eng.tagset.getLsbD b = (if b = c.tag then c.isEmpty else s.st.eng.tagset.getLsbD b) ∧
        t.st.eng.tagerr.getLsbD b = (if b = c.tag then false else s.st.eng.tagerr.getLsbD b)) ∧
      (∀ f fo, i = .cpyf f → followOn (s.x f.rs2) = some fo → ∃ o, t.st.mat.queue = s.st.mat.queue ++ [o] ∧ o.i = fo ∧
        o.after = some s.st.eng.serial) ∧
      ((∀ f, i ≠ .cpyf f) → t.st.mat = s.st.mat) ∧
      (c.dsp = true → c.isEmpty = false → s.sup = false → t.st.sstat.ts = 3) ∧
      ((∀ f, i ≠ .cpyf f) → c.dsp = false ∨ c.isEmpty = true ∨ s.sup = true → t.st.sstat = s.st.sstat) ∧
      t.st.x = s.st.x ∧ t.st.f = s.st.f ∧ t.st.csr = s.st.csr ∧ t.st.vec.v = s.st.vec.v ∧ s.keepsMem t ∧ t.st.pc = s.nextPc

/-- CPYB with a ready strand in resident mode, et i64, VL a multiple of 4, a force that needs no pass and a register whose words
can be read completes. Command q below VL / 4 is issued exactly where k0[4q] is set, it meets R251, R252, R255 and R253, and
no copy on its tag is in flight, those of earlier commands of the batch included; bits 4q to 4q + 3 of k[rd] say whether it
was, and mask bits at or above VL stay. The copies issued stand last in flight in order, each with its command; their tags
leave tagset and tagerr, but that an empty copy sets its tag at once, and every other tag stays. No byte of memory and no
other register changes; at VL = 0 nothing does. A word that cannot be rebuilt takes 0x77, and 0x1B stands for another et or
VL. That the second of two commands with one tag issues where the first was empty, and that 0x1B comes before the force, are
the model's reading (log 38). (R259, R251, R252, R253, R255, R106, R417.) -/
def Obligations.CopyBatchIssues : Prop :=
  ∀ (s : State) (f : RF), s.vecReady [] → vtVill s.st.vec.vtype = false →
    let n := s.st.vec.vl / 4
    let cmd := batchCmd (s.v f.rs1)
    let done := s.batchIssued f n
    let lost := if s.st.vec.vl = 0 then none else s.st.firstLost (wordsOf [f.rs1.toNat] s.st.vec.vl)
    (vtEt s.st.vec.vtype ≠ 4 ∨ s.st.vec.vl % 4 ≠ 0 → exec (.cpyb f) s = trapI s 0x1B (.cpyb f)) ∧
    (vtEt s.st.vec.vtype = 4 → s.st.vec.vl % 4 = 0 → s.forceFree → vtSm s.st.vec.vtype = false →
      (∀ q, lost = some q → exec (.cpyb f) s = trapV ((force s).logLost q.1 q.2 0x77) 0x77 0) ∧
      (lost = none → s.st.vec.vl ≤ 8192 → ∃ t, exec (.cpyb f) s = .next t ∧
        (∀ q j, q < n → j < 4 → (t.st.vec.k[low3 f.rd]).getLsbD (4 * q + j) = done.contains q) ∧
        (∀ j, s.st.vec.vl ≤ j → (t.st.vec.k[low3 f.rd]).getLsbD j = (s.st.vec.k[low3 f.rd]).getLsbD j) ∧
        (∀ j, j ≠ low3 f.rd → t.st.vec.k[j] = s.st.vec.k[j]) ∧
        t.st.eng.copies = s.st.eng.copies ++ ((done.zipIdx.filter (fun p => !(cmd p.1).isEmpty)).map (fun p =>
          { serial := s.st.eng.serial + p.2, cmd := cmd p.1, reps := none, pc := s.st.pc, err := false, sup := s.sup, done := [],
            errs := [], late := [] })) ∧
        (∀ b, b < 64 →
          (t.st.eng.tagset.getLsbD b = if done.any (fun q => (cmd q).tag == b && !(cmd q).isEmpty) then false
            else (s.st.eng.tagset.getLsbD b || done.any (fun q => (cmd q).tag == b))) ∧
          t.st.eng.tagerr.getLsbD b = (s.st.eng.tagerr.getLsbD b && !done.any (fun q => (cmd q).tag == b))) ∧
        (s.st.vec.vl = 0 → t.st.eng = s.st.eng) ∧
        t.st.x = s.st.x ∧ t.st.f = s.st.f ∧ t.st.vec.v = s.st.vec.v ∧ s.keepsMem t ∧ t.st.pc = s.nextPc))

/-- A copy that nothing stops or holds ends: its tag is set, it is no longer in flight, and from memory to memory each byte of
the destination holds the byte of the source at the same place in loop order while every byte outside the destination stays,
where no part of it was performed before. One that stops on a fault sets its tag and the tag's error, drops its follow-on
and posts a record. A multicast replica that stops leaves its copy running without it, with an error to come. (R254, R256,
R257, R439, R440.) -/
def Obligations.CopiesEnd : Prop :=
  ∀ (s : State) (n : Nat) (c : Copy), s.copy? n = some c → s.copyFree c = true → c.cmd.tag < 64 →
    (s.failedReplica c = none → (match s.copyTurn c with | .ends => True | _ => False) →
      ∃ t, exec (.copyComplete n) s = .next t ∧ t.st.eng.tagset.getLsbD c.cmd.tag = true ∧
        t.st.eng.tagerr.getLsbD c.cmd.tag = (c.err || s.st.eng.tagerr.getLsbD c.cmd.tag) ∧
        t.st.eng.copies = s.st.eng.copies.filter (fun d => d.serial != n) ∧ t.st.x = s.st.x ∧ t.st.pc = s.st.pc ∧
        (c.reps = none → c.cmd.ssp = false → c.cmd.dsp = false → s.poison = [] → s.mem.wf = true →
          (s.dstSide c c.cmd.da).keys.Nodup → c.done = [] →
          (∀ j d k : Nat, (s.dstSide c c.cmd.da).keys[j]? = some d → (s.srcSide c).keys[j]? = some k →
            t.mem.get d = s.mem.get k) ∧
          (∀ a, a ∉ (s.dstSide c c.cmd.da).keys → t.mem.get a = s.mem.get a))) ∧
    (s.recCount s.st.fe < 64 →
      (∀ e u k va, s.failedReplica c = none → s.copyTurn c = .stops e u k va →
        ∃ t, exec (.copyFaultStop n) s = .next t ∧ t.st.eng.tagset.getLsbD c.cmd.tag = true ∧
          t.st.eng.tagerr.getLsbD c.cmd.tag = true ∧ t.st.eng.copies = s.st.eng.copies.filter (fun d => d.serial != n) ∧
          (∀ o ∈ t.st.mat.queue, o.after ≠ some n) ∧
          (∃ r, (s.st.fe, r) ∈ t.recq ∧ (c.errs = [] → t.recq = s.recq ++ [(s.st.fe, r)]) ∧ r.w1 = BitVec.ofNat 64 va ∧ fieldOf r.w0 48 8 = (causeOf k u).toNat)) ∧
      (∀ rs r e k va, c.reps = some rs → r ∈ rs → s.copyTurnTo c r = .stops e 12 k va →
        ∃ t, exec (.cpymReplicaStop n r) s = .next t ∧ t.st.eng.tagset = s.st.eng.tagset ∧ t.st.eng.tagerr = s.st.eng.tagerr ∧
          { c with reps := some (rs.filter (fun q => q != r)), err := true } ∈ t.st.eng.copies ∧
          (∃ x, t.recq = s.recq ++ [(s.st.fe, x)] ∧ x.w1 = BitVec.ofNat 64 va)))

/-- TWANY completes once a tag of the mask is set or none of it has a copy in flight, TWALL once none has; TFFR puts the lowest
index of a set tag, or −1, into x[rd]; TCLR clears tagset and tagerr for the tags of the mask with no copy in flight and
leaves the others. Nothing else changes. While TWALL or TWANY waits, a step performs the first copy of the mask that may go
on: that a wait moves the engine is the model's choice (logs 8 and 58). (R261.) -/
def Obligations.TagInstructions : Prop :=
  ∀ (s : State) (f : RF), let m := s.x f.rs1
    let flying := fun b : Nat => s.st.eng.copies.any (fun c => c.cmd.tag == b)
    (s.waitsX [f.rs1] = false →
      (s.st.eng.tagset &&& m ≠ 0 ∨ (∀ c ∈ s.st.eng.copies, m.getLsbD c.cmd.tag = false) → exec (.twany f) s = .next s.completed) ∧
      ((∀ c ∈ s.st.eng.copies, m.getLsbD c.cmd.tag = false) → exec (.twall f) s = .next s.completed) ∧
      (∀ c, s.st.eng.copies.find? (fun c => m.getLsbD c.cmd.tag) = some c → s.copyFree c = true →
        exec (.twall f) s = .next (runCopy s c).ticked ∧
        (s.st.eng.tagset &&& m = 0 → exec (.twany f) s = .next (runCopy s c).ticked)) ∧
      ((∀ c ∈ s.st.eng.copies, c.cmd.tag < 64) → ∃ t, exec (.tclr f) s = .next t ∧ (∀ b, b < 64 →
        t.st.eng.tagset.getLsbD b = (s.st.eng.tagset.getLsbD b && !(m.getLsbD b && !flying b)) ∧
        t.st.eng.tagerr.getLsbD b = (s.st.eng.tagerr.getLsbD b && !(m.getLsbD b && !flying b))) ∧
        { t.st.eng with tagset := s.st.eng.tagset, tagerr := s.st.eng.tagerr } = s.st.eng ∧ t.st.x = s.st.x ∧ s.keepsMem t)) ∧
    (s.waitsX [f.rd] = false → ∃ t, exec (.tffr f) s = .next t ∧ (f.rd ≠ 0 →
        (∀ b, b < 64 → s.st.eng.tagset.getLsbD b = true → (∀ j, j < b → s.st.eng.tagset.getLsbD j = false) →
          t.x f.rd = BitVec.ofNat 64 b) ∧
        (s.st.eng.tagset = 0 → t.x f.rd = -1)) ∧
      (∀ r, r ≠ f.rd → t.x r = s.x r) ∧ t.st.f = s.st.f ∧ s.keepsAround t ∧ s.keepsMem t)

/-- WAITC, after a force where its ld or st field is below 7, completes once no count exceeds its field, 7 setting no limit;
with such a field it takes 0x12 in supervisor mode while a pass is held. FENCEP forces where it names V; before path S it
completes once nothing of the earlier path is outstanding, and path S observes what that path does, and before any other
path it completes at once and, where earlier work is outstanding, the later path is held behind it; one that names V takes
0x12 in supervisor mode while a pass is held. FENCE completes once every path is performed. FENCE.I completes, and the
instruction cache holds nothing older than the strand's own stores, nor than what other writers wrote before a fence that
orders them before path S (what each kind of fence orders for fetches is log 85). None changes a register or a byte of
memory. (R263, R265, R109, R86, R111, R402.) -/
def Obligations.WaitsAndFencesComplete : Prop :=
  ∀ (s : State) (f : IF) (r : RF) (fm pr su : BitVec 4) (q d : BitVec 5) (imm : BitVec 12),
    (let lim := fun lo : Nat => f.imm.toNat / 2 ^ lo % 8
     let s' := if lim 9 = 7 ∧ lim 6 = 7 then s else force s
     let fits := fun n lo : Nat => lim lo = 7 ∨ n ≤ lim lo
     let stuck := (lim 9 ≠ 7 ∨ lim 6 ≠ 7) ∧ s.sup = true ∧ s.st.vec.pass.any (fun p => p.held) = true
     (stuck → exec (.waitc f) s = trapI s' 0x12 (.waitc f)) ∧ (¬ stuck → fits s'.ldCount 9 → fits s'.stCount 6 → fits s'.st.eng.copies.length 3 → fits s'.st.mat.queue.length 0 →
       exec (.waitc f) s = .next s'.completed)) ∧
    (let a := r.rs1.toNat
     let b := r.rs2.toNat
     let s' := if a = 1 ∨ b = 1 then force s else s
     let stuck := (a = 1 ∨ b = 1) ∧ s.sup = true ∧ s.st.vec.pass.any (fun p => p.held) = true
     (stuck → exec (.fencep r) s = trapI s 0x12 (.fencep r)) ∧ (¬ stuck →
      (b = 0 → s'.st.outstanding a 0 s'.st.eng.serial = false → exec (.fencep r) s = .next ((s'.setEng (s'.st.eng.ordered a 0)).fencedFetch a).completed) ∧
      (b ≠ 0 → ∃ t, exec (.fencep r) s = .next t ∧ t.st.pc = s.nextPc ∧ t.st.x = s.st.x ∧ t.st.f = s.st.f ∧ s.keepsMem t ∧
        (s'.st.outstanding a b s'.st.eng.serial = true → t.st.openTo b t.st.eng.serial = false)))) ∧
    ((force s).idle → exec (.fence fm pr su q d) s = .next (force s).observesAll.fencedAll.completed) ∧
    exec (.fenceI imm q d) s = .next ({ s with st := { s.st with icMark := s.wlog.length, icSeen := s.st.icFence } } : State).completed

/-- WMSET of an object number below 64 and a word with reserved bits zero completes: the object holds the word, and every other
object stays. WMGET puts the object word into x[rd]. WMPUB and WMLNK, with reserved bits zero, complete and their attachment
stands pending. A number of 64 or more, and reserved bits that are not zero, take 0x1F. (R266, R267, R291.) -/
def Obligations.WatermarkInstructions : Prop :=
  ∀ (s : State) (f : RF), let n := (s.x f.rs1).toNat
    (∀ c, s.ctxOf? s.st = some c → s.waitsX [f.rs1, f.rs2] = false → n < 64 → fieldOf (s.x f.rs2) 41 22 = 0 →
      ∃ t, exec (.wmset f) s = .next t ∧ (∀ j, j < 64 → t.object j = if j = n then s.x f.rs2 else s.object j) ∧
        t.st.x = s.st.x ∧ t.st.f = s.st.f ∧ s.keepsAround t ∧ s.keepsMem t ∧ t.st.pc = s.nextPc) ∧
    (s.waitsX [f.rs1, f.rd] = false → n < 64 → exec (.wmget f) s = .next (s.setX f.rd (s.object n)).completed) ∧
    (s.waitsX [f.rs1, f.rs2, f.rd] = false → 64 ≤ n → exec (.wmset f) s = trapI s 0x1F (.wmset f) ∧
      exec (.wmget f) s = trapI s 0x1F (.wmget f)) ∧
    (s.waitsX [f.rs1, f.rs2] = false → fieldOf (s.x f.rs2) 41 22 ≠ 0 → exec (.wmset f) s = trapI s 0x1F (.wmset f)) ∧
    (s.vecReady [f.rs1] →
      (fieldOf (s.x f.rs1) 47 17 ≠ 0 → exec (.wmpub f) s = trapI s 0x1F (.wmpub f) ∧ exec (.wmlnk f) s = trapI s 0x1F (.wmlnk f)) ∧
      (fieldOf (s.x f.rs1) 47 17 = 0 → let w := (fieldOf (s.x f.rs1) 0 6, fieldOf (s.x f.rs1) 6 41)
        (∃ t, exec (.wmpub f) s = .next t ∧ { t.st.vec.pk with count := s.st.vec.pk.count } = { s.st.vec.pk with pub := some w } ∧
          t.st.sstat.vs = 3 ∧ t.st.x = s.st.x ∧ s.keepsMem t ∧ t.st.pc = s.nextPc) ∧
        (∃ t, exec (.wmlnk f) s = .next t ∧ { t.st.vec.pk with count := s.st.vec.pk.count } = { s.st.vec.pk with lnk := some w } ∧
          t.st.sstat.vs = 3 ∧ t.st.x = s.st.x ∧ s.keepsMem t ∧ t.st.pc = s.nextPc)))

/-- With every path performed, no arrival unwaited and no request to be lost, BARA completes with an arrival in the next phase.
BARW completes, and the arrival is gone, once every strand of the crew has ended or arrived in its phase; until then it
waits at its pc, and the pass of the phase lets it proceed. BARC arrives and completes where its phase passes at once. An
arrival whose request is lost takes 0xBF, and was posted or not. A second arrival, and a BARW with none, take 0xCF; a wait
of 1 s takes 0xAF. (R271, R291, R410, R438.) -/
def Obligations.BarriersComplete : Prop :=
  ∀ (s : State) (f : RF),
    (s.st.eng.arrival = none → (force s).idle → ∀ tr, s.trip? 15 11 = some tr →
      ∃ u v, exec (.bara f) s = trapV u 0xBF 0 ∧ exec (.barc f) s = trapV v 0xBF 0) ∧
    (s.st.eng.arrival = none → (force s).idle → s.trip? 15 11 = none →
      (∃ t, exec (.bara f) s = .next t ∧ t.st.eng.arrival = some { phase := s.nextPhase, barc := false, waitPc := none } ∧
        t.st.x = s.st.x ∧ t.st.f = s.st.f ∧ s.keepsMem t ∧ t.st.pc = s.nextPc) ∧
      (let a : Arrival := { phase := s.nextPhase, barc := true, waitPc := some s.st.pc }
       ((force s).arrive a).phaseDone a.phase = true → ∃ t, exec (.barc f) s = .next t ∧ t.st.eng.arrival = none ∧ t.st.x = s.st.x ∧
         t.st.f = s.st.f ∧ s.keepsMem t ∧ t.st.pc = s.nextPc)) ∧
    (∀ a, s.st.eng.arrival = some a →
      exec (.bara f) s = trapI s 0xCF (.bara f) ∧
      (s.phaseDone a.phase = true → exec (.barw f) s = .next (s.observesAll.setEng { s.observesAll.st.eng with arrival := none }).completed ∧
        (s.atBarrier = true → exec .barrierPhasePass s = .next (s.observesAll.setEng { s.observesAll.st.eng with arrival := none }).completed)) ∧
      (s.phaseDone a.phase = false → (∃ t, exec (.barw f) s = .next t ∧ t.atBarrier = true ∧ t.st.pc = s.st.pc) ∧
        (s.atBarrier = true → exec .barrierTimeout s = trapV s 0xAF 0))) ∧
    (s.st.eng.arrival = none → exec (.barw f) s = trapI s 0xCF (.barw f))

/-- With every path performed, SIG of kind 1 completes and posts a record of kind 2 with x[rs2] as its address while the record
queue has room; SIG of kind 0, once no earlier event of the strand waits in a record queue, reads 128 bytes at an aligned
global address and gives them to the launch port of its queue. TEND ends the strand: it holds no state any more and its
slots are free; where it was the last of its crew that had not ended, every object that a publication of the task named has
cmp = 1, a task record of kind 0 is posted, of class 0, or of class 1 with the cause, address and element of the first copy
that stopped, and the crew is gone; where it was not, none is posted. SYIELD in supervisor mode with no packet outstanding
leaves its slots held, with the resume vector and sscratch in the leader's record. Memory stays. (R272, R273, R287, R55,
R270.) -/
def Obligations.SignalsAndEnds : Prop :=
  ∀ (s : State) (f : RF), (force s).idle →
    (s.waitsX [f.rs1, f.rs2] = false → fieldOf (s.x f.rs1) 2 8 = 0 → fieldOf (s.x f.rs1) 18 46 = 0 →
      (fieldOf (s.x f.rs1) 0 2 = 1 → s.trip? 15 11 = none → s.recCount s.st.fe < 64 →
        ∃ t r, exec (.sig f) s = .next t ∧ t.recq = s.recq ++ [(s.st.fe, r)] ∧ r.w1 = s.x f.rs2 ∧ fieldOf r.w0 56 8 = 2 ∧
          r.isTask = false ∧ t.st.x = s.st.x ∧ t.st.f = s.st.f ∧ s.keepsMem t ∧ t.st.pc = s.nextPc) ∧
      (∀ ks, fieldOf (s.x f.rs1) 0 2 = 0 → s.trip? 15 11 = none → s.eventWaits = false → (s.x f.rs2).toNat % 64 = 0 → (s.x f.rs2).toNat < 0xFFFFFF0000000000 →
        (force s).reachesKeys (s.x f.rs2).toNat 128 15 .read ks → s.poison = [] →
        let bs := ks.map s.mem.get
        let q := fieldOf (s.x f.rs1) 10 8
        let h := s.st.br.ctx
        exec (.sig f) s = .next ((((force s).line0 h q (BitVec.ofNat 512 (leNat (bs.take 64)))).line1 (stackOf s.st.fe) h q
          (BitVec.ofNat 512 (leNat (bs.drop 64)))).completed))) ∧
    ((s.sup = true ∨ (force s).st.held = []) → s.recCount s.st.fe < 64 → ∃ t, exec (.tend f) s = .next t ∧ t.st = Strand.reset ∧
      (∀ fe ∈ spanOf s.st.fe s.st.br.g, (t.slot fe).state = .free) ∧ s.keepsMem t ∧
      (∀ c, s.crewOf? s.st = some c →
        ((∃ j, j < c.pkt.crew ∧ j ≠ s.st.br.sidx ∧ j ∉ c.ended) → t.recq = s.recq) ∧
        ((∀ j, j < c.pkt.crew → j = s.st.br.sidx ∨ j ∈ c.ended) → t.crewOf? s.st = none ∧
          (∀ x, t.ctx? c.pkt.ctx = some x → ∀ o ∈ c.pubs, o < 64 → (x.object o).getLsbD 63 = true) ∧
          ∃ r, t.recq = s.recq ++ [(s.st.fe, r)] ∧ r.isTask = true ∧ r.ctx = c.pkt.ctx ∧ r.cq = c.pkt.cq ∧ fieldOf r.w0 56 8 = 0 ∧
            fieldOf r.w0 0 32 = c.pkt.task % 2 ^ 32 ∧ r.w3 = s.time ∧
            (c.copyErr = none → fieldOf r.w0 40 4 = 0 ∧ fieldOf r.w0 48 8 = 0 ∧ r.w1 = 0 ∧ r.w2 = 0) ∧
            (∀ w, c.copyErr = some w → fieldOf r.w0 40 4 = 1 ∧ fieldOf r.w0 48 8 = fieldOf w.1 48 8 ∧ r.w1 = w.2.1 ∧ r.w2 = w.2.2)))) ∧
    (s.sup = true → s.st.eng.flight = [] → s.st.eng.replies = [] → ∃ t, exec (.syield f) s = .next t ∧ t.st = Strand.reset ∧
      (∀ fe ∈ spanOf s.st.fe s.st.br.g, (t.slot fe).state = .held) ∧ s.keepsMem t ∧
      (0 < s.st.br.g → (t.slot s.st.fe).br = { s.st.br with vec := s.st.csr.sresume, scr := s.st.csr.sscratch, res := true }))

/-- RAMO with a legal identifier word and an aligned address completes at once: it is outstanding, and x[rd] is to come. At its
target, an identifier that is not in the window has its atomic performed, indivisibly, on the bytes reached, and only on
them; one in the window is not performed again and returns the result recorded. The response writes x[rd]. RAMOQ asks, and
completes with the answer once no RAMO of its identifier is on its way. (R274, R275, R276, R291.) -/
def Obligations.RemoteAtomicsComplete : Prop :=
  ∀ (s : State) (f : RF) (n : Nat) (r : Ramo),
    (s.waitsX [f.rs1, f.rs2, f.rs2 + 1, f.rd] = false → let w := s.x (f.rs2 + 1)
      fieldOf w 16 4 ≤ 8 → fieldOf w 21 43 = 0 → (s.x f.rs1).toNat % (if w.getLsbD 20 then 4 else 8) = 0 →
      ∃ t, exec (.ramo f) s = .next t ∧ t.st.eng.ramos = s.st.eng.ramos ++ [s.newRamo f] ∧
        t.st.eng.pendX = (if f.rd = 0 then s.st.eng.pendX else s.st.eng.pendX ++ [f.rd.toNat]) ∧ t.st.x = s.st.x ∧ t.st.f = s.st.f ∧
        s.keepsMem t ∧ t.st.pc = s.nextPc) ∧
    (s.waitsX [f.rs1, f.rd] = false → (s.x f.rs1).toNat < 2 ^ 16 →
      s.st.eng.ramos.any (fun q => q.res.isNone && q.ident == (s.x f.rs1).toNat) = false →
      (s.st.eng.query ≠ some (f.rd.toNat, (s.x f.rs1).toNat) → ∃ t, exec (.ramoq f) s = .next t ∧ t.st.pc = s.st.pc ∧
        t.st.eng.query = some (f.rd.toNat, (s.x f.rs1).toNat)) ∧
      (s.st.eng.query = some (f.rd.toNat, (s.x f.rs1).toNat) → ∀ i ∈ [Instr.ramoq f, .ramoqAnswer], ∃ t, exec i s = .next t ∧
        t.x f.rd = (if f.rd = 0 then 0 else s.ramoAnswer (s.x f.rs1).toNat) ∧ (∀ q, q ≠ f.rd → t.x q = s.x q) ∧
        t.st.eng.query = none ∧ s.keepsMem t ∧ t.st.pc = s.nextPc)) ∧
    (s.ramo? n = some r → r.res = none → ∀ ks, (match s.ramoTurn r with | .does l => l = ks | _ => False) → s.mem.wf = true →
      s.poison = [] → ks.Nodup → ks.length = r.size →
      let ids := s.window (targetOf (ks.headD 0)) s.st.fe s.st.br.asid
      ∃ t, exec (.ramoAtTarget n) s = .next t ∧ t.st.x = s.st.x ∧ t.st.pc = s.st.pc ∧
        (∀ v, lookup ids r.ident = some v → s.keepsMem t ∧ (∃ q ∈ t.st.eng.ramos, q = { r with res := some v })) ∧
        (lookup ids r.ident = none → let old := leNat (ks.map s.mem.get)
          (∀ j, (h : j < ks.length) → t.mem.get ks[j] =
            BitVec.ofNat 8 (ramoNew r.op (8 * r.size) old r.operand.toNat / 256 ^ j)) ∧
          (∀ k, k ∉ ks → t.mem.get k = s.mem.get k) ∧ (∃ q ∈ t.st.eng.ramos, q = { r with res := some (r.result old) }))) ∧
    (∀ v, s.ramo? n = some r → r.res = some v → r.rd < 32 → ∃ t, exec (.ramoResponse n) s = .next t ∧
      t.x (BitVec.ofNat 5 r.rd) = (if r.rd = 0 then 0 else v) ∧ (∀ q, q ≠ BitVec.ofNat 5 r.rd → t.x q = s.x q) ∧
      t.st.eng.ramos = s.st.eng.ramos.filter (fun q => q.serial != n) ∧ t.st.eng.pendX = s.st.eng.pendX.erase r.rd ∧ s.keepsMem t ∧
      t.st.pc = s.st.pc)

/-- In supervisor mode with vs on, MPKW and MPKR to an aligned base-die address complete while fewer than 16 packets are
unpopped and a tag is free: the packet is sent and x[rd] holds its tag. At the base die a write packet writes exactly the
bytes of its mask, and a read packet returns the 64 bytes as path P observes them. A reply that arrives joins the queue of
replies. MPKP takes the oldest, with its word in x[rd] and, for a read, its data or zeros in o0 to o7; with no packet
outstanding it gives 0. (R281, R282, R283, R284.) -/
def Obligations.PacketsComplete : Prop :=
  ∀ (s : State) (f : RF) (n : Nat),
    let red := s.st.vec.pk.anyRed || s.st.vec.ahead.any (fun a => a.pk.anyRed || a.setsAny)
    (s.sup = true → s.st.sstat.vs ≠ 0 → s.waitsX [f.rs1, f.rs2, f.rd] = false →
      (∀ tag, fieldOf (s.x f.rs1) 40 24 = 0 → (s.x f.rs1).toNat % 64 = 0 → s.st.eng.unpopped < 16 → s.st.eng.freeTag = some tag →
        (red = false → ∃ t p, exec (.mpkw f) s = .next t ∧ t.st.eng.pkts = s.st.eng.pkts ++ [p] ∧ p.tag = tag ∧
          p.addr = s.x f.rs1 ∧ p.isRead = false ∧ p.mask = s.x f.rs2 ∧ (∀ j, (h : j < 8) → p.data.extractLsb' (64 * j) 64 =
            s.st.vec.o[j]) ∧ t.x f.rd = (if f.rd = 0 then 0 else BitVec.ofNat 64 tag) ∧ (∀ r, r ≠ f.rd → t.x r = s.x r) ∧
          s.keepsMem t ∧ t.st.pc = s.nextPc) ∧
        (∃ t p, exec (.mpkr f) s = .next t ∧ t.st.eng.pkts = s.st.eng.pkts ++ [p] ∧ p.tag = tag ∧ p.addr = s.x f.rs1 ∧
          p.isRead = true ∧ t.x f.rd = (if f.rd = 0 then 0 else BitVec.ofNat 64 tag) ∧ (∀ r, r ≠ f.rd → t.x r = s.x r) ∧
          s.keepsMem t ∧ t.st.pc = s.nextPc)) ∧
      (∀ r rest, s.st.eng.replies = r :: rest → (r.isRead = true → red = false) → ∃ t, exec (.mpkp f) s = .next t ∧
        t.st.eng.replies = rest ∧ t.x f.rd = (if f.rd = 0 then 0 else r.word) ∧ (∀ q, q ≠ f.rd → t.x q = s.x q) ∧
        (r.isRead = false → t.st.vec.o = s.st.vec.o) ∧
        (r.isRead = true → ∀ j, (h : j < 8) → t.st.vec.o[j] = if r.cls = 0 then r.data.extractLsb' (64 * j) 64 else 0) ∧
        s.keepsMem t ∧ t.st.pc = s.nextPc) ∧
      (s.st.eng.unpopped = 0 → exec (.mpkp f) s = .next (s.setX f.rd 0).completed)) ∧
    (∀ p, s.st.eng.pkts.find? (fun p => p.serial == n) = some p → s.packetFree p = true →
      s.reaches (stackOf s.st.fe) p.addr.toNat = true → s.reserved = [] → s.poison = [] → s.mem.wf = true →
      ∃ t r, exec (.packetAtBaseDie n) s = .next t ∧ t.st.eng.pkts = s.st.eng.pkts.filter (fun q => q.serial != n) ∧
        t.st.eng.flight = s.st.eng.flight ++ [r] ∧ r.tag = p.tag ∧ r.addr = p.addr ∧ r.cls = 0 ∧ r.isRead = p.isRead ∧
        (p.isRead = true → s.keepsMem t ∧ r.data = BitVec.ofNat 512 (leNat ((List.range 64).map (fun j => s.byteFor 7 (p.addr.toNat + j))))) ∧
        (p.isRead = false → ∀ k, t.mem.get k = if p.addr.toNat ≤ k ∧ k < p.addr.toNat + 64 ∧ p.mask.getLsbD (k - p.addr.toNat)
          then p.data.extractLsb' (8 * (k - p.addr.toNat)) 8 else s.mem.get k)) ∧
    (∀ r, s.st.eng.flight[n]? = some r → ∃ t, exec (.packetReplyArrival n) s = .next t ∧
      t.st.eng.replies = s.st.eng.replies ++ [r] ∧ t.st.eng.flight = s.st.eng.flight.eraseIdx n ∧ t.st.x = s.st.x ∧ s.keepsMem t)

/-- FLD from an address that is a multiple of 4, whose 32 words are reached and all are bobbin instructions, completes with them
in the context it names; vs becomes dirty where the fabric state changes, and stays as it was where it does not (R54; that
an equal value leaves it is log 69, the model's choice). FTOK with a legal token and room completes with the token last in
the pending list. FSTAT puts the status into x[rd]. FRUN with the strand ready in resident mode, a force that needs no pass,
a legal binding and inputs whose words can be read starts a run and completes: every bobbin starts with zero registers at
word 0 of the context that the binding names, and no token stays pending. Memory stays. (R245, R246, R247, R248, R229, R54.) -/
def Obligations.FabricInstructions : Prop :=
  ∀ (s : State) (f : RF),
    (∀ ks, s.vecReady [f.rs1] → (s.x f.rs1).toNat % 4 = 0 → s.openNow 5 = true → s.reachesKeys (s.x f.rs1).toNat 128 10 .read ks →
      s.poisonVa (s.x f.rs1).toNat ks = none → badWord (fabricWords (ks.map (s.readByte 10))) = none →
      ∃ t, exec (.fld f) s = .next t ∧ (let c := if f.rs2 = 0 then t.st.fab.ctx0 else t.st.fab.ctx1
          c.toList = fabricWords (ks.map (s.readByte 10))) ∧
        (if f.rs2 = 0 then t.st.fab.ctx1 = s.st.fab.ctx1 else t.st.fab.ctx0 = s.st.fab.ctx0) ∧ t.st.fab.pending = s.st.fab.pending ∧
        t.st.sstat.vs = (if t.st.fab = s.st.fab then s.st.sstat.vs else 3) ∧ t.st.x = s.st.x ∧ s.keepsMem t ∧ t.st.pc = s.nextPc) ∧
    (s.waitsX [f.rs1, f.rs2, f.rd] = false → s.st.sstat.vs ≠ 0 →
      (let w := s.x f.rs2
       fieldOf w 12 4 ≤ 4 → fieldOf w 16 48 = 0 → s.st.fab.pending.length < 16 → ∃ t, exec (.ftok f) s = .next t ∧
        t.st.fab.pending = s.st.fab.pending ++ [((s.x f.rs1).toNat, w.toNat / 2 ^ 12 % 16, w.toNat % 2 ^ 12)] ∧
        t.st.x = s.st.x ∧ s.keepsMem t ∧ t.st.pc = s.nextPc) ∧
      exec (.fstat f) s = .next (s.setX f.rd s.st.fab.status).completed) ∧
    (s.vecReady [f.rs1] → vtVill s.st.vec.vtype = false → s.forceFree → vtSm s.st.vec.vtype = false →
      frunBad (s.x f.rs1) f.rs2 (!s.st.fab.pending.isEmpty) = false → s.st.firstLost (s.inputWords (s.x f.rs1)) = none →
      ∃ t r, exec (.frun f) s = .next t ∧ t.st.fab.run = some r ∧ r = (force s).newRun (s.x f.rs1) f.rs2 ∧ t.st.fab.pending = [] ∧
        (∀ b ∈ r.bobbins, b.b = Vector.replicate 8 0 ∧ b.tok = 0 ∧ b.pc = 0 ∧ b.ret = 0 ∧ b.halted = false ∧
          b.ctx = if (s.x f.rs1).getLsbD 36 then 1 else 0) ∧
        t.st.x = s.st.x ∧ t.st.f = s.st.f ∧ s.keepsMem t ∧ t.st.pc = s.nextPc)

/-- A word of a bobbin whose turn it is, and which nothing holds back, retires: the bobbin counts one more word, and its pc is
the next index or where the control word leads; HALT halts it, and CTX changes its context. An integer word or a move whose
destination is a b register leaves the result of Table 10.4 there and changes no other b register. The strand's registers,
its pc and memory stay. (R235, R238, R239, R240, R242.) -/
def Obligations.BobbinWordsComplete : Prop :=
  ∀ (s : State) (r : Run) (b : Bobbin) (i : Instr) (f : BW) (extra : List Nat),
    (∃ op, bobbinValue i = some (f, op)) ∧ extra = [] ∨ bobbinOther i = some (f, extra) → s.bobbinFree r b f extra →
    let x := (r.operand b false f f.a 0).1
    let y := (r.operand b false f f.b (if f.a == f.b then 1 else 0)).1
    ∃ t r' b', exec i s = .next t ∧ t.st.fab.run = some r' ∧ r'.bobbins[r.turn]? = some b' ∧ r'.moved = r.cycle + 1 ∧
      b'.count = b.count + 1 ∧ b'.pc = bobbinPc i x b.pc b.ret ∧ b'.halted = (match i with | .bHalt _ => true | _ => false) ∧
      b'.ctx = (match i with | .bCtx _ => 1 - b.ctx | _ => b.ctx) ∧
      (∀ op, bobbinValue i = some (f, op) → (h : f.dst.toNat < 8) → x < 2 ^ 64 → y < 2 ^ 64 →
        b'.b[f.dst.toNat] = BitVec.ofNat 64 (op x y) ∧ (∀ j, (hj : j < 8) → j ≠ f.dst.toNat → b'.b[j] = b.b[j])) ∧
      t.st.x = s.st.x ∧ t.st.f = s.st.f ∧ t.st.vec = s.st.vec ∧ t.st.pc = s.st.pc ∧ s.keepsMem t

/-- A run whose bobbins have all executed HALT, with no fence before it, ends: no run is in flight, the bound output registers
hold what was written, vfflags take its flags, and FSTAT its cycles, whether entries were left and whether values were
dropped. A run in which no bobbin has retired a word for 4,096 cycles, or that has lasted 2^30 cycles with the 32 it starts
in, ends with the fault 0xAA held for an imprecise trap, unless one of the fabric is held already (23 R396; that the count
of 4,096 begins after the start cycles is log 91): sorig holds the pc of the FRUN and selem the lowest-numbered bobbin that
has not halted. (R243, R244, R248.) -/
def Obligations.FabricRunsEnd : Prop :=
  ∀ (s : State) (r : Run), s.st.fab.run = some r →
    (r.allHalted = true → s.st.openTo 5 r.serial = true → ∃ t, exec .fabricRunEnd s = .next t ∧ t.st.fab.run = none ∧
      t.st.fab.cyc = min (32 + (r.lastHalt + 1) + 16) 0xFFFFFF ∧ t.st.fab.fault = false ∧ t.st.fab.left = r.remains ∧
      t.st.fab.drop = r.drop ∧ t.st.csr.vfflags = s.st.csr.vfflags ||| r.flags ∧ t.st.held = s.st.held ∧
      (∀ q, (h : q < 32) → r.qo0 ≠ some q → r.qo1 ≠ some q → t.st.vec.v[q] = s.st.vec.v[q]) ∧
      (∀ q, (h : q < 32) → r.qo1 = some q → t.st.vec.v[q] = r.w1) ∧
      (∀ q, (h : q < 32) → r.qo0 = some q → r.qo1 ≠ some q → t.st.vec.v[q] = r.w0) ∧
      t.st.x = s.st.x ∧ s.keepsMem t ∧ t.st.pc = s.st.pc) ∧
    (r.allHalted = false → (r.moved + 4096 ≤ r.cycle ∨ 2 ^ 30 ≤ 32 + r.cycle) → ∃ t, exec .fabricRunTimeout s = .next t ∧ t.st.fab.run = none ∧
      t.st.fab.fault = true ∧ ((∀ u ∈ s.st.held, u.code.toNat % 16 ≠ 10) → ∃ e, t.st.held = s.st.held ++ [e] ∧ e.code = 0xAA ∧ e.sorig = r.pc ∧
        ∃ j b, r.bobbins[j]? = some b ∧ b.halted = false ∧ (∀ k c, k < j → r.bobbins[k]? = some c → c.halted = true) ∧
          e.selem = BitVec.ofNat 64 j) ∧
      t.st.x = s.st.x ∧ s.keepsMem t ∧ t.st.pc = s.st.pc)

/-- A pass in flight that nothing stops, with nothing queued behind it, ends: no pass is in flight and, in resident mode, no v
name is pending. A pass of one stream stores each element converted to its format at the address of its index, the highest
element where several write a byte, or applies the atomic to the bytes there; and the register that it loads holds the bytes
of each address, converted. A pass that meets a fault leaves the fault held with its cause, stval, element and origin,
unless one of the vector engine is held already; kinds 7, 8 and 11 squash it, with v and k registers as at its start (a
write that kind 11 loses may have been performed), and any other kind holds it where its complete groups end. A hardware
error that the pass can meet at an active element joins what stops it, and one that it cannot meet there changes nothing
(log 65, the model's choice). A pass that waits, on a page or on its watermark, runs on with its complete groups performed
(which, is log 18, the model's choice); a linked stream faults after 1 s with kind A. In a state whose memory has its
canonical form no byte changes but those the sinks write; no x register does. At a boundary the force that is due takes
place, in task mode the oldest held fault traps with sepc at the next instruction, or at the permutation where it is the
0x77 of one that waited in the command queue (log 23, the model's choice; a fault that the entry's force raises is held
after those, log 41), and a crew being pre-empted takes 0xEF. (R88, R269, R392, R398, R400, R401, R406, R85, R396, R55,
R161, R166.) -/
def Obligations.PassesAndBoundaries : Prop :=
  ∀ (s : State) (p : Pass),
    (s.mem.wf = true → s.st.vec.pass = some p → p.held = false → s.st.passOpen p = true → let pl := p.plan s
      let frame := fun t : State => t.st.x = s.st.x ∧ t.st.f = s.st.f ∧ t.st.pc = s.st.pc ∧
        ∀ k, (∀ np ∈ pl.puts ++ ({ p with errs := [] }.plan s).puts, ∀ q ∈ np.2, k ∉ q.keys) → t.mem.get k = s.mem.get k
      let stops := fun (t : State) (e : Nat) (n : Node) (kind src va : Nat) => frame t ∧
        (s.st.held.any TrapInfo.ofPass = true → t.st.held = s.st.held) ∧
        (s.st.held.any TrapInfo.ofPass = false → ∃ h, t.st.held = s.st.held ++ [h] ∧ h.code = causeOf kind src ∧
          h.selem = BitVec.ofNat 64 e ∧ h.sorig = n.pc ∧ h.stval = if kind = 10 ∨ kind = 8 then 0 else BitVec.ofNat 64 va) ∧
        (if squashes kind = true then t.st.vec.pass = none ∧ t.st.vec.v = p.v ∧ t.st.vec.k = p.k
         else ∃ q, t.st.vec.pass = some q ∧ q.held = true ∧
           q.chk = max p.chk (min (p.groupStart n e s.st.lanes) (p.floor pl s.st.lanes)))
      let goesOn := fun t : State => frame t ∧ t.st.held = s.st.held ∧
        ∃ q, t.st.vec.pass = some q ∧ q.held = false ∧ q.chk = max p.chk (p.floor pl s.st.lanes)
      ((match p.turn pl s.st.lanes with | .ends => True | _ => False) → s.st.vec.ahead = [] → ∃ t, exec .passEnd s = .next t ∧
        t.st.vec.pass = none ∧ frame t ∧ t.st.held = s.st.held ∧ (p.stream = false → ∀ q, (h : q < 32) → t.st.vec.pk.vb[q] = none)) ∧
      (∀ e n kind src va, p.turn pl s.st.lanes = .faults e n kind src va →
        ∃ t, exec (.passFault none) s = .next t ∧ stops t e n kind src va) ∧
      (∀ e n h, p.turn pl s.st.lanes = .waits e n h → h ≠ .link → ∃ t, exec .passEnd s = .next t ∧ goesOn t) ∧
      (∀ e n, p.turn pl s.st.lanes = .waits e n .link → (∃ t, exec .linkedStreamRelease s = .next t ∧ goesOn t) ∧
        (∃ t, exec .linkedStreamTimeout s = .next t ∧ stops t e n 10 n.src 0)) ∧
      (∀ kind slot e, let u := s.passError kind slot e
        exec (.passFault (some (kind, slot, e))) s = exec (.passFault none) u ∧
        (∀ n, p.errAt s slot e = some n → (errSrc s.st.br.prot n kind).isSome = true →
          u.st.vec.pass = some { p with errs := p.errs ++ [{ slot := slot, elem := e, kind := kind }] } ∧ s.keepsMem u) ∧
        ((∀ n, p.errAt s slot e = some n → errSrc s.st.br.prot n kind = none) → u = s))) ∧
    (∀ (n : Node) (ra rb : Fin 32) (ks : Nat → List Nat), s.mem.wf = true → s.poison = [] → s.st.vec.bad = [] → s.st.vec.ahead = [] →
      s.st.eng.unseen = [] → s.st.vec.pass = some p → p.held = false → s.st.passOpen p = true → p.pk.nodes = [n] → p.nodes = [n] →
      p.chk = 0 → p.errs = [] → p.flips = [] → p.done = [] → p.wrote = [] → p.kept = [] → p.shadow = [] →
      n.mask = none → n.wm = none → mfIsPb n.fmt = false → (n.op.isLoad = false → n.a = .vreg ra) →
      (n.op = .loadx ∨ n.op = .storex ∨ n.op = .amo → n.b = .vreg rb) →
      let elem := fun (r : Fin 32) (i : Nat) => elemOf p.v[r] n.w i
      let at_ := fun i : Nat => wrap 64 (n.base.toNat + (if n.op = .load ∨ n.op = .store then (i : Int) * n.stride.toInt
        else sgn n.w (elem rb i) * (if n.scaled = true then (mfSize n.fmt : Int) else 1)))
      let use : Use := if n.op.isLoad = true then .read else if n.op = .amo then .atomic else .write
      (∀ i, i < n.vl → s.probe p.sup n (at_ i) use = .ok (ks i) ∧ (ks i).Nodup ∧ (ks i).length = n.size) →
      (n.op = .store ∨ n.op = .storex → ∃ t, exec .passEnd s = .next t ∧ ∀ i j k, i < n.vl → (ks i)[j]? = some k →
        (∀ l, i < l → l < n.vl → k ∉ ks l) → t.mem.get k = BitVec.ofNat 8 ((n.storeConv (elem ra i)).1 / 256 ^ j)) ∧
      (n.op = .amo → ∃ t, exec .passEnd s = .next t ∧ ∀ i j k, i < n.vl → (ks i)[j]? = some k →
        (∀ l, l ≠ i → l < n.vl → ∀ k ∈ ks i, k ∉ ks l) → let old := leNat ((ks i).map s.mem.get)
        t.mem.get k = BitVec.ofNat 8 ((if etFloat (vtEt n.vtype) = false ∧ n.sel = 0 then (old + elem ra i) % 2 ^ n.w
          else if n.sel = 3 then old ||| elem ra i else (amoElem n old (elem ra i)).1) / 256 ^ j)) ∧
      (n.op.isLoad = true → p.stream = false → n.w * n.vl ≤ 65536 → ∀ q : Fin 32, p.pk.vb[q] = some (n.slot, 0) →
        ∃ t, exec .passEnd s = .next t ∧ ∀ i, i < n.vl →
          elemOf t.st.vec.v[q] n.w i = (n.loadConv i (leNat ((ks i).map s.mem.get))).1 % 2 ^ n.w) ∧
      (∀ i raw, n.fmt = vtEt n.vtype → n.storeConv raw = (raw, 0) ∧ n.loadConv i raw = (raw, 0))) ∧
    (s.forceDue = true → exec .dueForce s = .next (force s).ticked) ∧
    (s.st.run = .bound → s.sup = false → s.st.csr.stvec ≠ 0 →
      (∀ h rest, s.st.held = h :: rest → ∃ t, exec .impreciseTrapEntry s = .next t ∧ t.st.pc = s.st.csr.stvec ∧
        t.st.csr.stval = h.stval ∧ t.st.csr.selem = h.selem ∧
        (h.code ≠ 0x77 → t.st.csr.sepc = s.st.pc ∧ t.st.csr.sorig = h.sorig ∧ t.st.csr.scause = causeWord h.code true (fatal h.code true)) ∧
        (h.code = 0x77 → t.st.csr.sepc = h.sorig ∧ t.st.csr.sorig = 0 ∧ t.st.csr.scause = 0x277) ∧ t.st.sstat.mode = true ∧ t.st.sstat.pmode = false ∧
        (t.st.held = rest ∨ ∃ g, t.st.held = rest ++ [g]) ∧ t.st.x = s.st.x ∧ s.keepsMem t) ∧
      (s.st.sstat.pp = true → s.st.held = [] → s.atIteration = true → ∃ t, exec .preEmptTrap s = .next t ∧
        t.st.pc = s.st.csr.stvec ∧ t.st.csr.sepc = s.st.pc ∧ t.st.csr.scause = 0xEF ∧ t.st.csr.stval = 0 ∧ t.st.sstat.mode = true ∧
        t.st.x = s.st.x ∧ s.keepsMem t))

/-- A whole write of line 0 makes the port hold it; one of line 1 after it appends the packet to the queue, or counts a refusal
and, at a usable address, posts a record of cause 0x1F with the first reason that holds, through the firmware of the
coordinator (log 47, the model's choice); without line 0, and for any other write, it counts a refusal. With no route left a
write is lost (log 56, the model's choice). The first ready task, if it fits, becomes a crew with the lowest free number
(log 49, the model's choice); a task that does not fit takes the reservation. Aging moves no packet; a ready task that has
aged counts one more. Only begun crews of lower queue priority than a ready task are pre-empted; for a task that does not
fit, some are where all of them together free enough slots, and none of a higher queue priority before those of a lower. An
emptied stack, with none of its task's that drains, fixes its clock (log 50, the model's choice). Strands and memory stay.
(R340, R341, R342, R343, R352, R353, R355.) -/
def Obligations.LaunchAndScheduling : Prop :=
  ∀ (s : State),
    (∀ (asid q : Nat) (data : BitVec 512) (c d : Context), asid < 16384 → q < 256 → s.ctxAsid? asid = some c →
      s.ctx? c.handle = some d → s.dieReaches 0 s.fw.coordinator = true → let u := d.queue q
      let port := fun (i : Instr) (p : State → Queue → Prop) => ∃ t e, exec i s = .next t ∧ t.ctx? c.handle = some e ∧
        p t (e.queue q) ∧ (∀ j, j ≠ q → e.queue j = d.queue j) ∧ t.st = s.st ∧ s.keepsMem t
      let counted := (u.refused + 1) % 2 ^ 16
      port (.launchLine0Write asid q data) (fun _ v => v = { u with half := some data }) ∧
      port (.portWriteDiscard asid q) (fun _ v => v = { u with refused := counted }) ∧
      (u.half = none → port (.launchLine1Write asid q data) (fun _ v => v = { u with refused := counted })) ∧
      (∀ a, u.half = some a → let p := launchOf a data
        (launchBad a p c.handle u.waiting.length = none → port (.launchLine1Write asid q data) (fun _ v =>
          v = { u with half := none, waiting := u.waiting ++ [{ pkt := p, age := 0, cnum := none, at_ := s.tick }] })) ∧
        (∀ r, launchBad a p c.handle u.waiting.length = some r → port (.launchLine1Write asid q data) (fun t v =>
          v = { u with half := none, refused := counted } ∧ (cqUsable p.cq = true → ∃ x,
            t.recq = s.recq ++ [((if 64 ≤ s.recCount (512 + s.fw.coordinator) then 1024 else 512) + s.fw.coordinator, x)] ∧ fieldOf x.w0 48 8 = 0x1F ∧ fieldOf x.w0 40 4 = 1 ∧
            fieldOf x.w2 0 41 = r ∧ x.ctx = c.handle ∧ x.cq = p.cq))))) ∧
    (∀ (asid q : Nat) (data : BitVec 512), asid < 16384 → q < 256 → s.dieReaches 0 s.fw.coordinator = false →
      ∀ i ∈ [Instr.launchLine0Write asid q data, .launchLine1Write asid q data, .portWriteDiscard asid q], exec i s = .next s.ticked) ∧
    (s.fw.lockFor = none →
      (s.order = [] → ∃ t, exec .taskPlacement s = .next t ∧ t.fw.crews = s.fw.crews ∧ t.fw.reservation = none) ∧
      (∀ t0 rest ps c n, s.order = t0 :: rest → t0.w.pkt.lc = false → s.tryPlace t0 (s.availFor s.order t0) = (ps, true) →
        s.ctx? t0.ctx = some c → t0.w.cnum = none → s.freeCnum = some n → ∃ t k, exec .taskPlacement s = .next t ∧
        k ∈ t.fw.crews ∧ k.cnum = n ∧ k.pkt = t0.w.pkt ∧ k.leaders = leadersAfter [] ps t0.w.pkt.crew ∧ t.st = s.st ∧ s.keepsMem t) ∧
      (∀ t0, s.order = [t0] → t0.w.pkt.lc = false → t0.w.cnum = none → s.fw.reservation = none → (s.tryPlace t0 s.freeFes).2 = false →
        ∃ t r, exec .taskPlacement s = .next t ∧ t.fw.reservation = some r ∧ r.ctx = t0.ctx ∧ r.queue = t0.queue ∧ r.eff = t0.eff ∧
          t.fw.crews = s.fw.crews ∧ t.st = s.st ∧ s.keepsMem t)) ∧
    (∃ t, exec .priorityAging s = .next t ∧ t.st = s.st ∧ s.keepsMem t ∧ t.fw.crews = s.fw.crews ∧
      ((∀ r ∈ s.ready, Config.aged s.tick r.ctx r.queue = false) → t = s.ticked) ∧
      (∀ r d w ws, s.ready = [r] → s.ctx? r.ctx = some d → (d.queue r.queue).waiting = w :: ws →
        ∃ e, t.ctx? r.ctx = some e ∧ (e.queue r.queue).waiting =
          { w with age := w.age + (if Config.aged s.tick r.ctx r.queue then 1 else 0) } :: ws)) ∧
    (∃ t, exec .preEmptionDecision s = .next t ∧ t.st.x = s.st.x ∧ t.st.pc = s.st.pc ∧ s.keepsMem t ∧
      (∀ c ∈ t.fw.crews, c.pp = true → ∃ d ∈ s.fw.crews, d.same c = true ∧ (d.pp = true ∨ ∃ r ∈ s.ready, s.yieldsTo r.eff d = true)) ∧
      (∀ r rest, s.order = r :: rest → r.w.pkt.lc = false → s.fw.reservation = none → (∀ c ∈ s.fw.crews, c.pp = false) →
        s.fw.crews.Pairwise (fun a b => a.same b = false) → (s.tryPlace r s.freeFes).2 = false →
        let cs := s.fw.crews.filter (fun c => s.yieldsTo r.eff c)
        let u := s.without cs
        let hit := fun c : Crew => ∃ d ∈ t.fw.crews, d.same c = true ∧ d.pp = true
        (u.tryPlace r u.freeFes).2 = true →
        (∃ c ∈ cs, hit c) ∧ (∀ c ∈ cs, ∀ d ∈ cs, c.pri < d.pri → hit d → hit c) ∧ (∀ c ∈ cs, hit c → s.st.ofCrew c = true → t.st.sstat.pp = true))) ∧
    (∀ stack, stack < 8 → stack ∈ s.fw.locking → s.stackEmpty stack = true →
      (s.fw.locking ++ s.entered).any s.draining = false → s.lockTask.isSome = true →
      (∃ k ∈ s.fw.locking, k ≠ stack) → ∃ t, exec (.lockedClockEntry stack) s = .next t ∧ t.fw.locked = s.fw.locked ++ [stack] ∧
        t.fw.locking = s.fw.locking.filter (fun k => k != stack) ∧ t.st = s.st ∧ s.keepsMem t)

/-- A free slot is held, a held one whose record passes the checks is armed, and any other stays held with an interrupt; of two
records that name one half and are armed in the same cycle (when, is log 76, the model's choice) the lower front end has it.
An armed slot goes back to held and a held one is freed. Lent slots follow their leader, and have no change of their own. A
word of a record is written while the slot is free or held and ignored later. A crew whose records are all armed starts: its
front ends are starting and the scratchpads that its records scrub read zero. A starting strand is bound with its registers
of the launch in task mode, or in supervisor mode at its resume vector. A deadline gives up the page faults of a crew being
pre-empted, and kills the crew, one of a locked-clock task with hold set apart, which meets neither, with the stval and
origin of its last trap in the record (of which strand, is log 48, and that it stops at once log 68, the model's choices). A
killed task leaves no crew, and a record of class 2. A front end above 511 is no unit of the package (noSuchUnit, the
model's fault). (R21, R346, R347, R348, R349, R350, R31, R447, R411.) -/
def Obligations.SlotsAndStarts : Prop :=
  ∀ (s : State) (fe ctx cnum : Nat),
    (fe < 512 → s.follows fe = false → let u := s.slot fe
      let others := fun t : State => (∀ f, f ≠ fe → s.lentTo fe f = false → t.slot f = s.slot f) ∧ t.st = s.st ∧ s.keepsMem t
      let sets := fun (i : Instr) (to_ : SlotState) => ∃ t, exec i s = .next t ∧ t.slot fe = { u with state := to_ } ∧
        (∀ f, s.lentTo fe f = true → t.slot f = { s.slot f with state := to_ }) ∧ others t
      (u.state = .free → sets (.slotHold fe) .held) ∧
      (u.state = .held → s.armOk fe = true → sets (.slotArm fe) .armed) ∧
      (∀ f, u.state = .held → s.armOk fe = false → s.rival fe = some f → s.lentTo fe f = false → fe < f ∧ ∃ t, exec (.slotArm fe) s = .next t ∧
        (t.slot fe).state = .armed ∧ (t.slot f).state = .held ∧ s.keepsMem t ∧ t.st = s.st ∧ .interrupt (stackOf f) f ∈ t.host) ∧
      (u.state = .held → s.armOk fe = false → s.rival fe = none → ∃ t, exec (.slotArm fe) s = .next t ∧ (∀ f, t.slot f = s.slot f) ∧ t.st = s.st ∧
        s.keepsMem t ∧ t.host = s.host ++ [.interrupt (stackOf fe) fe]) ∧
      (u.state = .armed → sets (.slotDisarm fe) .held) ∧
      (u.state = .held → sets (.slotFree fe) .free)) ∧
    (fe < 512 → s.follows fe = true → ∀ i ∈ [Instr.slotHold fe, .slotArm fe, .slotDisarm fe, .slotFree fe], exec i s = .next s.ticked) ∧
    (fe < 512 → let u := s.slot fe
      (∀ word value,
        (u.state = .free ∨ u.state = .held → ∃ t, exec (.bindRecordWrite fe word value) s = .next t ∧
          t.slot fe = { u with br := u.br.put word value } ∧ (∀ f, f ≠ fe → t.slot f = s.slot f) ∧ t.st = s.st ∧ s.keepsMem t) ∧
        (u.state ≠ .free → u.state ≠ .held → exec (.bindRecordWrite fe word value) s = .next s.ticked)) ∧
      (∀ c, u.state = .starting → u.br.lent = false → s.crew? u.br.ctx u.br.cnum = some c → c.kill = none →
        ∃ t n, exec (.strandStart fe) s = .next t ∧ (∀ f ∈ spanOf fe u.br.g, (t.slot f).state = .bound) ∧
          (if s.st.run = .unbound then t.st = n ∧ t.others = s.others else t.st = s.st ∧ t.others = s.others ++ [n]) ∧
          n.run = .bound ∧ n.fe = fe ∧ n.pc = u.br.vec ∧ n.br = u.br ∧ n.csr.stvec = u.br.tvec ∧ n.csr.sscratch = u.br.scr ∧
          n.x[0] = 0 ∧ n.sstat.mode = u.br.res ∧ n.sstat.pp = c.pp ∧ n.mat.tcfg = Vector.replicate 8 0 ∧
          (u.br.res = false → n.lanes = s.lanesOf u.br.prot u.br.listed ∧ n.x[10] = BitVec.ofNat 64 c.pkt.n ∧
            n.x[11] = BitVec.ofNat 64 u.br.sidx ∧ n.x[12] = BitVec.ofNat 64 c.pkt.crew ∧
            ∀ j, (h : j < 10) → n.x[13 + j] = c.pkt.args[j]) ∧ s.keepsMem t)) ∧
    (512 ≤ fe → ∀ i ∈ [Instr.slotHold fe, .slotArm fe, .slotDisarm fe, .slotFree fe, .strandStart fe],
      exec i s = .fault (.noSuchUnit fe)) ∧
    (∀ c, s.crew? ctx cnum = some c →
      (s.crewReady c = true → ∃ t, exec (.crewArmed ctx cnum) s = .next t ∧ t.st = s.st ∧ ∀ r ∈ s.crewRecords ctx cnum .armed,
        0 < r.2.g → (t.slot r.1).state = .starting ∧
        (r.2.scrub = true → ∀ o, o < 524288 → t.mem.get (scratchKey r.1 0 + o) = 0)) ∧
      (c.mayLapse = true → ∃ t, exec (.pageFaultDeadline ctx cnum) s = .next t ∧ t.st = s.st ∧ s.keepsMem t ∧
        (∀ w ∈ t.pfWaits, w.fe ∈ c.liveLeaders → w.src ≠ 31 → w.mig = false → w.gaveUp = true) ∧
        ∀ w ∈ s.pfWaits, w.mig = true → w ∈ t.pfWaits) ∧
      (c.mayLapse = false → ∀ i ∈ [Instr.pageFaultDeadline ctx cnum, .preEmptionDeadline ctx cnum], exec i s = .next s.ticked) ∧
      (c.mayLapse = true → c.gone = false → ∃ t, exec (.preEmptionDeadline ctx cnum) s = .next t ∧
        (∀ d, t.crew? ctx cnum = some d → d.kill.isSome = true ∧
          (c.kill = none → d.kill = some (0xFF, (s.lastTrap c).1, 2, (s.lastTrap c).2))) ∧
        (s.st.ofCrew c = true → t.st = s.st.stop) ∧ s.keepsMem t) ∧
      (∀ k, c.kill = some k → s.recCount (c.leaders.headD 0) < 64 → ∃ t r, exec (.killTaskComplete ctx cnum) s = .next t ∧
        t.crew? ctx cnum = none ∧ (c.leaders.headD 0, r) ∈ t.recq ∧ r.isTask = true ∧ fieldOf r.w0 40 4 = 2 ∧ r.ctx = ctx ∧
        r.cq = c.pkt.cq))

/-- The oldest record of a queue, its turn come, is written whole into the next slot of its ring and the write index goes up by
one; while the ring is full it stays (how the ring is reached is log 53, the model's choice). A fault record and its status
go to the host. The mailbox takes one command at a time. A context is created with the lowest free ASID where the pools fit,
and refused otherwise (the ASID, the handle, the results and what a busy mailbox does are log 40, the model's choice);
destroying it leaves no waiting packet (log 52, the model's choice); a queue takes a priority below 8. Killing a task leaves
none of its packets waiting. A shootdown answers the waits it covers. A granule change makes the region read as zero, and is
refused while an entry maps a frame in it. (R344, R345, R357, R311, R313, R342, R304, R306, R314, R442, R443, R444.) -/
def Obligations.RecordsAndMailbox : Prop :=
  ∀ (s : State),
    let cmd := fun code : Nat => { s with fw := { s.fw with code := BitVec.ofNat 64 code, status := 0, cmd := true, results := [] } }
    (∀ (fe : Nat) (r : Rec) (c : Context) (k kw kr : Nat), fe < 520 → s.firstRec fe = some r → s.recFree fe r = true →
      s.ctx? r.ctx = some c → s.fw.contexts.all (fun d => !d.dying) = true → s.poison = [] → s.mem.wf = true →
      (match s.recAt fe c r.task r.cq.toNat .read with | .key j => j = k | _ => False) → s.headerOk k = true →
      let w := fun i => s.mem.val (k + 8 * i) 8
      ∀ i ∈ [Instr.completionRecordWrite fe, .headerReread fe],
        ((w 2 + 2 ^ 64 - w 3) % 2 ^ 64 = w 1 → exec i s = .next s.ticked) ∧
        ((w 2 + 2 ^ 64 - w 3) % 2 ^ 64 ≠ w 1 →
          (match s.recAt fe c r.task (r.cq.toNat + 16) .write with | .key j => j = kw | _ => False) →
          (match s.recAt fe c r.task ((w 0 + 32 * (w 2 % w 1)) % 2 ^ 64) .write with | .key j => j = kr | _ => False) →
          (kw + 8 ≤ kr ∨ kr + 32 ≤ kw) → ∃ t, exec i s = .next t ∧ t.recq = (if 512 ≤ fe then pullRec s.time fe (dropRec fe s.recq) else dropRec fe s.recq) ∧
            (∀ j, j < 32 → t.mem.get (kr + j) = r.bytes.getD j 0) ∧ t.mem.val kw 8 = (w 2 + 1) % 2 ^ 64 ∧
            (∀ a, ¬ (kr ≤ a ∧ a < kr + 32) → ¬ (kw ≤ a ∧ a < kw + 8) → t.mem.get a = s.mem.get a))) ∧
    (∀ (stack : Nat) (value : Word), stack < 8 → let b := s.faultBuf stack
      (∀ r rest, b.recs = r :: rest → ∃ t, exec (.faultRecordToHost stack) s = .next t ∧
        t.host = s.host ++ [.pageFault stack r b.extra] ∧ t.faultBuf stack = ({ b with recs := rest } : FaultBuf).pull s.time) ∧
      (∃ t, exec (.faultBufferStatusWrite stack value) s = .next t ∧ t.faultBuf stack =
        { b with ovf := b.ovf && !value.getLsbD 63, heldn := if value.getLsbD 32 then 0 else b.heldn })) ∧
    (∀ (root tvec w0 w1 w2 w3 : Word) (pool : Vector Nat 8) (keep : Bool) (ctx queue pri : Nat) (task : BitVec 32)
      (change : Option (Nat × Nat)), s.fw.cmd = true → ∀ i ∈ [Instr.createContext root tvec pool keep, .destroyContext ctx,
        .setQueue ctx queue pri, .killTask ctx task, .shootdown w0 w1 w2 w3, .granuleRegions change], exec i s = .next s.ticked) ∧
    (∀ (root tvec : Word) (pool : Vector Nat 8) (keep : Bool) (a : Nat), s.fw.cmd = false → s.freeAsid = some a →
      (let fits := (List.range 8).all (fun k => poolOk (pool.toList.getD k 0) &&
          decide (s.poolGiven k + pool.toList.getD k 0 ≤ 1440 * 2 ^ 20))
       (fits = true → ∃ t c, exec (.createContext root tvec pool keep) s = .next t ∧ t.fw.contexts = s.fw.contexts ++ [c] ∧
         c.handle = s.fw.nextHandle ∧ c.asid = a ∧ c.root = root.toNat / 65536 * 65536 ∧ c.tvec = tvec ∧ c.pool = pool ∧ c.keep = keep ∧ c.queues = [] ∧ c.dying = false ∧
         t.fw.results = [BitVec.ofNat 64 c.handle, BitVec.ofNat 64 a] ∧ t.fw.status = 2 ^ 63 ∧ s.keepsMem t) ∧
       (fits = false → exec (.createContext root tvec pool keep) s = .next (cmd 1).refuse.ticked))) ∧
    s.refuse.fw.status % 2 ^ 16 ≠ 0 ∧
    (∀ (ctx queue pri : Nat) (task : BitVec 32), s.fw.cmd = false →
      (s.ctx? ctx = none → ∀ i ∈ [(Instr.destroyContext ctx, 2), (.setQueue ctx queue pri, 3), (.killTask ctx task, 4)],
        exec i.1 s = .next (cmd i.2).refuse.ticked) ∧
      (∀ c, s.ctx? ctx = some c →
        (∃ t, exec (.destroyContext ctx) s = .next t ∧ ∀ d ∈ t.fw.contexts, d.handle = ctx → d.dying = true ∧
          ∀ q ∈ d.queues, q.2.waiting = []) ∧
        (256 ≤ queue ∨ 8 ≤ pri → exec (.setQueue ctx queue pri) s = .next (cmd 3).refuse.ticked) ∧
        (queue < 256 → pri < 8 → ∃ t d, exec (.setQueue ctx queue pri) s = .next t ∧ t.ctx? ctx = some d ∧
          d.queue queue = { c.queue queue with pri := pri } ∧ t.fw.status = 2 ^ 63 ∧ s.keepsMem t) ∧
        (∃ t, exec (.killTask ctx task) s = .next t ∧ t.fw.status = 2 ^ 63 ∧ s.keepsMem t ∧ ∀ d ∈ t.fw.contexts, d.handle = ctx →
          ∀ q ∈ d.queues, ∀ w ∈ q.2.waiting, w.pkt.task ≠ task.toNat))) ∧
    (∀ (w0 w1 w2 w3 : Word), s.fw.cmd = false → fieldOf w0 16 2 < 3 → fieldOf w0 14 2 = 0 → fieldOf w0 18 46 = 0 → fieldOf w3 1 63 = 0 →
      (fieldOf w0 16 2 = 0 → w1.toNat % 2 ^ 16 = 0) → ∃ t h, exec (.shootdown w0 w1 w2 w3) s = .next t ∧ t.shoots = s.shoots ++ [h] ∧
        h.asid = fieldOf w0 0 14 ∧ h.scope = fieldOf w0 16 2 ∧ h.first = w1.toNat / 2 ^ 16 ∧ h.pages = w2.toNat ∧
        h.giveUp = w3.getLsbD 0 ∧ t.fw.status = 0 ∧ t.fw.cmd = true ∧ s.keepsMem t) ∧
    (∀ (n : Nat) (h : Shoot), s.shoots[n]? = some h → ∃ t, exec (.shootdownComplete n) s = .next t ∧ t.fw.status = 2 ^ 63 ∧
      t.shoots = s.shoots.eraseIdx n ∧ s.keepsMem t ∧
      t.fw.cmd = false ∧ (h.giveUp = true → ∀ w ∈ t.pfWaits, h.covers s w = true → w.gaveUp = true ∧ w.mig = false) ∧
      (h.giveUp = false → ∀ w ∈ s.pfWaits, w ∈ t.pfWaits ↔ w.gaveUp = true ∨ h.covers s w = false)) ∧
    (s.fw.cmd = false → ∃ t, exec (.granuleRegions none) s = .next t ∧ t.fw.results = (List.range 1024).map s.regionWord ∧ s.keepsMem t) ∧
    (∀ (r code : Nat), s.fw.cmd = false → s.reserved.contains r = false →
      let mapped := s.fw.contexts.any (fun c => mapsRegion s.mem r c.root [2, 1, 0])
      (r < 1024 → code < 5 → mapped = false → ∃ t, exec (.granuleRegions (some (r, code))) s = .next t ∧ t.granCode r = code ∧
        t.fw.status = 2 ^ 63 ∧ ∀ k, r * 2 ^ 30 ≤ k → k < (r + 1) * 2 ^ 30 → t.mem.get k = 0) ∧
      (1024 ≤ r ∨ 5 ≤ code ∨ mapped = true → exec (.granuleRegions (some (r, code))) s = .next (cmd 6).refuse.ticked))

/-- An update of a unit that is being updated is answered with status 3, while the first goes on, and an unsigned one ends with
1; any other stands pending, and a coordinator hands its role on. It completes, once a stack has drained, with the new image
active; a failed self-test leaves the old one active and the new one invalid with status 2, and a drain that takes too long
ends it with 4. Every image that is run extends its measurement register; Measurements return the registers of a stack, and
an SPDM request those with their signature (what an image measures is log 77, the model's choice). The host link trains at a
legal width and rate (which, is log 78, the model's choice). Reset leaves every strand unbound, no crew, no context, the
lowest answering core as coordinator, and the memory of the package zero (what reset and a takeover keep is log 57, and that
memory reads zero log 3, the model's choices). A takeover gives the role to the lowest core that answers. A command that
finds the mailbox busy is not taken (log 40), and a unit above 35 is none of the package (noSuchUnit, the model's fault).
(R29, R24, R27, R359, R360, R448, R449, R356.) -/
def Obligations.UpdatesResetAndTakeover : Prop :=
  ∀ (s : State) (unit image : Nat) (signed : Bool),
    let cmd := fun code : Nat => { s with fw := { s.fw with code := BitVec.ofNat 64 code, status := 0, cmd := true, results := [] } }
    (unit < 36 → let u := s.image unit
      (u.busy = true → exec (.update unit image signed) s =
        .next ({ s with fw := { s.fw with status := 2 ^ 63 + 3, results := [] } } : State).ticked) ∧
      (u.busy = false → s.fw.cmd = true → exec (.update unit image signed) s = .next s.ticked) ∧
      (u.busy = false → s.fw.cmd = false → signed = false → exec (.update unit image signed) s = .next ((cmd 7).reply 1 []).ticked) ∧
      (u.busy = false → s.fw.cmd = false → signed = true → ∃ t, exec (.update unit image signed) s = .next t ∧
        t.image unit = { u with pending := image, busy := true, draining := decide (unit < 8) } ∧ t.fw.status = 0 ∧
        (∀ k, k ≠ unit → t.image k = s.image k) ∧
        (unit < 8 → s.fw.coordinator = unit → (∃ k ∈ s.fw.answering, k ≠ unit) →
          t.fw.coordinator ∈ s.fw.answering ∧ t.fw.coordinator ≠ unit) ∧ s.keepsMem t) ∧
      (u.busy = true → 8 ≤ unit ∨ s.stackEmpty unit = true →
        (∃ t, exec (.updateComplete unit) s = .next t ∧ (t.image unit).active = !u.active ∧ (t.image unit).busy = false ∧
          (if u.active then (t.image unit).a = u.pending ∧ (t.image unit).validA = true
           else (t.image unit).b = u.pending ∧ (t.image unit).validB = true) ∧ t.fw.status = 2 ^ 63 ∧
          t.measurement unit = Config.extended (s.measurement unit) (Config.imageDigest unit u.pending) ∧
          (∀ l ∈ unitLinks unit, l ∉ t.down) ∧ s.keepsMem t) ∧
        (∃ t, exec (.updateSelfTestTimeout unit) s = .next t ∧ (t.image unit).active = u.active ∧ (t.image unit).busy = false ∧
          (if u.active then (t.image unit).validA = false else (t.image unit).validB = false) ∧ t.fw.status = 2 ^ 63 + 2 ∧
          t.measurement unit = Config.extended (Config.extended (s.measurement unit) (Config.imageDigest unit u.pending))
            (Config.imageDigest unit u.current) ∧
          (∀ l ∈ unitLinks unit, l ∈ t.down) ∧ s.keepsMem t)) ∧
      (u.draining = true → s.stackEmpty unit = false → ∃ t, exec (.updateDrainTimeout unit) s = .next t ∧
        t.image unit = { u with busy := false, draining := false } ∧ t.fw.status = 2 ^ 63 + 4 ∧ t.st = s.st)) ∧
    (36 ≤ unit → ∀ i ∈ [Instr.update unit image signed, .updateComplete unit, .updateSelfTestTimeout unit, .updateDrainTimeout unit],
      exec i s = .fault (.noSuchUnit unit)) ∧
    (∀ stack, stack < 8 →
      (s.fw.cmd = true → exec (.measurements stack) s = .next s.ticked) ∧
      (s.fw.cmd = false → ∃ t, exec (.measurements stack) s = .next t ∧ t.fw.results = (s.measured stack).flatMap digestWords ∧
        t.fw.status = 2 ^ 63 ∧ s.keepsMem t) ∧
      (∃ t, exec (.spdmRequest stack) s = .next t ∧ t.host = s.host ++ [.spdm stack (s.measured stack) (Config.signature (s.measured stack))] ∧ t.st = s.st ∧ s.keepsMem t)) ∧
    (∀ width rate, (linkLegal width rate = true → ∃ t, exec (.hostLinkTraining width rate) s = .next t ∧
        t.fw.link = some (width, rate) ∧ t.st = s.st ∧ s.keepsMem t) ∧
      (linkLegal width rate = false → exec (.hostLinkTraining width rate) s = .next s.ticked)) ∧
    (∃ t, exec .reset s = .next t ∧ t.st = Strand.reset ∧ t.others = [] ∧ t.fw.crews = [] ∧ t.fw.contexts = [] ∧ t.slots = [] ∧
      t.recq = [] ∧ (∀ a, isHost a = false → t.mem.get a = 0) ∧ t.halves = s.halves ∧ t.host = s.host ∧
      (∀ k ∈ s.fw.answering, k < 8 → t.fw.coordinator ≤ k ∧ t.fw.coordinator ∈ s.fw.answering)) ∧
    (∃ t, exec .coordinatorTakeover s = .next t ∧ t.st = s.st ∧ s.keepsMem t ∧
      ((∃ k ∈ s.fw.answering, k ≠ s.fw.coordinator) → t.fw.coordinator ∈ s.fw.answering ∧ t.fw.coordinator ≠ s.fw.coordinator ∧
        (∀ k ∈ s.fw.answering, k ≠ s.fw.coordinator → t.fw.coordinator ≤ k) ∧ t.fw.reservation = none))

/-- A resent flit and a change of route change nothing; a link that fails is down and logged. A timeout of a read is answered by
another send; a lost write or atomic of the scalar path, of a spill, fill, frame or segment move, or of a signal (sources 1,
7 and 15) is met at its next access; with the sources from which nothing is left to meet, 0, 2, 3, 5 and 8 to 11, nothing
changes; a RAMOQ that is not answered writes 2. A write of 64 bytes from outside the package changes the bytes it enables
and no other, and a read returns the line; with no route left it is lost (log 56, the model's choice). Calibration ends an
undervolting floor and brings a link up. A patrol that finds an error logs it, and poisons a granule that cannot be
corrected. Sixteen events raise a domain by one step, and decide after a second count between a floor and a self-test, which
retires what it finds faulty. The numbers of links and domains are log 55, which request a loss takes log 59, and the
counting of events log 72, the model's choices. (R436, R437, R438, R445, R316, R337, R358, R359, R430, R431, R433.) -/
def Obligations.LinksAndMaintenance : Prop :=
  ∀ (s : State),
    (∀ link, link < 14 → exec (.linkFlitResend link) s = .next s.ticked ∧ exec (.routeChange link) s = .next s.ticked ∧
      (link ∈ s.down → exec (.linkDown link) s = .next s.ticked) ∧
      (link ∉ s.down → ∃ t e, exec (.linkDown link) s = .next t ∧ t.down = s.down ++ [link] ∧ t.host = s.host ++ [e] ∧ t.st = s.st ∧
        s.keepsMem t)) ∧
    (∀ src n, (src ≠ 16 → exec (.responseTimeout src n false) s = .next s.ticked ∧ ∃ t, exec (.responseTimeout src n true) s = .next t) ∧
      (src ∈ [0, 2, 3, 5, 8, 9, 10, 11] → exec (.responseTimeout src n true) s = .next s.ticked) ∧
      (src ∈ [1, 7, 15] → exec (.responseTimeout src n true) s =
        .next (s.setEng { s.st.eng with trips := s.st.eng.trips ++ [{ src := src, kind := 11, elem := n, again := false }] }).ticked)) ∧
    (∀ (rd : BitVec 5) id n lost, s.st.eng.query = some (rd.toNat, id) → ∃ t, exec (.responseTimeout 16 n lost) s = .next t ∧
      t.x rd = (if rd = 0 then 0 else 2) ∧ (∀ q, q ≠ rd → t.x q = s.x q) ∧ t.st.eng.query = none ∧ s.keepsMem t ∧ t.st.pc = s.nextPc) ∧
    (∀ (port addr : Nat) (wr : Option (BitVec 512 × BitVec 64)), port < 16 → isHbm addr = true → addr % 64 = 0 →
      s.reserved.contains (addr / 2 ^ 30) = false → s.poison = [] → s.mem.wf = true →
      ∀ i ∈ [(Instr.hostCxlMemAccess addr wr, 0), (.peerRequest port addr wr, port / 8)],
        (s.dieReaches i.2 (addr / 2 ^ 37) = false → exec i.1 s = .next s.ticked) ∧
        (s.dieReaches i.2 (addr / 2 ^ 37) = true → ∃ t, exec i.1 s = .next t ∧ t.st.x = s.st.x ∧
        (∀ d, wr = some d → ∀ k, t.mem.get k = if addr ≤ k ∧ k < addr + 64 ∧ d.2.getLsbD (k - addr)
          then d.1.extractLsb' (8 * (k - addr)) 8 else s.mem.get k) ∧
        (wr = none → s.keepsMem t ∧ t.host = s.host ++ [.read addr (s.mem.bytes addr 64) false]))) ∧
    (∀ d, d < 1088 → ∃ t, exec (.calibration d) s = .next t ∧ t.domain d = { s.domain d with floor := 0 } ∧ t.st = s.st ∧ s.keepsMem t) ∧
    (∀ l, l < 14 → ∃ t, exec (.calibration (1608 + l)) s = .next t ∧ l ∉ t.down ∧ (∀ k, k ≠ l → (k ∈ t.down ↔ k ∈ s.down)) ∧
      t.st = s.st ∧ s.keepsMem t) ∧
    (∀ addr found, isHbm addr = true → ∃ t, exec (.patrolScrub addr found) s = .next t ∧ t.st = s.st ∧ s.keepsMem t ∧
      (found = 0 → t = s.ticked) ∧ (found < 4 → s.poisonedAt addr = true → t = s.ticked) ∧
      (s.poisonedAt addr = false →
        (s.failed = [] → found = 1 ∨ found = 2 → t.poison = s.poison ∧ ∃ e m es, t.host = s.host ++ e :: m :: es ∧ (found = 1 → es = [])) ∧
        (found = 3 → t.poison = s.poison ++ [s.unitOf addr] ∧ ∃ e m, t.host = s.host ++ [e, m]))) ∧
    (∀ d, d < 1088 → let v := s.domain d
      (s.fw.locked.contains (domainStack d) = false →
        (16 ≤ v.events → v.recount = false → ∃ t, exec (.undervoltStep d) s = .next t ∧ t.st = s.st ∧ s.keepsMem t ∧
          t.domain d = { v with events := 0, steps := v.steps + 1, recount := true }) ∧
        (v.events < 16 → exec (.undervoltStep d) s = .next s.ticked) ∧
        (v.recount = true → ∃ t, exec (.undervoltRecountEnd d) s = .next t ∧ t.st = s.st ∧ s.keepsMem t ∧ t.domain d =
          if v.events < 16 then { v with events := 0, floor := v.floor + 1, recount := false }
          else { v with events := 0, recount := false, test := true })) ∧
      (∀ bad, v.test = true → s.domainLive d = false → ∃ t, exec (.domainSelfTest d bad) s = .next t ∧ t.st = s.st ∧ s.keepsMem t ∧
        t.domain d = { v with test := false } ∧
        (d < 576 → ∀ j h, (domainHalves d)[j]? = some h → j ∈ bad → (t.halfRec h).retired = true) ∧
        (576 ≤ d → bad ≠ [] → d - 576 ∈ t.feRetired)))

/-- In a state in which nothing else is ready, a step fetches the word at the pc and executes the instruction it decodes to; a
word that decodes to nothing is illegal. The word fetched is the four bytes at the pc, the lowest first, where they are
reached, hold no poison and have no older word in the cache (log 85, the model's choice); a pc that is no multiple of 4,
which a trap entry or a resume can lead to, takes 0x50 (log 74, the model's choice). A run in the middle of a cycle executes
its next bobbin word, and an event of the package at the head of the inputs takes effect. (R108, R111, R124, R242.) -/
def Obligations.StepRunsDecoded : Prop :=
  ∀ (s : State),
    (s.quiet = true → ∀ (w : IWord) (t : State), s.fetch = .val w t →
      (∀ i, decode w = .ok i → step s = exec i t) ∧ (∀ r, decode w = .error r → step s = exec (.illegalInstruction w) t)) ∧
    (s.st.pc.toNat % 4 ≠ 0 → s.fetch = .trap 0x50 s.st.pc s) ∧
    (∀ ks, s.st.pc.toNat % 4 = 0 → s.reachesKeys s.st.pc.toNat 4 0 .fetch ks → s.fetchOver ks = [] → s.poison = [] →
      s.fetch = .val (BitVec.ofNat 32 (leNat (ks.map s.mem.get))) s) ∧
    (∀ i, s.inbox = [] → s.midCycle = some i → step s = exec i s) ∧
    (∀ fe i rest, s.inbox = .event fe i :: rest → ofPackage i = true → step s = exec i { s with inbox := rest })

/-- A word of each format, with its fields written out from the encoding tables, decodes to its instruction: of RISC-V, and of
the V, VM, K, R and I formats and of a bobbin. A word of a compressed parcel, one with a prefix of longer instructions, one
in a major opcode that is not implemented, one with an unassigned op, f7, f3, slot, selector or class, and the zero word
decode to nothing. (R108, R117, R119, R120, R121, R123, R124, R237.) -/
def Obligations.DecodeWords : Prop :=
  decode 0b00000000010100001000000110010011 = .ok (.scalarInstruction (.opImm .addi 3 1 5)) ∧
  decode 0b00000000001000001000000110110011 = .ok (.scalarInstruction (.opReg .add 3 1 2)) ∧
  decode 0x00000073 = .ok .ecall ∧
  decode 0b00000000011000101000000110001011 = .ok (.vadd { nb := false, m := false, bk := 0, ak := false, b := 6, a := 5, d := 3 }) ∧
  decode 0b10001000100001000000010001011011 = .ok (.vld { mf := 8, m := true, sub := 0, b := 8, a := 8, d := 8 }) ∧
  decode 0b00000000001100100110001011011011 = .ok (.kand { k3 := 0, b := 3, a := 4, d := 5 }) ∧
  decode 0b00000000001100100101001011011011 = .ok (.vsetl { rs2 := 3, rs1 := 4, rd := 5 }) ∧
  decode 0b00000000001100100111001011011011 = .ok (.vsetli { imm := 3, rs1 := 4, rd := 5 }) ∧
  decodeBobbin 0b00000001001100100001000000000000 = .ok (.bSub { dst := 3, a := 2, b := 1, imm := 0 }) ∧
  decodeBobbin 0b11000001111111111111000000000000 = .ok (.bHalt { dst := 15, a := 15, b := 15, imm := 0 }) ∧
  (∀ w ∈ ([0x00000000, 0x00000001, 0x0000001F, 0x0000003F, 0x0000007F, 0x00000057,
      0b11110000001100100110001011011011, 0b11111110001100100101001011011011, 0b00000000000000000111000001111011,
      0b11000000000000000111000000101011] : List IWord), (decode w).isOk = false) ∧
  (∀ w ∈ ([0b01000001001100100001000000000000, 0b11110001001100100001000000000000, 0b11001111111111111111000000000000] : List IWord),
    (decodeBobbin w).isOk = false)

/-- For every well-formed instruction that has a word, decoding that word gives the instruction back, with every operand: a
strand's instruction through decode and a bobbin's through decodeBobbin. And a word that decodes is the encoding of the
well-formed instruction it decodes to. (R108, R117, R118, R119, R120, R121, R123, R124, R237.) -/
def Obligations.DecodeOfEncode : Prop :=
  (∀ (i : Instr) (w : IWord), i.WellFormed → encode i = some w →
    (((bobbinValue i).isSome || (bobbinOther i).isSome) = false → decode w = .ok i) ∧
    (((bobbinValue i).isSome || (bobbinOther i).isSome) = true → decodeBobbin w = .ok i)) ∧
  (∀ (i : Instr) (w : IWord), decode w = .ok i ∨ decodeBobbin w = .ok i → i.WellFormed ∧ encode i = some w)

/-- From every state in which memory is in canonical form, and in every strand x0 holds zero, the loop stack has at most six
levels and vslip lies from 1 to 16, every step leads to such a state. The canonical form is the model's own. (R36, R277,
R46.) -/
def Obligations.GoodIsKept : Prop :=
  ∀ (s t : State), s.good = true → step s = .next t → t.good = true

/-- At reset the invariant holds; no strand is bound, no task is known, all memory of the package reads zero (log 3: what an
unlisted byte reads as is the model's choice), every slot is free and the coordinator is stack 0 (log 6, the model's
choice). What an unbound strand holds is log 1, the model's choice: every x register zero, the mode task, vmt global memory
and vslip 4. (R24, R29, R350, R46.) -/
def Obligations.ResetState : Prop :=
  State.reset.good = true ∧ State.reset.st.run = .unbound ∧ State.reset.others = [] ∧ State.reset.fw.crews = [] ∧
    State.reset.fw.contexts = [] ∧ (∀ a, State.reset.mem.get a = 0) ∧ (∀ r, State.reset.x r = 0) ∧
    State.reset.st.sstat.mode = false ∧ State.reset.st.csr.vmt = 0 ∧ State.reset.st.csr.vslip = 4 ∧
    (∀ fe, (State.reset.slot fe).state = .free) ∧ State.reset.fw.coordinator = 0
end

