-- ==== Sys2Proof/Laws/State.lean ====
section
/-! SUPPORT. Laws/State.lean: what each update of the state leaves as it was, one lemma per field and update, and what it sets. -/

namespace Sys2Proof.Machine

/-! ## setX -/

@[simp] theorem State.setX_run (s : State) (r : BitVec 5) (v : Word) : (s.setX r v).st.run = s.st.run := by unfold State.setX; split <;> rfl
@[simp] theorem State.setX_fe (s : State) (r : BitVec 5) (v : Word) : (s.setX r v).st.fe = s.st.fe := by unfold State.setX; split <;> rfl
@[simp] theorem State.setX_lanes (s : State) (r : BitVec 5) (v : Word) : (s.setX r v).st.lanes = s.st.lanes := by unfold State.setX; split <;> rfl
@[simp] theorem State.setX_act (s : State) (r : BitVec 5) (v : Word) : (s.setX r v).st.act = s.st.act := by unfold State.setX; split <;> rfl
@[simp] theorem State.setX_degraded (s : State) (r : BitVec 5) (v : Word) : (s.setX r v).st.degraded = s.st.degraded := by unfold State.setX; split <;> rfl
@[simp] theorem State.setX_br (s : State) (r : BitVec 5) (v : Word) : (s.setX r v).st.br = s.st.br := by unfold State.setX; split <;> rfl
@[simp] theorem State.setX_boundAt (s : State) (r : BitVec 5) (v : Word) : (s.setX r v).st.boundAt = s.st.boundAt := by unfold State.setX; split <;> rfl
@[simp] theorem State.setX_pc (s : State) (r : BitVec 5) (v : Word) : (s.setX r v).st.pc = s.st.pc := by unfold State.setX; split <;> rfl
@[simp] theorem State.setX_f (s : State) (r : BitVec 5) (v : Word) : (s.setX r v).st.f = s.st.f := by unfold State.setX; split <;> rfl
@[simp] theorem State.setX_frm (s : State) (r : BitVec 5) (v : Word) : (s.setX r v).st.frm = s.st.frm := by unfold State.setX; split <;> rfl
@[simp] theorem State.setX_fflags (s : State) (r : BitVec 5) (v : Word) : (s.setX r v).st.fflags = s.st.fflags := by unfold State.setX; split <;> rfl
@[simp] theorem State.setX_loops (s : State) (r : BitVec 5) (v : Word) : (s.setX r v).st.loops = s.st.loops := by unfold State.setX; split <;> rfl
@[simp] theorem State.setX_backEdge (s : State) (r : BitVec 5) (v : Word) : (s.setX r v).st.backEdge = s.st.backEdge := by unfold State.setX; split <;> rfl
@[simp] theorem State.setX_resv (s : State) (r : BitVec 5) (v : Word) : (s.setX r v).st.resv = s.st.resv := by unfold State.setX; split <;> rfl
@[simp] theorem State.setX_instret (s : State) (r : BitVec 5) (v : Word) : (s.setX r v).st.instret = s.st.instret := by unfold State.setX; split <;> rfl
@[simp] theorem State.setX_sstat (s : State) (r : BitVec 5) (v : Word) : (s.setX r v).st.sstat = s.st.sstat := by unfold State.setX; split <;> rfl
@[simp] theorem State.setX_csr (s : State) (r : BitVec 5) (v : Word) : (s.setX r v).st.csr = s.st.csr := by unfold State.setX; split <;> rfl
@[simp] theorem State.setX_vec (s : State) (r : BitVec 5) (v : Word) : (s.setX r v).st.vec = s.st.vec := by unfold State.setX; split <;> rfl
@[simp] theorem State.setX_fab (s : State) (r : BitVec 5) (v : Word) : (s.setX r v).st.fab = s.st.fab := by unfold State.setX; split <;> rfl
@[simp] theorem State.setX_mat (s : State) (r : BitVec 5) (v : Word) : (s.setX r v).st.mat = s.st.mat := by unfold State.setX; split <;> rfl
@[simp] theorem State.setX_eng (s : State) (r : BitVec 5) (v : Word) : (s.setX r v).st.eng = s.st.eng := by unfold State.setX; split <;> rfl
@[simp] theorem State.setX_held (s : State) (r : BitVec 5) (v : Word) : (s.setX r v).st.held = s.st.held := by unfold State.setX; split <;> rfl
@[simp] theorem State.setX_icMark (s : State) (r : BitVec 5) (v : Word) : (s.setX r v).st.icMark = s.st.icMark := by unfold State.setX; split <;> rfl
@[simp] theorem State.setX_icFence (s : State) (r : BitVec 5) (v : Word) : (s.setX r v).st.icFence = s.st.icFence := by unfold State.setX; split <;> rfl
@[simp] theorem State.setX_icSeen (s : State) (r : BitVec 5) (v : Word) : (s.setX r v).st.icSeen = s.st.icSeen := by unfold State.setX; split <;> rfl
@[simp] theorem State.setX_others (s : State) (r : BitVec 5) (v : Word) : (s.setX r v).others = s.others := by unfold State.setX; split <;> rfl
@[simp] theorem State.setX_mem (s : State) (r : BitVec 5) (v : Word) : (s.setX r v).mem = s.mem := by unfold State.setX; split <;> rfl
@[simp] theorem State.setX_wlog (s : State) (r : BitVec 5) (v : Word) : (s.setX r v).wlog = s.wlog := by unfold State.setX; split <;> rfl
@[simp] theorem State.setX_poison (s : State) (r : BitVec 5) (v : Word) : (s.setX r v).poison = s.poison := by unfold State.setX; split <;> rfl
@[simp] theorem State.setX_grans (s : State) (r : BitVec 5) (v : Word) : (s.setX r v).grans = s.grans := by unfold State.setX; split <;> rfl
@[simp] theorem State.setX_reserved (s : State) (r : BitVec 5) (v : Word) : (s.setX r v).reserved = s.reserved := by unfold State.setX; split <;> rfl
@[simp] theorem State.setX_fw (s : State) (r : BitVec 5) (v : Word) : (s.setX r v).fw = s.fw := by unfold State.setX; split <;> rfl
@[simp] theorem State.setX_slots (s : State) (r : BitVec 5) (v : Word) : (s.setX r v).slots = s.slots := by unfold State.setX; split <;> rfl
@[simp] theorem State.setX_lastArm (s : State) (r : BitVec 5) (v : Word) : (s.setX r v).lastArm = s.lastArm := by unfold State.setX; split <;> rfl
@[simp] theorem State.setX_halves (s : State) (r : BitVec 5) (v : Word) : (s.setX r v).halves = s.halves := by unfold State.setX; split <;> rfl
@[simp] theorem State.setX_recq (s : State) (r : BitVec 5) (v : Word) : (s.setX r v).recq = s.recq := by unfold State.setX; split <;> rfl
@[simp] theorem State.setX_windows (s : State) (r : BitVec 5) (v : Word) : (s.setX r v).windows = s.windows := by unfold State.setX; split <;> rfl
@[simp] theorem State.setX_oldRoots (s : State) (r : BitVec 5) (v : Word) : (s.setX r v).oldRoots = s.oldRoots := by unfold State.setX; split <;> rfl
@[simp] theorem State.setX_pfWaits (s : State) (r : BitVec 5) (v : Word) : (s.setX r v).pfWaits = s.pfWaits := by unfold State.setX; split <;> rfl
@[simp] theorem State.setX_idents (s : State) (r : BitVec 5) (v : Word) : (s.setX r v).idents = s.idents := by unfold State.setX; split <;> rfl
@[simp] theorem State.setX_frames (s : State) (r : BitVec 5) (v : Word) : (s.setX r v).frames = s.frames := by unfold State.setX; split <;> rfl
@[simp] theorem State.setX_images (s : State) (r : BitVec 5) (v : Word) : (s.setX r v).images = s.images := by unfold State.setX; split <;> rfl
@[simp] theorem State.setX_host (s : State) (r : BitVec 5) (v : Word) : (s.setX r v).host = s.host := by unfold State.setX; split <;> rfl
@[simp] theorem State.setX_inbox (s : State) (r : BitVec 5) (v : Word) : (s.setX r v).inbox = s.inbox := by unfold State.setX; split <;> rfl
@[simp] theorem State.setX_tick (s : State) (r : BitVec 5) (v : Word) : (s.setX r v).tick = s.tick := by unfold State.setX; split <;> rfl

/-! ## setF -/

@[simp] theorem State.setF_run (s : State) (r : BitVec 5) (v : Word) : (s.setF r v).st.run = s.st.run := rfl
@[simp] theorem State.setF_fe (s : State) (r : BitVec 5) (v : Word) : (s.setF r v).st.fe = s.st.fe := rfl
@[simp] theorem State.setF_lanes (s : State) (r : BitVec 5) (v : Word) : (s.setF r v).st.lanes = s.st.lanes := rfl
@[simp] theorem State.setF_act (s : State) (r : BitVec 5) (v : Word) : (s.setF r v).st.act = s.st.act := rfl
@[simp] theorem State.setF_degraded (s : State) (r : BitVec 5) (v : Word) : (s.setF r v).st.degraded = s.st.degraded := rfl
@[simp] theorem State.setF_br (s : State) (r : BitVec 5) (v : Word) : (s.setF r v).st.br = s.st.br := rfl
@[simp] theorem State.setF_boundAt (s : State) (r : BitVec 5) (v : Word) : (s.setF r v).st.boundAt = s.st.boundAt := rfl
@[simp] theorem State.setF_pc (s : State) (r : BitVec 5) (v : Word) : (s.setF r v).st.pc = s.st.pc := rfl
@[simp] theorem State.setF_x (s : State) (r : BitVec 5) (v : Word) : (s.setF r v).st.x = s.st.x := rfl
@[simp] theorem State.setF_frm (s : State) (r : BitVec 5) (v : Word) : (s.setF r v).st.frm = s.st.frm := rfl
@[simp] theorem State.setF_fflags (s : State) (r : BitVec 5) (v : Word) : (s.setF r v).st.fflags = s.st.fflags := rfl
@[simp] theorem State.setF_loops (s : State) (r : BitVec 5) (v : Word) : (s.setF r v).st.loops = s.st.loops := rfl
@[simp] theorem State.setF_backEdge (s : State) (r : BitVec 5) (v : Word) : (s.setF r v).st.backEdge = s.st.backEdge := rfl
@[simp] theorem State.setF_resv (s : State) (r : BitVec 5) (v : Word) : (s.setF r v).st.resv = s.st.resv := rfl
@[simp] theorem State.setF_instret (s : State) (r : BitVec 5) (v : Word) : (s.setF r v).st.instret = s.st.instret := rfl
@[simp] theorem State.setF_sstat (s : State) (r : BitVec 5) (v : Word) : (s.setF r v).st.sstat = s.st.sstat := rfl
@[simp] theorem State.setF_csr (s : State) (r : BitVec 5) (v : Word) : (s.setF r v).st.csr = s.st.csr := rfl
@[simp] theorem State.setF_vec (s : State) (r : BitVec 5) (v : Word) : (s.setF r v).st.vec = s.st.vec := rfl
@[simp] theorem State.setF_fab (s : State) (r : BitVec 5) (v : Word) : (s.setF r v).st.fab = s.st.fab := rfl
@[simp] theorem State.setF_mat (s : State) (r : BitVec 5) (v : Word) : (s.setF r v).st.mat = s.st.mat := rfl
@[simp] theorem State.setF_eng (s : State) (r : BitVec 5) (v : Word) : (s.setF r v).st.eng = s.st.eng := rfl
@[simp] theorem State.setF_held (s : State) (r : BitVec 5) (v : Word) : (s.setF r v).st.held = s.st.held := rfl
@[simp] theorem State.setF_icMark (s : State) (r : BitVec 5) (v : Word) : (s.setF r v).st.icMark = s.st.icMark := rfl
@[simp] theorem State.setF_icFence (s : State) (r : BitVec 5) (v : Word) : (s.setF r v).st.icFence = s.st.icFence := rfl
@[simp] theorem State.setF_icSeen (s : State) (r : BitVec 5) (v : Word) : (s.setF r v).st.icSeen = s.st.icSeen := rfl
@[simp] theorem State.setF_others (s : State) (r : BitVec 5) (v : Word) : (s.setF r v).others = s.others := rfl
@[simp] theorem State.setF_mem (s : State) (r : BitVec 5) (v : Word) : (s.setF r v).mem = s.mem := rfl
@[simp] theorem State.setF_wlog (s : State) (r : BitVec 5) (v : Word) : (s.setF r v).wlog = s.wlog := rfl
@[simp] theorem State.setF_poison (s : State) (r : BitVec 5) (v : Word) : (s.setF r v).poison = s.poison := rfl
@[simp] theorem State.setF_grans (s : State) (r : BitVec 5) (v : Word) : (s.setF r v).grans = s.grans := rfl
@[simp] theorem State.setF_reserved (s : State) (r : BitVec 5) (v : Word) : (s.setF r v).reserved = s.reserved := rfl
@[simp] theorem State.setF_fw (s : State) (r : BitVec 5) (v : Word) : (s.setF r v).fw = s.fw := rfl
@[simp] theorem State.setF_slots (s : State) (r : BitVec 5) (v : Word) : (s.setF r v).slots = s.slots := rfl
@[simp] theorem State.setF_lastArm (s : State) (r : BitVec 5) (v : Word) : (s.setF r v).lastArm = s.lastArm := rfl
@[simp] theorem State.setF_halves (s : State) (r : BitVec 5) (v : Word) : (s.setF r v).halves = s.halves := rfl
@[simp] theorem State.setF_recq (s : State) (r : BitVec 5) (v : Word) : (s.setF r v).recq = s.recq := rfl
@[simp] theorem State.setF_windows (s : State) (r : BitVec 5) (v : Word) : (s.setF r v).windows = s.windows := rfl
@[simp] theorem State.setF_oldRoots (s : State) (r : BitVec 5) (v : Word) : (s.setF r v).oldRoots = s.oldRoots := rfl
@[simp] theorem State.setF_pfWaits (s : State) (r : BitVec 5) (v : Word) : (s.setF r v).pfWaits = s.pfWaits := rfl
@[simp] theorem State.setF_idents (s : State) (r : BitVec 5) (v : Word) : (s.setF r v).idents = s.idents := rfl
@[simp] theorem State.setF_frames (s : State) (r : BitVec 5) (v : Word) : (s.setF r v).frames = s.frames := rfl
@[simp] theorem State.setF_images (s : State) (r : BitVec 5) (v : Word) : (s.setF r v).images = s.images := rfl
@[simp] theorem State.setF_host (s : State) (r : BitVec 5) (v : Word) : (s.setF r v).host = s.host := rfl
@[simp] theorem State.setF_inbox (s : State) (r : BitVec 5) (v : Word) : (s.setF r v).inbox = s.inbox := rfl
@[simp] theorem State.setF_tick (s : State) (r : BitVec 5) (v : Word) : (s.setF r v).tick = s.tick := rfl

/-! ## setO -/

@[simp] theorem State.setO_run (s : State) (i : Fin 8) (v : Word) : (s.setO i v).st.run = s.st.run := rfl
@[simp] theorem State.setO_fe (s : State) (i : Fin 8) (v : Word) : (s.setO i v).st.fe = s.st.fe := rfl
@[simp] theorem State.setO_lanes (s : State) (i : Fin 8) (v : Word) : (s.setO i v).st.lanes = s.st.lanes := rfl
@[simp] theorem State.setO_act (s : State) (i : Fin 8) (v : Word) : (s.setO i v).st.act = s.st.act := rfl
@[simp] theorem State.setO_degraded (s : State) (i : Fin 8) (v : Word) : (s.setO i v).st.degraded = s.st.degraded := rfl
@[simp] theorem State.setO_br (s : State) (i : Fin 8) (v : Word) : (s.setO i v).st.br = s.st.br := rfl
@[simp] theorem State.setO_boundAt (s : State) (i : Fin 8) (v : Word) : (s.setO i v).st.boundAt = s.st.boundAt := rfl
@[simp] theorem State.setO_pc (s : State) (i : Fin 8) (v : Word) : (s.setO i v).st.pc = s.st.pc := rfl
@[simp] theorem State.setO_x (s : State) (i : Fin 8) (v : Word) : (s.setO i v).st.x = s.st.x := rfl
@[simp] theorem State.setO_f (s : State) (i : Fin 8) (v : Word) : (s.setO i v).st.f = s.st.f := rfl
@[simp] theorem State.setO_frm (s : State) (i : Fin 8) (v : Word) : (s.setO i v).st.frm = s.st.frm := rfl
@[simp] theorem State.setO_fflags (s : State) (i : Fin 8) (v : Word) : (s.setO i v).st.fflags = s.st.fflags := rfl
@[simp] theorem State.setO_loops (s : State) (i : Fin 8) (v : Word) : (s.setO i v).st.loops = s.st.loops := rfl
@[simp] theorem State.setO_backEdge (s : State) (i : Fin 8) (v : Word) : (s.setO i v).st.backEdge = s.st.backEdge := rfl
@[simp] theorem State.setO_resv (s : State) (i : Fin 8) (v : Word) : (s.setO i v).st.resv = s.st.resv := rfl
@[simp] theorem State.setO_instret (s : State) (i : Fin 8) (v : Word) : (s.setO i v).st.instret = s.st.instret := rfl
@[simp] theorem State.setO_sstat (s : State) (i : Fin 8) (v : Word) : (s.setO i v).st.sstat = s.st.sstat := rfl
@[simp] theorem State.setO_csr (s : State) (i : Fin 8) (v : Word) : (s.setO i v).st.csr = s.st.csr := rfl
@[simp] theorem State.setO_fab (s : State) (i : Fin 8) (v : Word) : (s.setO i v).st.fab = s.st.fab := rfl
@[simp] theorem State.setO_mat (s : State) (i : Fin 8) (v : Word) : (s.setO i v).st.mat = s.st.mat := rfl
@[simp] theorem State.setO_eng (s : State) (i : Fin 8) (v : Word) : (s.setO i v).st.eng = s.st.eng := rfl
@[simp] theorem State.setO_held (s : State) (i : Fin 8) (v : Word) : (s.setO i v).st.held = s.st.held := rfl
@[simp] theorem State.setO_icMark (s : State) (i : Fin 8) (v : Word) : (s.setO i v).st.icMark = s.st.icMark := rfl
@[simp] theorem State.setO_icFence (s : State) (i : Fin 8) (v : Word) : (s.setO i v).st.icFence = s.st.icFence := rfl
@[simp] theorem State.setO_icSeen (s : State) (i : Fin 8) (v : Word) : (s.setO i v).st.icSeen = s.st.icSeen := rfl
@[simp] theorem State.setO_others (s : State) (i : Fin 8) (v : Word) : (s.setO i v).others = s.others := rfl
@[simp] theorem State.setO_mem (s : State) (i : Fin 8) (v : Word) : (s.setO i v).mem = s.mem := rfl
@[simp] theorem State.setO_wlog (s : State) (i : Fin 8) (v : Word) : (s.setO i v).wlog = s.wlog := rfl
@[simp] theorem State.setO_poison (s : State) (i : Fin 8) (v : Word) : (s.setO i v).poison = s.poison := rfl
@[simp] theorem State.setO_grans (s : State) (i : Fin 8) (v : Word) : (s.setO i v).grans = s.grans := rfl
@[simp] theorem State.setO_reserved (s : State) (i : Fin 8) (v : Word) : (s.setO i v).reserved = s.reserved := rfl
@[simp] theorem State.setO_fw (s : State) (i : Fin 8) (v : Word) : (s.setO i v).fw = s.fw := rfl
@[simp] theorem State.setO_slots (s : State) (i : Fin 8) (v : Word) : (s.setO i v).slots = s.slots := rfl
@[simp] theorem State.setO_lastArm (s : State) (i : Fin 8) (v : Word) : (s.setO i v).lastArm = s.lastArm := rfl
@[simp] theorem State.setO_halves (s : State) (i : Fin 8) (v : Word) : (s.setO i v).halves = s.halves := rfl
@[simp] theorem State.setO_recq (s : State) (i : Fin 8) (v : Word) : (s.setO i v).recq = s.recq := rfl
@[simp] theorem State.setO_windows (s : State) (i : Fin 8) (v : Word) : (s.setO i v).windows = s.windows := rfl
@[simp] theorem State.setO_oldRoots (s : State) (i : Fin 8) (v : Word) : (s.setO i v).oldRoots = s.oldRoots := rfl
@[simp] theorem State.setO_pfWaits (s : State) (i : Fin 8) (v : Word) : (s.setO i v).pfWaits = s.pfWaits := rfl
@[simp] theorem State.setO_idents (s : State) (i : Fin 8) (v : Word) : (s.setO i v).idents = s.idents := rfl
@[simp] theorem State.setO_frames (s : State) (i : Fin 8) (v : Word) : (s.setO i v).frames = s.frames := rfl
@[simp] theorem State.setO_images (s : State) (i : Fin 8) (v : Word) : (s.setO i v).images = s.images := rfl
@[simp] theorem State.setO_host (s : State) (i : Fin 8) (v : Word) : (s.setO i v).host = s.host := rfl
@[simp] theorem State.setO_inbox (s : State) (i : Fin 8) (v : Word) : (s.setO i v).inbox = s.inbox := rfl
@[simp] theorem State.setO_tick (s : State) (i : Fin 8) (v : Word) : (s.setO i v).tick = s.tick := rfl

/-! ## setPc -/

@[simp] theorem State.setPc_run (s : State) (p : Word) : (s.setPc p).st.run = s.st.run := rfl
@[simp] theorem State.setPc_fe (s : State) (p : Word) : (s.setPc p).st.fe = s.st.fe := rfl
@[simp] theorem State.setPc_lanes (s : State) (p : Word) : (s.setPc p).st.lanes = s.st.lanes := rfl
@[simp] theorem State.setPc_act (s : State) (p : Word) : (s.setPc p).st.act = s.st.act := rfl
@[simp] theorem State.setPc_degraded (s : State) (p : Word) : (s.setPc p).st.degraded = s.st.degraded := rfl
@[simp] theorem State.setPc_br (s : State) (p : Word) : (s.setPc p).st.br = s.st.br := rfl
@[simp] theorem State.setPc_boundAt (s : State) (p : Word) : (s.setPc p).st.boundAt = s.st.boundAt := rfl
@[simp] theorem State.setPc_x (s : State) (p : Word) : (s.setPc p).st.x = s.st.x := rfl
@[simp] theorem State.setPc_f (s : State) (p : Word) : (s.setPc p).st.f = s.st.f := rfl
@[simp] theorem State.setPc_frm (s : State) (p : Word) : (s.setPc p).st.frm = s.st.frm := rfl
@[simp] theorem State.setPc_fflags (s : State) (p : Word) : (s.setPc p).st.fflags = s.st.fflags := rfl
@[simp] theorem State.setPc_loops (s : State) (p : Word) : (s.setPc p).st.loops = s.st.loops := rfl
@[simp] theorem State.setPc_backEdge (s : State) (p : Word) : (s.setPc p).st.backEdge = s.st.backEdge := rfl
@[simp] theorem State.setPc_resv (s : State) (p : Word) : (s.setPc p).st.resv = s.st.resv := rfl
@[simp] theorem State.setPc_instret (s : State) (p : Word) : (s.setPc p).st.instret = s.st.instret := rfl
@[simp] theorem State.setPc_sstat (s : State) (p : Word) : (s.setPc p).st.sstat = s.st.sstat := rfl
@[simp] theorem State.setPc_csr (s : State) (p : Word) : (s.setPc p).st.csr = s.st.csr := rfl
@[simp] theorem State.setPc_vec (s : State) (p : Word) : (s.setPc p).st.vec = s.st.vec := rfl
@[simp] theorem State.setPc_fab (s : State) (p : Word) : (s.setPc p).st.fab = s.st.fab := rfl
@[simp] theorem State.setPc_mat (s : State) (p : Word) : (s.setPc p).st.mat = s.st.mat := rfl
@[simp] theorem State.setPc_eng (s : State) (p : Word) : (s.setPc p).st.eng = s.st.eng := rfl
@[simp] theorem State.setPc_held (s : State) (p : Word) : (s.setPc p).st.held = s.st.held := rfl
@[simp] theorem State.setPc_icMark (s : State) (p : Word) : (s.setPc p).st.icMark = s.st.icMark := rfl
@[simp] theorem State.setPc_icFence (s : State) (p : Word) : (s.setPc p).st.icFence = s.st.icFence := rfl
@[simp] theorem State.setPc_icSeen (s : State) (p : Word) : (s.setPc p).st.icSeen = s.st.icSeen := rfl
@[simp] theorem State.setPc_others (s : State) (p : Word) : (s.setPc p).others = s.others := rfl
@[simp] theorem State.setPc_mem (s : State) (p : Word) : (s.setPc p).mem = s.mem := rfl
@[simp] theorem State.setPc_wlog (s : State) (p : Word) : (s.setPc p).wlog = s.wlog := rfl
@[simp] theorem State.setPc_poison (s : State) (p : Word) : (s.setPc p).poison = s.poison := rfl
@[simp] theorem State.setPc_grans (s : State) (p : Word) : (s.setPc p).grans = s.grans := rfl
@[simp] theorem State.setPc_reserved (s : State) (p : Word) : (s.setPc p).reserved = s.reserved := rfl
@[simp] theorem State.setPc_fw (s : State) (p : Word) : (s.setPc p).fw = s.fw := rfl
@[simp] theorem State.setPc_slots (s : State) (p : Word) : (s.setPc p).slots = s.slots := rfl
@[simp] theorem State.setPc_lastArm (s : State) (p : Word) : (s.setPc p).lastArm = s.lastArm := rfl
@[simp] theorem State.setPc_halves (s : State) (p : Word) : (s.setPc p).halves = s.halves := rfl
@[simp] theorem State.setPc_recq (s : State) (p : Word) : (s.setPc p).recq = s.recq := rfl
@[simp] theorem State.setPc_windows (s : State) (p : Word) : (s.setPc p).windows = s.windows := rfl
@[simp] theorem State.setPc_oldRoots (s : State) (p : Word) : (s.setPc p).oldRoots = s.oldRoots := rfl
@[simp] theorem State.setPc_pfWaits (s : State) (p : Word) : (s.setPc p).pfWaits = s.pfWaits := rfl
@[simp] theorem State.setPc_idents (s : State) (p : Word) : (s.setPc p).idents = s.idents := rfl
@[simp] theorem State.setPc_frames (s : State) (p : Word) : (s.setPc p).frames = s.frames := rfl
@[simp] theorem State.setPc_images (s : State) (p : Word) : (s.setPc p).images = s.images := rfl
@[simp] theorem State.setPc_host (s : State) (p : Word) : (s.setPc p).host = s.host := rfl
@[simp] theorem State.setPc_inbox (s : State) (p : Word) : (s.setPc p).inbox = s.inbox := rfl
@[simp] theorem State.setPc_tick (s : State) (p : Word) : (s.setPc p).tick = s.tick := rfl

/-! ## setVec -/

@[simp] theorem State.setVec_run (s : State) (v : Vec) : (s.setVec v).st.run = s.st.run := rfl
@[simp] theorem State.setVec_fe (s : State) (v : Vec) : (s.setVec v).st.fe = s.st.fe := rfl
@[simp] theorem State.setVec_lanes (s : State) (v : Vec) : (s.setVec v).st.lanes = s.st.lanes := rfl
@[simp] theorem State.setVec_act (s : State) (v : Vec) : (s.setVec v).st.act = s.st.act := rfl
@[simp] theorem State.setVec_degraded (s : State) (v : Vec) : (s.setVec v).st.degraded = s.st.degraded := rfl
@[simp] theorem State.setVec_br (s : State) (v : Vec) : (s.setVec v).st.br = s.st.br := rfl
@[simp] theorem State.setVec_boundAt (s : State) (v : Vec) : (s.setVec v).st.boundAt = s.st.boundAt := rfl
@[simp] theorem State.setVec_pc (s : State) (v : Vec) : (s.setVec v).st.pc = s.st.pc := rfl
@[simp] theorem State.setVec_x (s : State) (v : Vec) : (s.setVec v).st.x = s.st.x := rfl
@[simp] theorem State.setVec_f (s : State) (v : Vec) : (s.setVec v).st.f = s.st.f := rfl
@[simp] theorem State.setVec_frm (s : State) (v : Vec) : (s.setVec v).st.frm = s.st.frm := rfl
@[simp] theorem State.setVec_fflags (s : State) (v : Vec) : (s.setVec v).st.fflags = s.st.fflags := rfl
@[simp] theorem State.setVec_loops (s : State) (v : Vec) : (s.setVec v).st.loops = s.st.loops := rfl
@[simp] theorem State.setVec_backEdge (s : State) (v : Vec) : (s.setVec v).st.backEdge = s.st.backEdge := rfl
@[simp] theorem State.setVec_resv (s : State) (v : Vec) : (s.setVec v).st.resv = s.st.resv := rfl
@[simp] theorem State.setVec_instret (s : State) (v : Vec) : (s.setVec v).st.instret = s.st.instret := rfl
@[simp] theorem State.setVec_sstat (s : State) (v : Vec) : (s.setVec v).st.sstat = s.st.sstat := rfl
@[simp] theorem State.setVec_csr (s : State) (v : Vec) : (s.setVec v).st.csr = s.st.csr := rfl
@[simp] theorem State.setVec_fab (s : State) (v : Vec) : (s.setVec v).st.fab = s.st.fab := rfl
@[simp] theorem State.setVec_mat (s : State) (v : Vec) : (s.setVec v).st.mat = s.st.mat := rfl
@[simp] theorem State.setVec_eng (s : State) (v : Vec) : (s.setVec v).st.eng = s.st.eng := rfl
@[simp] theorem State.setVec_held (s : State) (v : Vec) : (s.setVec v).st.held = s.st.held := rfl
@[simp] theorem State.setVec_icMark (s : State) (v : Vec) : (s.setVec v).st.icMark = s.st.icMark := rfl
@[simp] theorem State.setVec_icFence (s : State) (v : Vec) : (s.setVec v).st.icFence = s.st.icFence := rfl
@[simp] theorem State.setVec_icSeen (s : State) (v : Vec) : (s.setVec v).st.icSeen = s.st.icSeen := rfl
@[simp] theorem State.setVec_others (s : State) (v : Vec) : (s.setVec v).others = s.others := rfl
@[simp] theorem State.setVec_mem (s : State) (v : Vec) : (s.setVec v).mem = s.mem := rfl
@[simp] theorem State.setVec_wlog (s : State) (v : Vec) : (s.setVec v).wlog = s.wlog := rfl
@[simp] theorem State.setVec_poison (s : State) (v : Vec) : (s.setVec v).poison = s.poison := rfl
@[simp] theorem State.setVec_grans (s : State) (v : Vec) : (s.setVec v).grans = s.grans := rfl
@[simp] theorem State.setVec_reserved (s : State) (v : Vec) : (s.setVec v).reserved = s.reserved := rfl
@[simp] theorem State.setVec_fw (s : State) (v : Vec) : (s.setVec v).fw = s.fw := rfl
@[simp] theorem State.setVec_slots (s : State) (v : Vec) : (s.setVec v).slots = s.slots := rfl
@[simp] theorem State.setVec_lastArm (s : State) (v : Vec) : (s.setVec v).lastArm = s.lastArm := rfl
@[simp] theorem State.setVec_halves (s : State) (v : Vec) : (s.setVec v).halves = s.halves := rfl
@[simp] theorem State.setVec_recq (s : State) (v : Vec) : (s.setVec v).recq = s.recq := rfl
@[simp] theorem State.setVec_windows (s : State) (v : Vec) : (s.setVec v).windows = s.windows := rfl
@[simp] theorem State.setVec_oldRoots (s : State) (v : Vec) : (s.setVec v).oldRoots = s.oldRoots := rfl
@[simp] theorem State.setVec_pfWaits (s : State) (v : Vec) : (s.setVec v).pfWaits = s.pfWaits := rfl
@[simp] theorem State.setVec_idents (s : State) (v : Vec) : (s.setVec v).idents = s.idents := rfl
@[simp] theorem State.setVec_frames (s : State) (v : Vec) : (s.setVec v).frames = s.frames := rfl
@[simp] theorem State.setVec_images (s : State) (v : Vec) : (s.setVec v).images = s.images := rfl
@[simp] theorem State.setVec_host (s : State) (v : Vec) : (s.setVec v).host = s.host := rfl
@[simp] theorem State.setVec_inbox (s : State) (v : Vec) : (s.setVec v).inbox = s.inbox := rfl
@[simp] theorem State.setVec_tick (s : State) (v : Vec) : (s.setVec v).tick = s.tick := rfl

/-! ## setPk -/

@[simp] theorem State.setPk_run (s : State) (p : Pricking) : (s.setPk p).st.run = s.st.run := rfl
@[simp] theorem State.setPk_fe (s : State) (p : Pricking) : (s.setPk p).st.fe = s.st.fe := rfl
@[simp] theorem State.setPk_lanes (s : State) (p : Pricking) : (s.setPk p).st.lanes = s.st.lanes := rfl
@[simp] theorem State.setPk_act (s : State) (p : Pricking) : (s.setPk p).st.act = s.st.act := rfl
@[simp] theorem State.setPk_degraded (s : State) (p : Pricking) : (s.setPk p).st.degraded = s.st.degraded := rfl
@[simp] theorem State.setPk_br (s : State) (p : Pricking) : (s.setPk p).st.br = s.st.br := rfl
@[simp] theorem State.setPk_boundAt (s : State) (p : Pricking) : (s.setPk p).st.boundAt = s.st.boundAt := rfl
@[simp] theorem State.setPk_pc (s : State) (p : Pricking) : (s.setPk p).st.pc = s.st.pc := rfl
@[simp] theorem State.setPk_x (s : State) (p : Pricking) : (s.setPk p).st.x = s.st.x := rfl
@[simp] theorem State.setPk_f (s : State) (p : Pricking) : (s.setPk p).st.f = s.st.f := rfl
@[simp] theorem State.setPk_frm (s : State) (p : Pricking) : (s.setPk p).st.frm = s.st.frm := rfl
@[simp] theorem State.setPk_fflags (s : State) (p : Pricking) : (s.setPk p).st.fflags = s.st.fflags := rfl
@[simp] theorem State.setPk_loops (s : State) (p : Pricking) : (s.setPk p).st.loops = s.st.loops := rfl
@[simp] theorem State.setPk_backEdge (s : State) (p : Pricking) : (s.setPk p).st.backEdge = s.st.backEdge := rfl
@[simp] theorem State.setPk_resv (s : State) (p : Pricking) : (s.setPk p).st.resv = s.st.resv := rfl
@[simp] theorem State.setPk_instret (s : State) (p : Pricking) : (s.setPk p).st.instret = s.st.instret := rfl
@[simp] theorem State.setPk_sstat (s : State) (p : Pricking) : (s.setPk p).st.sstat = s.st.sstat := rfl
@[simp] theorem State.setPk_csr (s : State) (p : Pricking) : (s.setPk p).st.csr = s.st.csr := rfl
@[simp] theorem State.setPk_fab (s : State) (p : Pricking) : (s.setPk p).st.fab = s.st.fab := rfl
@[simp] theorem State.setPk_mat (s : State) (p : Pricking) : (s.setPk p).st.mat = s.st.mat := rfl
@[simp] theorem State.setPk_eng (s : State) (p : Pricking) : (s.setPk p).st.eng = s.st.eng := rfl
@[simp] theorem State.setPk_held (s : State) (p : Pricking) : (s.setPk p).st.held = s.st.held := rfl
@[simp] theorem State.setPk_icMark (s : State) (p : Pricking) : (s.setPk p).st.icMark = s.st.icMark := rfl
@[simp] theorem State.setPk_icFence (s : State) (p : Pricking) : (s.setPk p).st.icFence = s.st.icFence := rfl
@[simp] theorem State.setPk_icSeen (s : State) (p : Pricking) : (s.setPk p).st.icSeen = s.st.icSeen := rfl
@[simp] theorem State.setPk_others (s : State) (p : Pricking) : (s.setPk p).others = s.others := rfl
@[simp] theorem State.setPk_mem (s : State) (p : Pricking) : (s.setPk p).mem = s.mem := rfl
@[simp] theorem State.setPk_wlog (s : State) (p : Pricking) : (s.setPk p).wlog = s.wlog := rfl
@[simp] theorem State.setPk_poison (s : State) (p : Pricking) : (s.setPk p).poison = s.poison := rfl
@[simp] theorem State.setPk_grans (s : State) (p : Pricking) : (s.setPk p).grans = s.grans := rfl
@[simp] theorem State.setPk_reserved (s : State) (p : Pricking) : (s.setPk p).reserved = s.reserved := rfl
@[simp] theorem State.setPk_fw (s : State) (p : Pricking) : (s.setPk p).fw = s.fw := rfl
@[simp] theorem State.setPk_slots (s : State) (p : Pricking) : (s.setPk p).slots = s.slots := rfl
@[simp] theorem State.setPk_lastArm (s : State) (p : Pricking) : (s.setPk p).lastArm = s.lastArm := rfl
@[simp] theorem State.setPk_halves (s : State) (p : Pricking) : (s.setPk p).halves = s.halves := rfl
@[simp] theorem State.setPk_recq (s : State) (p : Pricking) : (s.setPk p).recq = s.recq := rfl
@[simp] theorem State.setPk_windows (s : State) (p : Pricking) : (s.setPk p).windows = s.windows := rfl
@[simp] theorem State.setPk_oldRoots (s : State) (p : Pricking) : (s.setPk p).oldRoots = s.oldRoots := rfl
@[simp] theorem State.setPk_pfWaits (s : State) (p : Pricking) : (s.setPk p).pfWaits = s.pfWaits := rfl
@[simp] theorem State.setPk_idents (s : State) (p : Pricking) : (s.setPk p).idents = s.idents := rfl
@[simp] theorem State.setPk_frames (s : State) (p : Pricking) : (s.setPk p).frames = s.frames := rfl
@[simp] theorem State.setPk_images (s : State) (p : Pricking) : (s.setPk p).images = s.images := rfl
@[simp] theorem State.setPk_host (s : State) (p : Pricking) : (s.setPk p).host = s.host := rfl
@[simp] theorem State.setPk_inbox (s : State) (p : Pricking) : (s.setPk p).inbox = s.inbox := rfl
@[simp] theorem State.setPk_tick (s : State) (p : Pricking) : (s.setPk p).tick = s.tick := rfl

/-! ## setPass -/

@[simp] theorem State.setPass_run (s : State) (p : Option Pass) : (s.setPass p).st.run = s.st.run := rfl
@[simp] theorem State.setPass_fe (s : State) (p : Option Pass) : (s.setPass p).st.fe = s.st.fe := rfl
@[simp] theorem State.setPass_lanes (s : State) (p : Option Pass) : (s.setPass p).st.lanes = s.st.lanes := rfl
@[simp] theorem State.setPass_act (s : State) (p : Option Pass) : (s.setPass p).st.act = s.st.act := rfl
@[simp] theorem State.setPass_degraded (s : State) (p : Option Pass) : (s.setPass p).st.degraded = s.st.degraded := rfl
@[simp] theorem State.setPass_br (s : State) (p : Option Pass) : (s.setPass p).st.br = s.st.br := rfl
@[simp] theorem State.setPass_boundAt (s : State) (p : Option Pass) : (s.setPass p).st.boundAt = s.st.boundAt := rfl
@[simp] theorem State.setPass_pc (s : State) (p : Option Pass) : (s.setPass p).st.pc = s.st.pc := rfl
@[simp] theorem State.setPass_x (s : State) (p : Option Pass) : (s.setPass p).st.x = s.st.x := rfl
@[simp] theorem State.setPass_f (s : State) (p : Option Pass) : (s.setPass p).st.f = s.st.f := rfl
@[simp] theorem State.setPass_frm (s : State) (p : Option Pass) : (s.setPass p).st.frm = s.st.frm := rfl
@[simp] theorem State.setPass_fflags (s : State) (p : Option Pass) : (s.setPass p).st.fflags = s.st.fflags := rfl
@[simp] theorem State.setPass_loops (s : State) (p : Option Pass) : (s.setPass p).st.loops = s.st.loops := rfl
@[simp] theorem State.setPass_backEdge (s : State) (p : Option Pass) : (s.setPass p).st.backEdge = s.st.backEdge := rfl
@[simp] theorem State.setPass_resv (s : State) (p : Option Pass) : (s.setPass p).st.resv = s.st.resv := rfl
@[simp] theorem State.setPass_instret (s : State) (p : Option Pass) : (s.setPass p).st.instret = s.st.instret := rfl
@[simp] theorem State.setPass_sstat (s : State) (p : Option Pass) : (s.setPass p).st.sstat = s.st.sstat := rfl
@[simp] theorem State.setPass_csr (s : State) (p : Option Pass) : (s.setPass p).st.csr = s.st.csr := rfl
@[simp] theorem State.setPass_fab (s : State) (p : Option Pass) : (s.setPass p).st.fab = s.st.fab := rfl
@[simp] theorem State.setPass_mat (s : State) (p : Option Pass) : (s.setPass p).st.mat = s.st.mat := rfl
@[simp] theorem State.setPass_eng (s : State) (p : Option Pass) : (s.setPass p).st.eng = s.st.eng := rfl
@[simp] theorem State.setPass_held (s : State) (p : Option Pass) : (s.setPass p).st.held = s.st.held := rfl
@[simp] theorem State.setPass_icMark (s : State) (p : Option Pass) : (s.setPass p).st.icMark = s.st.icMark := rfl
@[simp] theorem State.setPass_icFence (s : State) (p : Option Pass) : (s.setPass p).st.icFence = s.st.icFence := rfl
@[simp] theorem State.setPass_icSeen (s : State) (p : Option Pass) : (s.setPass p).st.icSeen = s.st.icSeen := rfl
@[simp] theorem State.setPass_others (s : State) (p : Option Pass) : (s.setPass p).others = s.others := rfl
@[simp] theorem State.setPass_mem (s : State) (p : Option Pass) : (s.setPass p).mem = s.mem := rfl
@[simp] theorem State.setPass_wlog (s : State) (p : Option Pass) : (s.setPass p).wlog = s.wlog := rfl
@[simp] theorem State.setPass_poison (s : State) (p : Option Pass) : (s.setPass p).poison = s.poison := rfl
@[simp] theorem State.setPass_grans (s : State) (p : Option Pass) : (s.setPass p).grans = s.grans := rfl
@[simp] theorem State.setPass_reserved (s : State) (p : Option Pass) : (s.setPass p).reserved = s.reserved := rfl
@[simp] theorem State.setPass_fw (s : State) (p : Option Pass) : (s.setPass p).fw = s.fw := rfl
@[simp] theorem State.setPass_slots (s : State) (p : Option Pass) : (s.setPass p).slots = s.slots := rfl
@[simp] theorem State.setPass_lastArm (s : State) (p : Option Pass) : (s.setPass p).lastArm = s.lastArm := rfl
@[simp] theorem State.setPass_halves (s : State) (p : Option Pass) : (s.setPass p).halves = s.halves := rfl
@[simp] theorem State.setPass_recq (s : State) (p : Option Pass) : (s.setPass p).recq = s.recq := rfl
@[simp] theorem State.setPass_windows (s : State) (p : Option Pass) : (s.setPass p).windows = s.windows := rfl
@[simp] theorem State.setPass_oldRoots (s : State) (p : Option Pass) : (s.setPass p).oldRoots = s.oldRoots := rfl
@[simp] theorem State.setPass_pfWaits (s : State) (p : Option Pass) : (s.setPass p).pfWaits = s.pfWaits := rfl
@[simp] theorem State.setPass_idents (s : State) (p : Option Pass) : (s.setPass p).idents = s.idents := rfl
@[simp] theorem State.setPass_frames (s : State) (p : Option Pass) : (s.setPass p).frames = s.frames := rfl
@[simp] theorem State.setPass_images (s : State) (p : Option Pass) : (s.setPass p).images = s.images := rfl
@[simp] theorem State.setPass_host (s : State) (p : Option Pass) : (s.setPass p).host = s.host := rfl
@[simp] theorem State.setPass_inbox (s : State) (p : Option Pass) : (s.setPass p).inbox = s.inbox := rfl
@[simp] theorem State.setPass_tick (s : State) (p : Option Pass) : (s.setPass p).tick = s.tick := rfl

/-! ## setMat -/

@[simp] theorem State.setMat_run (s : State) (m : Mat) : (s.setMat m).st.run = s.st.run := rfl
@[simp] theorem State.setMat_fe (s : State) (m : Mat) : (s.setMat m).st.fe = s.st.fe := rfl
@[simp] theorem State.setMat_lanes (s : State) (m : Mat) : (s.setMat m).st.lanes = s.st.lanes := rfl
@[simp] theorem State.setMat_act (s : State) (m : Mat) : (s.setMat m).st.act = s.st.act := rfl
@[simp] theorem State.setMat_degraded (s : State) (m : Mat) : (s.setMat m).st.degraded = s.st.degraded := rfl
@[simp] theorem State.setMat_br (s : State) (m : Mat) : (s.setMat m).st.br = s.st.br := rfl
@[simp] theorem State.setMat_boundAt (s : State) (m : Mat) : (s.setMat m).st.boundAt = s.st.boundAt := rfl
@[simp] theorem State.setMat_pc (s : State) (m : Mat) : (s.setMat m).st.pc = s.st.pc := rfl
@[simp] theorem State.setMat_x (s : State) (m : Mat) : (s.setMat m).st.x = s.st.x := rfl
@[simp] theorem State.setMat_f (s : State) (m : Mat) : (s.setMat m).st.f = s.st.f := rfl
@[simp] theorem State.setMat_frm (s : State) (m : Mat) : (s.setMat m).st.frm = s.st.frm := rfl
@[simp] theorem State.setMat_fflags (s : State) (m : Mat) : (s.setMat m).st.fflags = s.st.fflags := rfl
@[simp] theorem State.setMat_loops (s : State) (m : Mat) : (s.setMat m).st.loops = s.st.loops := rfl
@[simp] theorem State.setMat_backEdge (s : State) (m : Mat) : (s.setMat m).st.backEdge = s.st.backEdge := rfl
@[simp] theorem State.setMat_resv (s : State) (m : Mat) : (s.setMat m).st.resv = s.st.resv := rfl
@[simp] theorem State.setMat_instret (s : State) (m : Mat) : (s.setMat m).st.instret = s.st.instret := rfl
@[simp] theorem State.setMat_sstat (s : State) (m : Mat) : (s.setMat m).st.sstat = s.st.sstat := rfl
@[simp] theorem State.setMat_csr (s : State) (m : Mat) : (s.setMat m).st.csr = s.st.csr := rfl
@[simp] theorem State.setMat_vec (s : State) (m : Mat) : (s.setMat m).st.vec = s.st.vec := rfl
@[simp] theorem State.setMat_fab (s : State) (m : Mat) : (s.setMat m).st.fab = s.st.fab := rfl
@[simp] theorem State.setMat_eng (s : State) (m : Mat) : (s.setMat m).st.eng = s.st.eng := rfl
@[simp] theorem State.setMat_held (s : State) (m : Mat) : (s.setMat m).st.held = s.st.held := rfl
@[simp] theorem State.setMat_icMark (s : State) (m : Mat) : (s.setMat m).st.icMark = s.st.icMark := rfl
@[simp] theorem State.setMat_icFence (s : State) (m : Mat) : (s.setMat m).st.icFence = s.st.icFence := rfl
@[simp] theorem State.setMat_icSeen (s : State) (m : Mat) : (s.setMat m).st.icSeen = s.st.icSeen := rfl
@[simp] theorem State.setMat_others (s : State) (m : Mat) : (s.setMat m).others = s.others := rfl
@[simp] theorem State.setMat_mem (s : State) (m : Mat) : (s.setMat m).mem = s.mem := rfl
@[simp] theorem State.setMat_wlog (s : State) (m : Mat) : (s.setMat m).wlog = s.wlog := rfl
@[simp] theorem State.setMat_poison (s : State) (m : Mat) : (s.setMat m).poison = s.poison := rfl
@[simp] theorem State.setMat_grans (s : State) (m : Mat) : (s.setMat m).grans = s.grans := rfl
@[simp] theorem State.setMat_reserved (s : State) (m : Mat) : (s.setMat m).reserved = s.reserved := rfl
@[simp] theorem State.setMat_fw (s : State) (m : Mat) : (s.setMat m).fw = s.fw := rfl
@[simp] theorem State.setMat_slots (s : State) (m : Mat) : (s.setMat m).slots = s.slots := rfl
@[simp] theorem State.setMat_lastArm (s : State) (m : Mat) : (s.setMat m).lastArm = s.lastArm := rfl
@[simp] theorem State.setMat_halves (s : State) (m : Mat) : (s.setMat m).halves = s.halves := rfl
@[simp] theorem State.setMat_recq (s : State) (m : Mat) : (s.setMat m).recq = s.recq := rfl
@[simp] theorem State.setMat_windows (s : State) (m : Mat) : (s.setMat m).windows = s.windows := rfl
@[simp] theorem State.setMat_oldRoots (s : State) (m : Mat) : (s.setMat m).oldRoots = s.oldRoots := rfl
@[simp] theorem State.setMat_pfWaits (s : State) (m : Mat) : (s.setMat m).pfWaits = s.pfWaits := rfl
@[simp] theorem State.setMat_idents (s : State) (m : Mat) : (s.setMat m).idents = s.idents := rfl
@[simp] theorem State.setMat_frames (s : State) (m : Mat) : (s.setMat m).frames = s.frames := rfl
@[simp] theorem State.setMat_images (s : State) (m : Mat) : (s.setMat m).images = s.images := rfl
@[simp] theorem State.setMat_host (s : State) (m : Mat) : (s.setMat m).host = s.host := rfl
@[simp] theorem State.setMat_inbox (s : State) (m : Mat) : (s.setMat m).inbox = s.inbox := rfl
@[simp] theorem State.setMat_tick (s : State) (m : Mat) : (s.setMat m).tick = s.tick := rfl

/-! ## setEng -/

@[simp] theorem State.setEng_run (s : State) (e : Eng) : (s.setEng e).st.run = s.st.run := rfl
@[simp] theorem State.setEng_fe (s : State) (e : Eng) : (s.setEng e).st.fe = s.st.fe := rfl
@[simp] theorem State.setEng_lanes (s : State) (e : Eng) : (s.setEng e).st.lanes = s.st.lanes := rfl
@[simp] theorem State.setEng_act (s : State) (e : Eng) : (s.setEng e).st.act = s.st.act := rfl
@[simp] theorem State.setEng_degraded (s : State) (e : Eng) : (s.setEng e).st.degraded = s.st.degraded := rfl
@[simp] theorem State.setEng_br (s : State) (e : Eng) : (s.setEng e).st.br = s.st.br := rfl
@[simp] theorem State.setEng_boundAt (s : State) (e : Eng) : (s.setEng e).st.boundAt = s.st.boundAt := rfl
@[simp] theorem State.setEng_pc (s : State) (e : Eng) : (s.setEng e).st.pc = s.st.pc := rfl
@[simp] theorem State.setEng_x (s : State) (e : Eng) : (s.setEng e).st.x = s.st.x := rfl
@[simp] theorem State.setEng_f (s : State) (e : Eng) : (s.setEng e).st.f = s.st.f := rfl
@[simp] theorem State.setEng_frm (s : State) (e : Eng) : (s.setEng e).st.frm = s.st.frm := rfl
@[simp] theorem State.setEng_fflags (s : State) (e : Eng) : (s.setEng e).st.fflags = s.st.fflags := rfl
@[simp] theorem State.setEng_loops (s : State) (e : Eng) : (s.setEng e).st.loops = s.st.loops := rfl
@[simp] theorem State.setEng_backEdge (s : State) (e : Eng) : (s.setEng e).st.backEdge = s.st.backEdge := rfl
@[simp] theorem State.setEng_resv (s : State) (e : Eng) : (s.setEng e).st.resv = s.st.resv := rfl
@[simp] theorem State.setEng_instret (s : State) (e : Eng) : (s.setEng e).st.instret = s.st.instret := rfl
@[simp] theorem State.setEng_sstat (s : State) (e : Eng) : (s.setEng e).st.sstat = s.st.sstat := rfl
@[simp] theorem State.setEng_csr (s : State) (e : Eng) : (s.setEng e).st.csr = s.st.csr := rfl
@[simp] theorem State.setEng_vec (s : State) (e : Eng) : (s.setEng e).st.vec = s.st.vec := rfl
@[simp] theorem State.setEng_fab (s : State) (e : Eng) : (s.setEng e).st.fab = s.st.fab := rfl
@[simp] theorem State.setEng_mat (s : State) (e : Eng) : (s.setEng e).st.mat = s.st.mat := rfl
@[simp] theorem State.setEng_held (s : State) (e : Eng) : (s.setEng e).st.held = s.st.held := rfl
@[simp] theorem State.setEng_icMark (s : State) (e : Eng) : (s.setEng e).st.icMark = s.st.icMark := rfl
@[simp] theorem State.setEng_icFence (s : State) (e : Eng) : (s.setEng e).st.icFence = s.st.icFence := rfl
@[simp] theorem State.setEng_icSeen (s : State) (e : Eng) : (s.setEng e).st.icSeen = s.st.icSeen := rfl
@[simp] theorem State.setEng_others (s : State) (e : Eng) : (s.setEng e).others = s.others := rfl
@[simp] theorem State.setEng_mem (s : State) (e : Eng) : (s.setEng e).mem = s.mem := rfl
@[simp] theorem State.setEng_wlog (s : State) (e : Eng) : (s.setEng e).wlog = s.wlog := rfl
@[simp] theorem State.setEng_poison (s : State) (e : Eng) : (s.setEng e).poison = s.poison := rfl
@[simp] theorem State.setEng_grans (s : State) (e : Eng) : (s.setEng e).grans = s.grans := rfl
@[simp] theorem State.setEng_reserved (s : State) (e : Eng) : (s.setEng e).reserved = s.reserved := rfl
@[simp] theorem State.setEng_fw (s : State) (e : Eng) : (s.setEng e).fw = s.fw := rfl
@[simp] theorem State.setEng_slots (s : State) (e : Eng) : (s.setEng e).slots = s.slots := rfl
@[simp] theorem State.setEng_lastArm (s : State) (e : Eng) : (s.setEng e).lastArm = s.lastArm := rfl
@[simp] theorem State.setEng_halves (s : State) (e : Eng) : (s.setEng e).halves = s.halves := rfl
@[simp] theorem State.setEng_recq (s : State) (e : Eng) : (s.setEng e).recq = s.recq := rfl
@[simp] theorem State.setEng_windows (s : State) (e : Eng) : (s.setEng e).windows = s.windows := rfl
@[simp] theorem State.setEng_oldRoots (s : State) (e : Eng) : (s.setEng e).oldRoots = s.oldRoots := rfl
@[simp] theorem State.setEng_pfWaits (s : State) (e : Eng) : (s.setEng e).pfWaits = s.pfWaits := rfl
@[simp] theorem State.setEng_idents (s : State) (e : Eng) : (s.setEng e).idents = s.idents := rfl
@[simp] theorem State.setEng_frames (s : State) (e : Eng) : (s.setEng e).frames = s.frames := rfl
@[simp] theorem State.setEng_images (s : State) (e : Eng) : (s.setEng e).images = s.images := rfl
@[simp] theorem State.setEng_host (s : State) (e : Eng) : (s.setEng e).host = s.host := rfl
@[simp] theorem State.setEng_inbox (s : State) (e : Eng) : (s.setEng e).inbox = s.inbox := rfl
@[simp] theorem State.setEng_tick (s : State) (e : Eng) : (s.setEng e).tick = s.tick := rfl

/-! ## setFab -/

@[simp] theorem State.setFab_run (s : State) (f : Fabric) : (s.setFab f).st.run = s.st.run := rfl
@[simp] theorem State.setFab_fe (s : State) (f : Fabric) : (s.setFab f).st.fe = s.st.fe := rfl
@[simp] theorem State.setFab_lanes (s : State) (f : Fabric) : (s.setFab f).st.lanes = s.st.lanes := rfl
@[simp] theorem State.setFab_act (s : State) (f : Fabric) : (s.setFab f).st.act = s.st.act := rfl
@[simp] theorem State.setFab_degraded (s : State) (f : Fabric) : (s.setFab f).st.degraded = s.st.degraded := rfl
@[simp] theorem State.setFab_br (s : State) (f : Fabric) : (s.setFab f).st.br = s.st.br := rfl
@[simp] theorem State.setFab_boundAt (s : State) (f : Fabric) : (s.setFab f).st.boundAt = s.st.boundAt := rfl
@[simp] theorem State.setFab_pc (s : State) (f : Fabric) : (s.setFab f).st.pc = s.st.pc := rfl
@[simp] theorem State.setFab_x (s : State) (f : Fabric) : (s.setFab f).st.x = s.st.x := rfl
@[simp] theorem State.setFab_f (s : State) (f : Fabric) : (s.setFab f).st.f = s.st.f := rfl
@[simp] theorem State.setFab_frm (s : State) (f : Fabric) : (s.setFab f).st.frm = s.st.frm := rfl
@[simp] theorem State.setFab_fflags (s : State) (f : Fabric) : (s.setFab f).st.fflags = s.st.fflags := rfl
@[simp] theorem State.setFab_loops (s : State) (f : Fabric) : (s.setFab f).st.loops = s.st.loops := rfl
@[simp] theorem State.setFab_backEdge (s : State) (f : Fabric) : (s.setFab f).st.backEdge = s.st.backEdge := rfl
@[simp] theorem State.setFab_resv (s : State) (f : Fabric) : (s.setFab f).st.resv = s.st.resv := rfl
@[simp] theorem State.setFab_instret (s : State) (f : Fabric) : (s.setFab f).st.instret = s.st.instret := rfl
@[simp] theorem State.setFab_sstat (s : State) (f : Fabric) : (s.setFab f).st.sstat = s.st.sstat := rfl
@[simp] theorem State.setFab_csr (s : State) (f : Fabric) : (s.setFab f).st.csr = s.st.csr := rfl
@[simp] theorem State.setFab_vec (s : State) (f : Fabric) : (s.setFab f).st.vec = s.st.vec := rfl
@[simp] theorem State.setFab_mat (s : State) (f : Fabric) : (s.setFab f).st.mat = s.st.mat := rfl
@[simp] theorem State.setFab_eng (s : State) (f : Fabric) : (s.setFab f).st.eng = s.st.eng := rfl
@[simp] theorem State.setFab_held (s : State) (f : Fabric) : (s.setFab f).st.held = s.st.held := rfl
@[simp] theorem State.setFab_icMark (s : State) (f : Fabric) : (s.setFab f).st.icMark = s.st.icMark := rfl
@[simp] theorem State.setFab_icFence (s : State) (f : Fabric) : (s.setFab f).st.icFence = s.st.icFence := rfl
@[simp] theorem State.setFab_icSeen (s : State) (f : Fabric) : (s.setFab f).st.icSeen = s.st.icSeen := rfl
@[simp] theorem State.setFab_others (s : State) (f : Fabric) : (s.setFab f).others = s.others := rfl
@[simp] theorem State.setFab_mem (s : State) (f : Fabric) : (s.setFab f).mem = s.mem := rfl
@[simp] theorem State.setFab_wlog (s : State) (f : Fabric) : (s.setFab f).wlog = s.wlog := rfl
@[simp] theorem State.setFab_poison (s : State) (f : Fabric) : (s.setFab f).poison = s.poison := rfl
@[simp] theorem State.setFab_grans (s : State) (f : Fabric) : (s.setFab f).grans = s.grans := rfl
@[simp] theorem State.setFab_reserved (s : State) (f : Fabric) : (s.setFab f).reserved = s.reserved := rfl
@[simp] theorem State.setFab_fw (s : State) (f : Fabric) : (s.setFab f).fw = s.fw := rfl
@[simp] theorem State.setFab_slots (s : State) (f : Fabric) : (s.setFab f).slots = s.slots := rfl
@[simp] theorem State.setFab_lastArm (s : State) (f : Fabric) : (s.setFab f).lastArm = s.lastArm := rfl
@[simp] theorem State.setFab_halves (s : State) (f : Fabric) : (s.setFab f).halves = s.halves := rfl
@[simp] theorem State.setFab_recq (s : State) (f : Fabric) : (s.setFab f).recq = s.recq := rfl
@[simp] theorem State.setFab_windows (s : State) (f : Fabric) : (s.setFab f).windows = s.windows := rfl
@[simp] theorem State.setFab_oldRoots (s : State) (f : Fabric) : (s.setFab f).oldRoots = s.oldRoots := rfl
@[simp] theorem State.setFab_pfWaits (s : State) (f : Fabric) : (s.setFab f).pfWaits = s.pfWaits := rfl
@[simp] theorem State.setFab_idents (s : State) (f : Fabric) : (s.setFab f).idents = s.idents := rfl
@[simp] theorem State.setFab_frames (s : State) (f : Fabric) : (s.setFab f).frames = s.frames := rfl
@[simp] theorem State.setFab_images (s : State) (f : Fabric) : (s.setFab f).images = s.images := rfl
@[simp] theorem State.setFab_host (s : State) (f : Fabric) : (s.setFab f).host = s.host := rfl
@[simp] theorem State.setFab_inbox (s : State) (f : Fabric) : (s.setFab f).inbox = s.inbox := rfl
@[simp] theorem State.setFab_tick (s : State) (f : Fabric) : (s.setFab f).tick = s.tick := rfl

/-! ## setCsr -/

@[simp] theorem State.setCsr_run (s : State) (c : Csrs) : (s.setCsr c).st.run = s.st.run := rfl
@[simp] theorem State.setCsr_fe (s : State) (c : Csrs) : (s.setCsr c).st.fe = s.st.fe := rfl
@[simp] theorem State.setCsr_lanes (s : State) (c : Csrs) : (s.setCsr c).st.lanes = s.st.lanes := rfl
@[simp] theorem State.setCsr_act (s : State) (c : Csrs) : (s.setCsr c).st.act = s.st.act := rfl
@[simp] theorem State.setCsr_degraded (s : State) (c : Csrs) : (s.setCsr c).st.degraded = s.st.degraded := rfl
@[simp] theorem State.setCsr_br (s : State) (c : Csrs) : (s.setCsr c).st.br = s.st.br := rfl
@[simp] theorem State.setCsr_boundAt (s : State) (c : Csrs) : (s.setCsr c).st.boundAt = s.st.boundAt := rfl
@[simp] theorem State.setCsr_pc (s : State) (c : Csrs) : (s.setCsr c).st.pc = s.st.pc := rfl
@[simp] theorem State.setCsr_x (s : State) (c : Csrs) : (s.setCsr c).st.x = s.st.x := rfl
@[simp] theorem State.setCsr_f (s : State) (c : Csrs) : (s.setCsr c).st.f = s.st.f := rfl
@[simp] theorem State.setCsr_frm (s : State) (c : Csrs) : (s.setCsr c).st.frm = s.st.frm := rfl
@[simp] theorem State.setCsr_fflags (s : State) (c : Csrs) : (s.setCsr c).st.fflags = s.st.fflags := rfl
@[simp] theorem State.setCsr_loops (s : State) (c : Csrs) : (s.setCsr c).st.loops = s.st.loops := rfl
@[simp] theorem State.setCsr_backEdge (s : State) (c : Csrs) : (s.setCsr c).st.backEdge = s.st.backEdge := rfl
@[simp] theorem State.setCsr_resv (s : State) (c : Csrs) : (s.setCsr c).st.resv = s.st.resv := rfl
@[simp] theorem State.setCsr_instret (s : State) (c : Csrs) : (s.setCsr c).st.instret = s.st.instret := rfl
@[simp] theorem State.setCsr_sstat (s : State) (c : Csrs) : (s.setCsr c).st.sstat = s.st.sstat := rfl
@[simp] theorem State.setCsr_vec (s : State) (c : Csrs) : (s.setCsr c).st.vec = s.st.vec := rfl
@[simp] theorem State.setCsr_fab (s : State) (c : Csrs) : (s.setCsr c).st.fab = s.st.fab := rfl
@[simp] theorem State.setCsr_mat (s : State) (c : Csrs) : (s.setCsr c).st.mat = s.st.mat := rfl
@[simp] theorem State.setCsr_eng (s : State) (c : Csrs) : (s.setCsr c).st.eng = s.st.eng := rfl
@[simp] theorem State.setCsr_held (s : State) (c : Csrs) : (s.setCsr c).st.held = s.st.held := rfl
@[simp] theorem State.setCsr_icMark (s : State) (c : Csrs) : (s.setCsr c).st.icMark = s.st.icMark := rfl
@[simp] theorem State.setCsr_icFence (s : State) (c : Csrs) : (s.setCsr c).st.icFence = s.st.icFence := rfl
@[simp] theorem State.setCsr_icSeen (s : State) (c : Csrs) : (s.setCsr c).st.icSeen = s.st.icSeen := rfl
@[simp] theorem State.setCsr_others (s : State) (c : Csrs) : (s.setCsr c).others = s.others := rfl
@[simp] theorem State.setCsr_mem (s : State) (c : Csrs) : (s.setCsr c).mem = s.mem := rfl
@[simp] theorem State.setCsr_wlog (s : State) (c : Csrs) : (s.setCsr c).wlog = s.wlog := rfl
@[simp] theorem State.setCsr_poison (s : State) (c : Csrs) : (s.setCsr c).poison = s.poison := rfl
@[simp] theorem State.setCsr_grans (s : State) (c : Csrs) : (s.setCsr c).grans = s.grans := rfl
@[simp] theorem State.setCsr_reserved (s : State) (c : Csrs) : (s.setCsr c).reserved = s.reserved := rfl
@[simp] theorem State.setCsr_fw (s : State) (c : Csrs) : (s.setCsr c).fw = s.fw := rfl
@[simp] theorem State.setCsr_slots (s : State) (c : Csrs) : (s.setCsr c).slots = s.slots := rfl
@[simp] theorem State.setCsr_lastArm (s : State) (c : Csrs) : (s.setCsr c).lastArm = s.lastArm := rfl
@[simp] theorem State.setCsr_halves (s : State) (c : Csrs) : (s.setCsr c).halves = s.halves := rfl
@[simp] theorem State.setCsr_recq (s : State) (c : Csrs) : (s.setCsr c).recq = s.recq := rfl
@[simp] theorem State.setCsr_windows (s : State) (c : Csrs) : (s.setCsr c).windows = s.windows := rfl
@[simp] theorem State.setCsr_oldRoots (s : State) (c : Csrs) : (s.setCsr c).oldRoots = s.oldRoots := rfl
@[simp] theorem State.setCsr_pfWaits (s : State) (c : Csrs) : (s.setCsr c).pfWaits = s.pfWaits := rfl
@[simp] theorem State.setCsr_idents (s : State) (c : Csrs) : (s.setCsr c).idents = s.idents := rfl
@[simp] theorem State.setCsr_frames (s : State) (c : Csrs) : (s.setCsr c).frames = s.frames := rfl
@[simp] theorem State.setCsr_images (s : State) (c : Csrs) : (s.setCsr c).images = s.images := rfl
@[simp] theorem State.setCsr_host (s : State) (c : Csrs) : (s.setCsr c).host = s.host := rfl
@[simp] theorem State.setCsr_inbox (s : State) (c : Csrs) : (s.setCsr c).inbox = s.inbox := rfl
@[simp] theorem State.setCsr_tick (s : State) (c : Csrs) : (s.setCsr c).tick = s.tick := rfl

/-! ## setSStat -/

@[simp] theorem State.setSStat_run (s : State) (c : SStat) : (s.setSStat c).st.run = s.st.run := rfl
@[simp] theorem State.setSStat_fe (s : State) (c : SStat) : (s.setSStat c).st.fe = s.st.fe := rfl
@[simp] theorem State.setSStat_lanes (s : State) (c : SStat) : (s.setSStat c).st.lanes = s.st.lanes := rfl
@[simp] theorem State.setSStat_act (s : State) (c : SStat) : (s.setSStat c).st.act = s.st.act := rfl
@[simp] theorem State.setSStat_degraded (s : State) (c : SStat) : (s.setSStat c).st.degraded = s.st.degraded := rfl
@[simp] theorem State.setSStat_br (s : State) (c : SStat) : (s.setSStat c).st.br = s.st.br := rfl
@[simp] theorem State.setSStat_boundAt (s : State) (c : SStat) : (s.setSStat c).st.boundAt = s.st.boundAt := rfl
@[simp] theorem State.setSStat_pc (s : State) (c : SStat) : (s.setSStat c).st.pc = s.st.pc := rfl
@[simp] theorem State.setSStat_x (s : State) (c : SStat) : (s.setSStat c).st.x = s.st.x := rfl
@[simp] theorem State.setSStat_f (s : State) (c : SStat) : (s.setSStat c).st.f = s.st.f := rfl
@[simp] theorem State.setSStat_frm (s : State) (c : SStat) : (s.setSStat c).st.frm = s.st.frm := rfl
@[simp] theorem State.setSStat_fflags (s : State) (c : SStat) : (s.setSStat c).st.fflags = s.st.fflags := rfl
@[simp] theorem State.setSStat_loops (s : State) (c : SStat) : (s.setSStat c).st.loops = s.st.loops := rfl
@[simp] theorem State.setSStat_backEdge (s : State) (c : SStat) : (s.setSStat c).st.backEdge = s.st.backEdge := rfl
@[simp] theorem State.setSStat_resv (s : State) (c : SStat) : (s.setSStat c).st.resv = s.st.resv := rfl
@[simp] theorem State.setSStat_instret (s : State) (c : SStat) : (s.setSStat c).st.instret = s.st.instret := rfl
@[simp] theorem State.setSStat_csr (s : State) (c : SStat) : (s.setSStat c).st.csr = s.st.csr := rfl
@[simp] theorem State.setSStat_vec (s : State) (c : SStat) : (s.setSStat c).st.vec = s.st.vec := rfl
@[simp] theorem State.setSStat_fab (s : State) (c : SStat) : (s.setSStat c).st.fab = s.st.fab := rfl
@[simp] theorem State.setSStat_mat (s : State) (c : SStat) : (s.setSStat c).st.mat = s.st.mat := rfl
@[simp] theorem State.setSStat_eng (s : State) (c : SStat) : (s.setSStat c).st.eng = s.st.eng := rfl
@[simp] theorem State.setSStat_held (s : State) (c : SStat) : (s.setSStat c).st.held = s.st.held := rfl
@[simp] theorem State.setSStat_icMark (s : State) (c : SStat) : (s.setSStat c).st.icMark = s.st.icMark := rfl
@[simp] theorem State.setSStat_icFence (s : State) (c : SStat) : (s.setSStat c).st.icFence = s.st.icFence := rfl
@[simp] theorem State.setSStat_icSeen (s : State) (c : SStat) : (s.setSStat c).st.icSeen = s.st.icSeen := rfl
@[simp] theorem State.setSStat_others (s : State) (c : SStat) : (s.setSStat c).others = s.others := rfl
@[simp] theorem State.setSStat_mem (s : State) (c : SStat) : (s.setSStat c).mem = s.mem := rfl
@[simp] theorem State.setSStat_wlog (s : State) (c : SStat) : (s.setSStat c).wlog = s.wlog := rfl
@[simp] theorem State.setSStat_poison (s : State) (c : SStat) : (s.setSStat c).poison = s.poison := rfl
@[simp] theorem State.setSStat_grans (s : State) (c : SStat) : (s.setSStat c).grans = s.grans := rfl
@[simp] theorem State.setSStat_reserved (s : State) (c : SStat) : (s.setSStat c).reserved = s.reserved := rfl
@[simp] theorem State.setSStat_fw (s : State) (c : SStat) : (s.setSStat c).fw = s.fw := rfl
@[simp] theorem State.setSStat_slots (s : State) (c : SStat) : (s.setSStat c).slots = s.slots := rfl
@[simp] theorem State.setSStat_lastArm (s : State) (c : SStat) : (s.setSStat c).lastArm = s.lastArm := rfl
@[simp] theorem State.setSStat_halves (s : State) (c : SStat) : (s.setSStat c).halves = s.halves := rfl
@[simp] theorem State.setSStat_recq (s : State) (c : SStat) : (s.setSStat c).recq = s.recq := rfl
@[simp] theorem State.setSStat_windows (s : State) (c : SStat) : (s.setSStat c).windows = s.windows := rfl
@[simp] theorem State.setSStat_oldRoots (s : State) (c : SStat) : (s.setSStat c).oldRoots = s.oldRoots := rfl
@[simp] theorem State.setSStat_pfWaits (s : State) (c : SStat) : (s.setSStat c).pfWaits = s.pfWaits := rfl
@[simp] theorem State.setSStat_idents (s : State) (c : SStat) : (s.setSStat c).idents = s.idents := rfl
@[simp] theorem State.setSStat_frames (s : State) (c : SStat) : (s.setSStat c).frames = s.frames := rfl
@[simp] theorem State.setSStat_images (s : State) (c : SStat) : (s.setSStat c).images = s.images := rfl
@[simp] theorem State.setSStat_host (s : State) (c : SStat) : (s.setSStat c).host = s.host := rfl
@[simp] theorem State.setSStat_inbox (s : State) (c : SStat) : (s.setSStat c).inbox = s.inbox := rfl
@[simp] theorem State.setSStat_tick (s : State) (c : SStat) : (s.setSStat c).tick = s.tick := rfl

/-! ## dirtyVs -/

@[simp] theorem State.dirtyVs_run (s : State) : (s.dirtyVs).st.run = s.st.run := by unfold State.dirtyVs; split <;> rfl
@[simp] theorem State.dirtyVs_fe (s : State) : (s.dirtyVs).st.fe = s.st.fe := by unfold State.dirtyVs; split <;> rfl
@[simp] theorem State.dirtyVs_lanes (s : State) : (s.dirtyVs).st.lanes = s.st.lanes := by unfold State.dirtyVs; split <;> rfl
@[simp] theorem State.dirtyVs_act (s : State) : (s.dirtyVs).st.act = s.st.act := by unfold State.dirtyVs; split <;> rfl
@[simp] theorem State.dirtyVs_degraded (s : State) : (s.dirtyVs).st.degraded = s.st.degraded := by unfold State.dirtyVs; split <;> rfl
@[simp] theorem State.dirtyVs_br (s : State) : (s.dirtyVs).st.br = s.st.br := by unfold State.dirtyVs; split <;> rfl
@[simp] theorem State.dirtyVs_boundAt (s : State) : (s.dirtyVs).st.boundAt = s.st.boundAt := by unfold State.dirtyVs; split <;> rfl
@[simp] theorem State.dirtyVs_pc (s : State) : (s.dirtyVs).st.pc = s.st.pc := by unfold State.dirtyVs; split <;> rfl
@[simp] theorem State.dirtyVs_x (s : State) : (s.dirtyVs).st.x = s.st.x := by unfold State.dirtyVs; split <;> rfl
@[simp] theorem State.dirtyVs_f (s : State) : (s.dirtyVs).st.f = s.st.f := by unfold State.dirtyVs; split <;> rfl
@[simp] theorem State.dirtyVs_frm (s : State) : (s.dirtyVs).st.frm = s.st.frm := by unfold State.dirtyVs; split <;> rfl
@[simp] theorem State.dirtyVs_fflags (s : State) : (s.dirtyVs).st.fflags = s.st.fflags := by unfold State.dirtyVs; split <;> rfl
@[simp] theorem State.dirtyVs_loops (s : State) : (s.dirtyVs).st.loops = s.st.loops := by unfold State.dirtyVs; split <;> rfl
@[simp] theorem State.dirtyVs_backEdge (s : State) : (s.dirtyVs).st.backEdge = s.st.backEdge := by unfold State.dirtyVs; split <;> rfl
@[simp] theorem State.dirtyVs_resv (s : State) : (s.dirtyVs).st.resv = s.st.resv := by unfold State.dirtyVs; split <;> rfl
@[simp] theorem State.dirtyVs_instret (s : State) : (s.dirtyVs).st.instret = s.st.instret := by unfold State.dirtyVs; split <;> rfl
@[simp] theorem State.dirtyVs_csr (s : State) : (s.dirtyVs).st.csr = s.st.csr := by unfold State.dirtyVs; split <;> rfl
@[simp] theorem State.dirtyVs_vec (s : State) : (s.dirtyVs).st.vec = s.st.vec := by unfold State.dirtyVs; split <;> rfl
@[simp] theorem State.dirtyVs_fab (s : State) : (s.dirtyVs).st.fab = s.st.fab := by unfold State.dirtyVs; split <;> rfl
@[simp] theorem State.dirtyVs_mat (s : State) : (s.dirtyVs).st.mat = s.st.mat := by unfold State.dirtyVs; split <;> rfl
@[simp] theorem State.dirtyVs_eng (s : State) : (s.dirtyVs).st.eng = s.st.eng := by unfold State.dirtyVs; split <;> rfl
@[simp] theorem State.dirtyVs_held (s : State) : (s.dirtyVs).st.held = s.st.held := by unfold State.dirtyVs; split <;> rfl
@[simp] theorem State.dirtyVs_icMark (s : State) : (s.dirtyVs).st.icMark = s.st.icMark := by unfold State.dirtyVs; split <;> rfl
@[simp] theorem State.dirtyVs_icFence (s : State) : (s.dirtyVs).st.icFence = s.st.icFence := by unfold State.dirtyVs; split <;> rfl
@[simp] theorem State.dirtyVs_icSeen (s : State) : (s.dirtyVs).st.icSeen = s.st.icSeen := by unfold State.dirtyVs; split <;> rfl
@[simp] theorem State.dirtyVs_others (s : State) : (s.dirtyVs).others = s.others := by unfold State.dirtyVs; split <;> rfl
@[simp] theorem State.dirtyVs_mem (s : State) : (s.dirtyVs).mem = s.mem := by unfold State.dirtyVs; split <;> rfl
@[simp] theorem State.dirtyVs_wlog (s : State) : (s.dirtyVs).wlog = s.wlog := by unfold State.dirtyVs; split <;> rfl
@[simp] theorem State.dirtyVs_poison (s : State) : (s.dirtyVs).poison = s.poison := by unfold State.dirtyVs; split <;> rfl
@[simp] theorem State.dirtyVs_grans (s : State) : (s.dirtyVs).grans = s.grans := by unfold State.dirtyVs; split <;> rfl
@[simp] theorem State.dirtyVs_reserved (s : State) : (s.dirtyVs).reserved = s.reserved := by unfold State.dirtyVs; split <;> rfl
@[simp] theorem State.dirtyVs_fw (s : State) : (s.dirtyVs).fw = s.fw := by unfold State.dirtyVs; split <;> rfl
@[simp] theorem State.dirtyVs_slots (s : State) : (s.dirtyVs).slots = s.slots := by unfold State.dirtyVs; split <;> rfl
@[simp] theorem State.dirtyVs_lastArm (s : State) : (s.dirtyVs).lastArm = s.lastArm := by unfold State.dirtyVs; split <;> rfl
@[simp] theorem State.dirtyVs_halves (s : State) : (s.dirtyVs).halves = s.halves := by unfold State.dirtyVs; split <;> rfl
@[simp] theorem State.dirtyVs_recq (s : State) : (s.dirtyVs).recq = s.recq := by unfold State.dirtyVs; split <;> rfl
@[simp] theorem State.dirtyVs_windows (s : State) : (s.dirtyVs).windows = s.windows := by unfold State.dirtyVs; split <;> rfl
@[simp] theorem State.dirtyVs_oldRoots (s : State) : (s.dirtyVs).oldRoots = s.oldRoots := by unfold State.dirtyVs; split <;> rfl
@[simp] theorem State.dirtyVs_pfWaits (s : State) : (s.dirtyVs).pfWaits = s.pfWaits := by unfold State.dirtyVs; split <;> rfl
@[simp] theorem State.dirtyVs_idents (s : State) : (s.dirtyVs).idents = s.idents := by unfold State.dirtyVs; split <;> rfl
@[simp] theorem State.dirtyVs_frames (s : State) : (s.dirtyVs).frames = s.frames := by unfold State.dirtyVs; split <;> rfl
@[simp] theorem State.dirtyVs_images (s : State) : (s.dirtyVs).images = s.images := by unfold State.dirtyVs; split <;> rfl
@[simp] theorem State.dirtyVs_host (s : State) : (s.dirtyVs).host = s.host := by unfold State.dirtyVs; split <;> rfl
@[simp] theorem State.dirtyVs_inbox (s : State) : (s.dirtyVs).inbox = s.inbox := by unfold State.dirtyVs; split <;> rfl
@[simp] theorem State.dirtyVs_tick (s : State) : (s.dirtyVs).tick = s.tick := by unfold State.dirtyVs; split <;> rfl

/-! ## dirtyTs -/

@[simp] theorem State.dirtyTs_run (s : State) : (s.dirtyTs).st.run = s.st.run := by unfold State.dirtyTs; split <;> rfl
@[simp] theorem State.dirtyTs_fe (s : State) : (s.dirtyTs).st.fe = s.st.fe := by unfold State.dirtyTs; split <;> rfl
@[simp] theorem State.dirtyTs_lanes (s : State) : (s.dirtyTs).st.lanes = s.st.lanes := by unfold State.dirtyTs; split <;> rfl
@[simp] theorem State.dirtyTs_act (s : State) : (s.dirtyTs).st.act = s.st.act := by unfold State.dirtyTs; split <;> rfl
@[simp] theorem State.dirtyTs_degraded (s : State) : (s.dirtyTs).st.degraded = s.st.degraded := by unfold State.dirtyTs; split <;> rfl
@[simp] theorem State.dirtyTs_br (s : State) : (s.dirtyTs).st.br = s.st.br := by unfold State.dirtyTs; split <;> rfl
@[simp] theorem State.dirtyTs_boundAt (s : State) : (s.dirtyTs).st.boundAt = s.st.boundAt := by unfold State.dirtyTs; split <;> rfl
@[simp] theorem State.dirtyTs_pc (s : State) : (s.dirtyTs).st.pc = s.st.pc := by unfold State.dirtyTs; split <;> rfl
@[simp] theorem State.dirtyTs_x (s : State) : (s.dirtyTs).st.x = s.st.x := by unfold State.dirtyTs; split <;> rfl
@[simp] theorem State.dirtyTs_f (s : State) : (s.dirtyTs).st.f = s.st.f := by unfold State.dirtyTs; split <;> rfl
@[simp] theorem State.dirtyTs_frm (s : State) : (s.dirtyTs).st.frm = s.st.frm := by unfold State.dirtyTs; split <;> rfl
@[simp] theorem State.dirtyTs_fflags (s : State) : (s.dirtyTs).st.fflags = s.st.fflags := by unfold State.dirtyTs; split <;> rfl
@[simp] theorem State.dirtyTs_loops (s : State) : (s.dirtyTs).st.loops = s.st.loops := by unfold State.dirtyTs; split <;> rfl
@[simp] theorem State.dirtyTs_backEdge (s : State) : (s.dirtyTs).st.backEdge = s.st.backEdge := by unfold State.dirtyTs; split <;> rfl
@[simp] theorem State.dirtyTs_resv (s : State) : (s.dirtyTs).st.resv = s.st.resv := by unfold State.dirtyTs; split <;> rfl
@[simp] theorem State.dirtyTs_instret (s : State) : (s.dirtyTs).st.instret = s.st.instret := by unfold State.dirtyTs; split <;> rfl
@[simp] theorem State.dirtyTs_csr (s : State) : (s.dirtyTs).st.csr = s.st.csr := by unfold State.dirtyTs; split <;> rfl
@[simp] theorem State.dirtyTs_vec (s : State) : (s.dirtyTs).st.vec = s.st.vec := by unfold State.dirtyTs; split <;> rfl
@[simp] theorem State.dirtyTs_fab (s : State) : (s.dirtyTs).st.fab = s.st.fab := by unfold State.dirtyTs; split <;> rfl
@[simp] theorem State.dirtyTs_mat (s : State) : (s.dirtyTs).st.mat = s.st.mat := by unfold State.dirtyTs; split <;> rfl
@[simp] theorem State.dirtyTs_eng (s : State) : (s.dirtyTs).st.eng = s.st.eng := by unfold State.dirtyTs; split <;> rfl
@[simp] theorem State.dirtyTs_held (s : State) : (s.dirtyTs).st.held = s.st.held := by unfold State.dirtyTs; split <;> rfl
@[simp] theorem State.dirtyTs_icMark (s : State) : (s.dirtyTs).st.icMark = s.st.icMark := by unfold State.dirtyTs; split <;> rfl
@[simp] theorem State.dirtyTs_icFence (s : State) : (s.dirtyTs).st.icFence = s.st.icFence := by unfold State.dirtyTs; split <;> rfl
@[simp] theorem State.dirtyTs_icSeen (s : State) : (s.dirtyTs).st.icSeen = s.st.icSeen := by unfold State.dirtyTs; split <;> rfl
@[simp] theorem State.dirtyTs_others (s : State) : (s.dirtyTs).others = s.others := by unfold State.dirtyTs; split <;> rfl
@[simp] theorem State.dirtyTs_mem (s : State) : (s.dirtyTs).mem = s.mem := by unfold State.dirtyTs; split <;> rfl
@[simp] theorem State.dirtyTs_wlog (s : State) : (s.dirtyTs).wlog = s.wlog := by unfold State.dirtyTs; split <;> rfl
@[simp] theorem State.dirtyTs_poison (s : State) : (s.dirtyTs).poison = s.poison := by unfold State.dirtyTs; split <;> rfl
@[simp] theorem State.dirtyTs_grans (s : State) : (s.dirtyTs).grans = s.grans := by unfold State.dirtyTs; split <;> rfl
@[simp] theorem State.dirtyTs_reserved (s : State) : (s.dirtyTs).reserved = s.reserved := by unfold State.dirtyTs; split <;> rfl
@[simp] theorem State.dirtyTs_fw (s : State) : (s.dirtyTs).fw = s.fw := by unfold State.dirtyTs; split <;> rfl
@[simp] theorem State.dirtyTs_slots (s : State) : (s.dirtyTs).slots = s.slots := by unfold State.dirtyTs; split <;> rfl
@[simp] theorem State.dirtyTs_lastArm (s : State) : (s.dirtyTs).lastArm = s.lastArm := by unfold State.dirtyTs; split <;> rfl
@[simp] theorem State.dirtyTs_halves (s : State) : (s.dirtyTs).halves = s.halves := by unfold State.dirtyTs; split <;> rfl
@[simp] theorem State.dirtyTs_recq (s : State) : (s.dirtyTs).recq = s.recq := by unfold State.dirtyTs; split <;> rfl
@[simp] theorem State.dirtyTs_windows (s : State) : (s.dirtyTs).windows = s.windows := by unfold State.dirtyTs; split <;> rfl
@[simp] theorem State.dirtyTs_oldRoots (s : State) : (s.dirtyTs).oldRoots = s.oldRoots := by unfold State.dirtyTs; split <;> rfl
@[simp] theorem State.dirtyTs_pfWaits (s : State) : (s.dirtyTs).pfWaits = s.pfWaits := by unfold State.dirtyTs; split <;> rfl
@[simp] theorem State.dirtyTs_idents (s : State) : (s.dirtyTs).idents = s.idents := by unfold State.dirtyTs; split <;> rfl
@[simp] theorem State.dirtyTs_frames (s : State) : (s.dirtyTs).frames = s.frames := by unfold State.dirtyTs; split <;> rfl
@[simp] theorem State.dirtyTs_images (s : State) : (s.dirtyTs).images = s.images := by unfold State.dirtyTs; split <;> rfl
@[simp] theorem State.dirtyTs_host (s : State) : (s.dirtyTs).host = s.host := by unfold State.dirtyTs; split <;> rfl
@[simp] theorem State.dirtyTs_inbox (s : State) : (s.dirtyTs).inbox = s.inbox := by unfold State.dirtyTs; split <;> rfl
@[simp] theorem State.dirtyTs_tick (s : State) : (s.dirtyTs).tick = s.tick := by unfold State.dirtyTs; split <;> rfl

/-! ## counted -/

@[simp] theorem State.counted_run (s : State) : (s.counted).st.run = s.st.run := rfl
@[simp] theorem State.counted_fe (s : State) : (s.counted).st.fe = s.st.fe := rfl
@[simp] theorem State.counted_lanes (s : State) : (s.counted).st.lanes = s.st.lanes := rfl
@[simp] theorem State.counted_act (s : State) : (s.counted).st.act = s.st.act := rfl
@[simp] theorem State.counted_degraded (s : State) : (s.counted).st.degraded = s.st.degraded := rfl
@[simp] theorem State.counted_br (s : State) : (s.counted).st.br = s.st.br := rfl
@[simp] theorem State.counted_boundAt (s : State) : (s.counted).st.boundAt = s.st.boundAt := rfl
@[simp] theorem State.counted_pc (s : State) : (s.counted).st.pc = s.st.pc := rfl
@[simp] theorem State.counted_x (s : State) : (s.counted).st.x = s.st.x := rfl
@[simp] theorem State.counted_f (s : State) : (s.counted).st.f = s.st.f := rfl
@[simp] theorem State.counted_frm (s : State) : (s.counted).st.frm = s.st.frm := rfl
@[simp] theorem State.counted_fflags (s : State) : (s.counted).st.fflags = s.st.fflags := rfl
@[simp] theorem State.counted_loops (s : State) : (s.counted).st.loops = s.st.loops := rfl
@[simp] theorem State.counted_backEdge (s : State) : (s.counted).st.backEdge = s.st.backEdge := rfl
@[simp] theorem State.counted_resv (s : State) : (s.counted).st.resv = s.st.resv := rfl
@[simp] theorem State.counted_sstat (s : State) : (s.counted).st.sstat = s.st.sstat := rfl
@[simp] theorem State.counted_csr (s : State) : (s.counted).st.csr = s.st.csr := rfl
@[simp] theorem State.counted_fab (s : State) : (s.counted).st.fab = s.st.fab := rfl
@[simp] theorem State.counted_mat (s : State) : (s.counted).st.mat = s.st.mat := rfl
@[simp] theorem State.counted_eng (s : State) : (s.counted).st.eng = s.st.eng := rfl
@[simp] theorem State.counted_held (s : State) : (s.counted).st.held = s.st.held := rfl
@[simp] theorem State.counted_icMark (s : State) : (s.counted).st.icMark = s.st.icMark := rfl
@[simp] theorem State.counted_icFence (s : State) : (s.counted).st.icFence = s.st.icFence := rfl
@[simp] theorem State.counted_icSeen (s : State) : (s.counted).st.icSeen = s.st.icSeen := rfl
@[simp] theorem State.counted_others (s : State) : (s.counted).others = s.others := rfl
@[simp] theorem State.counted_mem (s : State) : (s.counted).mem = s.mem := rfl
@[simp] theorem State.counted_wlog (s : State) : (s.counted).wlog = s.wlog := rfl
@[simp] theorem State.counted_poison (s : State) : (s.counted).poison = s.poison := rfl
@[simp] theorem State.counted_grans (s : State) : (s.counted).grans = s.grans := rfl
@[simp] theorem State.counted_reserved (s : State) : (s.counted).reserved = s.reserved := rfl
@[simp] theorem State.counted_fw (s : State) : (s.counted).fw = s.fw := rfl
@[simp] theorem State.counted_slots (s : State) : (s.counted).slots = s.slots := rfl
@[simp] theorem State.counted_lastArm (s : State) : (s.counted).lastArm = s.lastArm := rfl
@[simp] theorem State.counted_halves (s : State) : (s.counted).halves = s.halves := rfl
@[simp] theorem State.counted_recq (s : State) : (s.counted).recq = s.recq := rfl
@[simp] theorem State.counted_windows (s : State) : (s.counted).windows = s.windows := rfl
@[simp] theorem State.counted_oldRoots (s : State) : (s.counted).oldRoots = s.oldRoots := rfl
@[simp] theorem State.counted_pfWaits (s : State) : (s.counted).pfWaits = s.pfWaits := rfl
@[simp] theorem State.counted_idents (s : State) : (s.counted).idents = s.idents := rfl
@[simp] theorem State.counted_frames (s : State) : (s.counted).frames = s.frames := rfl
@[simp] theorem State.counted_images (s : State) : (s.counted).images = s.images := rfl
@[simp] theorem State.counted_host (s : State) : (s.counted).host = s.host := rfl
@[simp] theorem State.counted_inbox (s : State) : (s.counted).inbox = s.inbox := rfl
@[simp] theorem State.counted_tick (s : State) : (s.counted).tick = s.tick := rfl

/-! ## raise -/

@[simp] theorem State.raise_run (s : State) (t : TrapInfo) : (s.raise t).st.run = s.st.run := rfl
@[simp] theorem State.raise_fe (s : State) (t : TrapInfo) : (s.raise t).st.fe = s.st.fe := rfl
@[simp] theorem State.raise_lanes (s : State) (t : TrapInfo) : (s.raise t).st.lanes = s.st.lanes := rfl
@[simp] theorem State.raise_act (s : State) (t : TrapInfo) : (s.raise t).st.act = s.st.act := rfl
@[simp] theorem State.raise_degraded (s : State) (t : TrapInfo) : (s.raise t).st.degraded = s.st.degraded := rfl
@[simp] theorem State.raise_br (s : State) (t : TrapInfo) : (s.raise t).st.br = s.st.br := rfl
@[simp] theorem State.raise_boundAt (s : State) (t : TrapInfo) : (s.raise t).st.boundAt = s.st.boundAt := rfl
@[simp] theorem State.raise_pc (s : State) (t : TrapInfo) : (s.raise t).st.pc = s.st.pc := rfl
@[simp] theorem State.raise_x (s : State) (t : TrapInfo) : (s.raise t).st.x = s.st.x := rfl
@[simp] theorem State.raise_f (s : State) (t : TrapInfo) : (s.raise t).st.f = s.st.f := rfl
@[simp] theorem State.raise_frm (s : State) (t : TrapInfo) : (s.raise t).st.frm = s.st.frm := rfl
@[simp] theorem State.raise_fflags (s : State) (t : TrapInfo) : (s.raise t).st.fflags = s.st.fflags := rfl
@[simp] theorem State.raise_loops (s : State) (t : TrapInfo) : (s.raise t).st.loops = s.st.loops := rfl
@[simp] theorem State.raise_backEdge (s : State) (t : TrapInfo) : (s.raise t).st.backEdge = s.st.backEdge := rfl
@[simp] theorem State.raise_resv (s : State) (t : TrapInfo) : (s.raise t).st.resv = s.st.resv := rfl
@[simp] theorem State.raise_instret (s : State) (t : TrapInfo) : (s.raise t).st.instret = s.st.instret := rfl
@[simp] theorem State.raise_sstat (s : State) (t : TrapInfo) : (s.raise t).st.sstat = s.st.sstat := rfl
@[simp] theorem State.raise_csr (s : State) (t : TrapInfo) : (s.raise t).st.csr = s.st.csr := rfl
@[simp] theorem State.raise_vec (s : State) (t : TrapInfo) : (s.raise t).st.vec = s.st.vec := rfl
@[simp] theorem State.raise_fab (s : State) (t : TrapInfo) : (s.raise t).st.fab = s.st.fab := rfl
@[simp] theorem State.raise_mat (s : State) (t : TrapInfo) : (s.raise t).st.mat = s.st.mat := rfl
@[simp] theorem State.raise_eng (s : State) (t : TrapInfo) : (s.raise t).st.eng = s.st.eng := rfl
@[simp] theorem State.raise_icMark (s : State) (t : TrapInfo) : (s.raise t).st.icMark = s.st.icMark := rfl
@[simp] theorem State.raise_icFence (s : State) (t : TrapInfo) : (s.raise t).st.icFence = s.st.icFence := rfl
@[simp] theorem State.raise_icSeen (s : State) (t : TrapInfo) : (s.raise t).st.icSeen = s.st.icSeen := rfl
@[simp] theorem State.raise_others (s : State) (t : TrapInfo) : (s.raise t).others = s.others := rfl
@[simp] theorem State.raise_mem (s : State) (t : TrapInfo) : (s.raise t).mem = s.mem := rfl
@[simp] theorem State.raise_wlog (s : State) (t : TrapInfo) : (s.raise t).wlog = s.wlog := rfl
@[simp] theorem State.raise_poison (s : State) (t : TrapInfo) : (s.raise t).poison = s.poison := rfl
@[simp] theorem State.raise_grans (s : State) (t : TrapInfo) : (s.raise t).grans = s.grans := rfl
@[simp] theorem State.raise_reserved (s : State) (t : TrapInfo) : (s.raise t).reserved = s.reserved := rfl
@[simp] theorem State.raise_fw (s : State) (t : TrapInfo) : (s.raise t).fw = s.fw := rfl
@[simp] theorem State.raise_slots (s : State) (t : TrapInfo) : (s.raise t).slots = s.slots := rfl
@[simp] theorem State.raise_lastArm (s : State) (t : TrapInfo) : (s.raise t).lastArm = s.lastArm := rfl
@[simp] theorem State.raise_halves (s : State) (t : TrapInfo) : (s.raise t).halves = s.halves := rfl
@[simp] theorem State.raise_recq (s : State) (t : TrapInfo) : (s.raise t).recq = s.recq := rfl
@[simp] theorem State.raise_windows (s : State) (t : TrapInfo) : (s.raise t).windows = s.windows := rfl
@[simp] theorem State.raise_oldRoots (s : State) (t : TrapInfo) : (s.raise t).oldRoots = s.oldRoots := rfl
@[simp] theorem State.raise_pfWaits (s : State) (t : TrapInfo) : (s.raise t).pfWaits = s.pfWaits := rfl
@[simp] theorem State.raise_idents (s : State) (t : TrapInfo) : (s.raise t).idents = s.idents := rfl
@[simp] theorem State.raise_frames (s : State) (t : TrapInfo) : (s.raise t).frames = s.frames := rfl
@[simp] theorem State.raise_images (s : State) (t : TrapInfo) : (s.raise t).images = s.images := rfl
@[simp] theorem State.raise_host (s : State) (t : TrapInfo) : (s.raise t).host = s.host := rfl
@[simp] theorem State.raise_inbox (s : State) (t : TrapInfo) : (s.raise t).inbox = s.inbox := rfl
@[simp] theorem State.raise_tick (s : State) (t : TrapInfo) : (s.raise t).tick = s.tick := rfl

/-! ## What an update sets -/

@[simp] theorem State.setPc_pc (s : State) (p : Word) : (s.setPc p).st.pc = p := rfl
@[simp] theorem State.setVec_vec (s : State) (v : Vec) : (s.setVec v).st.vec = v := rfl
@[simp] theorem State.setPk_vec (s : State) (p : Pricking) : (s.setPk p).st.vec = { s.st.vec with pk := p } := rfl
@[simp] theorem State.setPass_vec (s : State) (p : Option Pass) : (s.setPass p).st.vec = { s.st.vec with pass := p } := rfl
@[simp] theorem State.setO_vec (s : State) (i : Fin 8) (v : Word) :
    (s.setO i v).st.vec = { s.st.vec with o := s.st.vec.o.set i v } := rfl
@[simp] theorem State.setMat_mat (s : State) (m : Mat) : (s.setMat m).st.mat = m := rfl
@[simp] theorem State.setEng_eng (s : State) (e : Eng) : (s.setEng e).st.eng = e := rfl
@[simp] theorem State.setFab_fab (s : State) (f : Fabric) : (s.setFab f).st.fab = f := rfl
@[simp] theorem State.setCsr_csr (s : State) (c : Csrs) : (s.setCsr c).st.csr = c := rfl
@[simp] theorem State.setSStat_sstat (s : State) (c : SStat) : (s.setSStat c).st.sstat = c := rfl
@[simp] theorem State.counted_instret (s : State) : s.counted.st.instret = s.st.instret + 1 := rfl
@[simp] theorem State.raise_held (s : State) (t : TrapInfo) : (s.raise t).st.held = s.st.held ++ [t] := rfl

/-- Writing an f register and reading it. -/
theorem State.f_setF (s : State) (r q : BitVec 5) (v : Word) : (s.setF r v).f q = if q = r then v else s.f q := by
  unfold State.f State.setF
  by_cases h : r = q
  · subst h; simp
  · have : r.toNat ≠ q.toNat := fun e => h (BitVec.eq_of_toNat_eq e)
    simp [Vector.getElem_set_ne, this, Ne.symm h]

/-- x0 reads zero. -/
@[simp] theorem State.x_zero (s : State) : s.x 0 = 0 := by simp [State.x]

/-- A write of another register than x0. -/
theorem State.setX_of_ne (s : State) (r : BitVec 5) (v : Word) (h : r ≠ 0) :
    s.setX r v = { s with st := { s.st with x := s.st.x.set r.toNat v r.isLt } } := if_neg h

/-- Writing an x register and reading it. -/
theorem State.x_setX (s : State) (r q : BitVec 5) (v : Word) :
    (s.setX r v).x q = if q = r ∧ r ≠ 0 then v else s.x q := by
  by_cases hr : r = 0
  · simp [hr, State.setX]
  · rw [State.setX_of_ne s r v hr]
    by_cases h : q = r
    · subst h; simp only [State.x, hr, ↓reduceIte, Vector.getElem_set_self]; simp; exact fun e => absurd e hr
    · have : r.toNat ≠ q.toNat := fun e => h (BitVec.eq_of_toNat_eq e).symm
      simp only [State.x, Vector.getElem_set_ne _ _ this, h, false_and, ↓reduceIte]

/-- A write of x0 does nothing. -/
@[simp] theorem State.setX_zero (s : State) (v : Word) : s.setX 0 v = s := by simp [State.setX]

/-- What a register read depends on. -/
theorem State.x_congr (s t : State) (h : t.st.x = s.st.x) (r : BitVec 5) : t.x r = s.x r := by simp [State.x, h]

/-- What an f register read depends on. -/
theorem State.f_congr (s t : State) (h : t.st.f = s.st.f) (r : BitVec 5) : t.f r = s.f r := by simp [State.f, h]

/-! ## Completing an instruction -/

@[simp] theorem advance_pc (s : State) : (advance s).st.pc = (loopEnd s.st.pc s.st.loops).2.1 := rfl
@[simp] theorem advance_loops (s : State) : (advance s).st.loops = (loopEnd s.st.pc s.st.loops).1 := rfl
@[simp] theorem advance_x (s : State) : (advance s).st.x = s.st.x := rfl
@[simp] theorem advance_f (s : State) : (advance s).st.f = s.st.f := rfl
@[simp] theorem advance_csr (s : State) : (advance s).st.csr = s.st.csr := rfl
@[simp] theorem advance_sstat (s : State) : (advance s).st.sstat = s.st.sstat := rfl
@[simp] theorem advance_eng (s : State) : (advance s).st.eng = s.st.eng := rfl
@[simp] theorem advance_fab (s : State) : (advance s).st.fab = s.st.fab := rfl
@[simp] theorem advance_mat (s : State) : (advance s).st.mat = s.st.mat := rfl
@[simp] theorem advance_held (s : State) : (advance s).st.held = s.st.held := rfl
@[simp] theorem advance_mem (s : State) : (advance s).mem = s.mem := rfl
@[simp] theorem advance_others (s : State) : (advance s).others = s.others := rfl
@[simp] theorem advance_fw (s : State) : (advance s).fw = s.fw := rfl
@[simp] theorem advance_tick (s : State) : (advance s).tick = s.tick := rfl

/-- Outside hardware loops control goes to the next word. -/
theorem loopEnd_nil (pc : Word) : loopEnd pc [] = ([], pc + 4, false) := rfl

end Sys2Proof.Machine
end

