-- ==== Sys2Proof/Laws/Mem.lean ====
section
/-! SUPPORT. Laws/Mem.lean: the byte memory: read after write, and every operation keeps the canonical form. -/

namespace Sys2Proof.Machine

/-- A memory in canonical form from lo up reads zero below lo. -/
theorem Memory.get_below (m : Memory) (lo a : Nat) (h : m.wfFrom lo = true) (ha : a < lo) : m.get a = 0 := by
  induction m generalizing lo with
  | nil => rfl
  | cons c t ih =>
    obtain ⟨k, b⟩ := c
    simp only [Memory.wfFrom, Bool.and_eq_true, decide_eq_true_eq] at h
    have h1 : ¬ k = a := by omega
    have h2 : a < k := by omega
    simp [Memory.get, h1, h2]

/-- The canonical form may be stated from a lower key. -/
theorem Memory.wfFrom_le (m : Memory) (lo lo' : Nat) (h : m.wfFrom lo = true) (hl : lo' ≤ lo) : m.wfFrom lo' = true := by
  cases m with
  | nil => rfl
  | cons c t =>
    obtain ⟨k, b⟩ := c
    simp only [Memory.wfFrom, Bool.and_eq_true, decide_eq_true_eq] at h ⊢
    exact ⟨⟨by omega, h.1.2⟩, h.2⟩

/-- The canonical form of a cons. -/
theorem Memory.wfFrom_cons (lo k : Nat) (b : Byte) (t : Memory) :
    Memory.wfFrom lo ((k, b) :: t) = true ↔ lo ≤ k ∧ ¬ b = 0 ∧ t.wfFrom (k + 1) = true := by
  simp only [Memory.wfFrom, Bool.and_eq_true, decide_eq_true_eq, bne_iff_ne, ne_eq, and_assoc]

/-- A write keeps the canonical form. -/
theorem Memory.wfFrom_put (m : Memory) (lo a : Nat) (v : Byte) (h : m.wfFrom lo = true) (ha : lo ≤ a) :
    (m.put a v).wfFrom lo = true := by
  induction m generalizing lo with
  | nil =>
    unfold Memory.put
    split
    · rfl
    · next hv => exact (Memory.wfFrom_cons ..).2 ⟨ha, hv, rfl⟩
  | cons c t ih =>
    obtain ⟨k, b⟩ := c
    obtain ⟨h0, hb, ht⟩ := (Memory.wfFrom_cons ..).1 h
    unfold Memory.put
    by_cases h1 : a < k
    · rw [if_pos h1]
      split
      · exact h
      · next hv => exact (Memory.wfFrom_cons ..).2 ⟨ha, hv, (Memory.wfFrom_cons ..).2 ⟨h1, hb, ht⟩⟩
    · rw [if_neg h1]
      by_cases h2 : k = a
      · rw [if_pos h2]
        subst h2
        split
        · exact Memory.wfFrom_le t _ _ ht (by omega)
        · next hv => exact (Memory.wfFrom_cons ..).2 ⟨ha, hv, ht⟩
      · rw [if_neg h2]
        exact (Memory.wfFrom_cons ..).2 ⟨h0, hb, ih (k + 1) ht (by omega)⟩

/-- A write keeps the canonical form. -/
theorem Memory.wf_put (m : Memory) (a : Nat) (v : Byte) (h : m.wf = true) : (m.put a v).wf = true :=
  m.wfFrom_put 0 a v h (Nat.zero_le a)

/-- Taking entries away keeps the canonical form. -/
theorem Memory.wfFrom_filter (m : Memory) (lo : Nat) (p : Host.Cell → Bool) (h : m.wfFrom lo = true) :
    Memory.wfFrom lo (m.filter p) = true := by
  induction m generalizing lo with
  | nil => rfl
  | cons c t ih =>
    obtain ⟨k, b⟩ := c
    obtain ⟨h0, hb, ht⟩ := (Memory.wfFrom_cons ..).1 h
    rw [List.filter_cons]
    split
    · exact (Memory.wfFrom_cons ..).2 ⟨h0, hb, ih (k + 1) ht⟩
    · exact Memory.wfFrom_le _ _ _ (ih (k + 1) ht) (by omega)

/-- Clearing keys keeps the canonical form. -/
theorem Memory.wf_clear (m : Memory) (lo hi : Nat) (h : m.wf = true) : (m.clear lo hi).wf = true :=
  m.wfFrom_filter 0 _ h

/-- Reading a cons. -/
theorem Memory.get_cons (j : Nat) (b : Byte) (t : Memory) (k : Nat) :
    Memory.get ((j, b) :: t) k = if j = k then b else if k < j then 0 else t.get k := rfl

/-- Read after write. -/
theorem Memory.wfFrom_get_put (m : Memory) (lo a k : Nat) (v : Byte) (h : m.wfFrom lo = true) :
    (m.put a v).get k = if k = a then v else m.get k := by
  induction m generalizing lo with
  | nil =>
    unfold Memory.put
    by_cases hv : v = 0
    · rw [if_pos hv, hv]; simp [Memory.get]
    · rw [if_neg hv, Memory.get_cons]
      by_cases hk : k = a
      · simp [hk]
      · simp [hk, Ne.symm hk, Memory.get]
  | cons c t ih =>
    obtain ⟨j, b⟩ := c
    obtain ⟨h0, hb, ht⟩ := (Memory.wfFrom_cons ..).1 h
    unfold Memory.put
    by_cases h1 : a < j
    · rw [if_pos h1]
      have hja : ¬ j = a := by omega
      by_cases hv : v = 0
      · rw [if_pos hv]
        by_cases hk : k = a
        · subst hk; rw [Memory.get_cons, if_neg hja, if_pos h1, if_pos rfl, hv]
        · rw [if_neg hk]
      · rw [if_neg hv, Memory.get_cons]
        by_cases hk : k = a
        · rw [if_pos hk.symm, if_pos hk]
        · rw [if_neg (Ne.symm hk), if_neg hk]
          by_cases hk2 : k < a
          · rw [if_pos hk2, Memory.get_cons, if_neg (by omega), if_pos (by omega)]
          · rw [if_neg hk2]
    · rw [if_neg h1]
      by_cases h2 : j = a
      · rw [if_pos h2]
        subst h2
        by_cases hk : k = j
        · subst hk
          rw [if_pos rfl]
          by_cases hv : v = 0
          · rw [if_pos hv, hv]; exact Memory.get_below t (k + 1) k ht (by omega)
          · rw [if_neg hv, Memory.get_cons, if_pos rfl]
        · rw [if_neg hk, Memory.get_cons, if_neg (Ne.symm hk)]
          by_cases hv : v = 0
          · rw [if_pos hv]
            by_cases hk2 : k < j
            · rw [if_pos hk2]; exact Memory.get_below t (j + 1) k ht (by omega)
            · rw [if_neg hk2]
          · rw [if_neg hv, Memory.get_cons, if_neg (Ne.symm hk)]
      · rw [if_neg h2, Memory.get_cons, Memory.get_cons, ih (j + 1) ht]
        by_cases hk : j = k
        · rw [if_pos hk, if_pos hk, if_neg (by omega)]
        · rw [if_neg hk, if_neg hk]
          by_cases hk2 : k < j
          · rw [if_pos hk2, if_pos hk2, if_neg (by omega)]
          · rw [if_neg hk2, if_neg hk2]

/-- Read after write. -/
theorem Memory.get_put (m : Memory) (a k : Nat) (v : Byte) (h : m.wf = true) :
    (m.put a v).get k = if k = a then v else m.get k := m.wfFrom_get_put 0 a k v h

/-- The memory after reset is in canonical form. -/
theorem reset_mem_wf : State.reset.mem.wf = true := rfl

/-! ## Package memory -/

/-- A byte write keeps the canonical form. -/
theorem State.putByte_wf (s : State) (w : Writer) (k : Nat) (b : Byte) (h : s.mem.wf = true) :
    (s.putByte w k b).mem.wf = true := Memory.wf_put _ _ _ h

/-- Byte writes one after another keep the canonical form. -/
theorem State.putAll_wf (s : State) (w : Writer) (cs : List Host.Cell) (h : s.mem.wf = true) :
    (cs.foldl (fun s c => s.putByte w c.1 c.2) s).mem.wf = true := by
  induction cs generalizing s with
  | nil => exact h
  | cons c t ih => exact ih _ (s.putByte_wf w c.1 c.2 h)

/-- What a write leaves unobserved changes the engines alone. -/
theorem State.unhide_eq (s : State) (w : Writer) (cs : List Host.Cell) :
    s.unhide w cs = { s with st := { s.st with eng := (s.unhide w cs).st.eng } } := by
  unfold State.unhide; split <;> rfl

/-- Memory after a write leaves nothing unobserved. -/
@[simp] theorem State.unhide_mem (s : State) (w : Writer) (cs : List Host.Cell) : (s.unhide w cs).mem = s.mem := by
  rw [s.unhide_eq w cs]

/-- Whom a write passes by changes the engines and the passes of strands alone. -/
theorem State.passBy_eq (s : State) (w : Writer) (cs : List Host.Cell) :
    s.passBy w cs = { s with st := { s.st with eng := (s.passBy w cs).st.eng, vec := (s.passBy w cs).st.vec },
                             others := (s.passBy w cs).others } := by
  unfold State.passBy Strand.passedBy; split <;> (try split) <;> rfl

/-- Memory after a write has passed strands by. -/
@[simp] theorem State.passBy_mem (s : State) (w : Writer) (cs : List Host.Cell) : (s.passBy w cs).mem = s.mem := rfl

/-- A write of cells keeps the canonical form. -/
theorem State.write_wf (s : State) (w : Writer) (cs : List Host.Cell) (h : s.mem.wf = true) :
    (s.write w cs).mem.wf = true := State.putAll_wf _ w _ (by simpa using h)

/-- Byte writes leave every key that none of the cells names. -/
theorem State.putAll_get (s : State) (w : Writer) (cs : List Host.Cell) (k : Nat) (h : s.mem.wf = true)
    (hk : ∀ c ∈ cs, c.1 ≠ k) : (cs.foldl (fun s c => s.putByte w c.1 c.2) s).mem.get k = s.mem.get k := by
  induction cs generalizing s with
  | nil => rfl
  | cons c t ih =>
    have h1 := ih (s.putByte w c.1 c.2) (s.putByte_wf w c.1 c.2 h) (fun d hd => hk d (List.mem_cons_of_mem _ hd))
    have h2 : (s.putByte w c.1 c.2).mem.get k = s.mem.get k := by
      have := hk c (List.mem_cons_self ..)
      show (s.mem.put c.1 c.2).get k = _
      rw [Memory.get_put _ _ _ _ h, if_neg (Ne.symm this)]
    exact h1.trans h2

/-- A write leaves every key that none of its cells names. -/
theorem State.write_get (s : State) (w : Writer) (cs : List Host.Cell) (k : Nat) (h : s.mem.wf = true)
    (hk : ∀ c ∈ cs, c.1 ≠ k) : (s.write w cs).mem.get k = s.mem.get k := by
  have := State.putAll_get { (s.passBy w (cs.filter (fun c => !s.dropsAt cs c.1))).unhide w (cs.filter (fun c => !s.dropsAt cs c.1)) with
    wlog := s.overwritten w (cs.filter (fun c => !s.dropsAt cs c.1)) ++ s.wlog
    poison := s.poison.filter (fun p => !((List.range p.2).all (fun i => cs.any (fun c => c.1 == p.1 + i)))) } w
    (cs.filter (fun c => !s.dropsAt cs c.1)) k (by simpa using h) (fun c hc => hk c (List.mem_filter.1 hc).1)
  simpa [State.write] using this

/-- What byte writes leave of the strand. -/
theorem State.putAll_keeps (s : State) (w : Writer) (cs : List Host.Cell) :
    (cs.foldl (fun s c => s.putByte w c.1 c.2) s).st.x = s.st.x ∧ (cs.foldl (fun s c => s.putByte w c.1 c.2) s).st.f = s.st.f ∧ (cs.foldl (fun s c => s.putByte w c.1 c.2) s).st.pc = s.st.pc ∧
    (cs.foldl (fun s c => s.putByte w c.1 c.2) s).st.loops = s.st.loops ∧ (cs.foldl (fun s c => s.putByte w c.1 c.2) s).st.csr = s.st.csr ∧ (cs.foldl (fun s c => s.putByte w c.1 c.2) s).st.sstat = s.st.sstat ∧
    (cs.foldl (fun s c => s.putByte w c.1 c.2) s).st.eng = s.st.eng ∧ (cs.foldl (fun s c => s.putByte w c.1 c.2) s).st.mat = s.st.mat ∧ (cs.foldl (fun s c => s.putByte w c.1 c.2) s).st.fab = s.st.fab ∧
    (cs.foldl (fun s c => s.putByte w c.1 c.2) s).tick = s.tick ∧ (cs.foldl (fun s c => s.putByte w c.1 c.2) s).fw = s.fw := by
  induction cs generalizing s with
  | nil => simp
  | cons c t ih => exact ih (s.putByte w c.1 c.2)

/-- What a write of cells leaves of the strand. -/
theorem State.write_keeps (s : State) (w : Writer) (cs : List Host.Cell) :
    (s.write w cs).st.x = s.st.x ∧ (s.write w cs).st.f = s.st.f ∧ (s.write w cs).st.pc = s.st.pc ∧
    (s.write w cs).st.loops = s.st.loops ∧ (s.write w cs).st.csr = s.st.csr ∧ (s.write w cs).st.sstat = s.st.sstat ∧
    (s.write w cs).st.eng = ((s.passBy w (cs.filter (fun c => !s.dropsAt cs c.1))).unhide w (cs.filter (fun c => !s.dropsAt cs c.1))).st.eng ∧ (s.write w cs).st.mat = s.st.mat ∧
    (s.write w cs).st.fab = s.st.fab ∧ (s.write w cs).tick = s.tick ∧ (s.write w cs).fw = s.fw := by
  have h := State.putAll_keeps { (s.passBy w (cs.filter (fun c => !s.dropsAt cs c.1))).unhide w (cs.filter (fun c => !s.dropsAt cs c.1)) with
    wlog := s.overwritten w (cs.filter (fun c => !s.dropsAt cs c.1)) ++ s.wlog
    poison := s.poison.filter (fun p => !((List.range p.2).all (fun i => cs.any (fun c => c.1 == p.1 + i)))) } w
    (cs.filter (fun c => !s.dropsAt cs c.1))
  have e := (s.passBy w (cs.filter (fun c => !s.dropsAt cs c.1))).unhide_eq w (cs.filter (fun c => !s.dropsAt cs c.1))
  have p := s.passBy_eq w (cs.filter (fun c => !s.dropsAt cs c.1))
  simp only [State.write]
  rw [e, p] at h ⊢
  exact h

/-- Where every path of the strand observes its copies, a write leaves the engines alone. -/
theorem State.write_eng (s : State) (w : Writer) (cs : List Host.Cell) (h : s.st.eng.unseen = []) :
    (s.write w cs).st.eng = s.st.eng := by
  rw [(s.write_keeps w cs).2.2.2.2.2.2.1]
  cases w <;> simp [State.unhide, State.passBy, Strand.passedBy, h]

end Sys2Proof.Machine
end

