-- ==== Sys2Proof/Laws/Trap.lean ====
section
/-! SUPPORT. Laws/Trap.lean: what a force, a kill and trap entry leave as it was, and what trap entry writes. -/

namespace Sys2Proof.Machine

/-- What a force leaves: it changes the pricking and the pass, vs, the serial number and the held faults of the strand. -/
abbrev ForceKeeps (s t : State) : Prop :=
  t.st.x = s.st.x ∧ t.st.f = s.st.f ∧ t.st.pc = s.st.pc ∧ t.st.loops = s.st.loops ∧ t.st.csr = s.st.csr ∧ t.st.br = s.st.br ∧
    t.st.fab = s.st.fab ∧ t.st.mat = s.st.mat ∧ t.st.run = s.st.run ∧ t.st.fe = s.st.fe ∧ t.st.lanes = s.st.lanes ∧
    t.mem = s.mem ∧ t.others = s.others ∧ t.fw = s.fw ∧ t.tick = s.tick ∧ t.st.sstat.mode = s.st.sstat.mode ∧ t.st.frm = s.st.frm ∧
    t.st.fflags = s.st.fflags ∧ t.frames = s.frames

/-- The resident registers and the set-length state stand: a pass writes registers when it ends (04 R89). -/
abbrev ResidentKept (s t : State) : Prop :=
  t.st.vec.v = s.st.vec.v ∧ t.st.vec.k = s.st.vec.k ∧ t.st.vec.o = s.st.vec.o ∧ t.st.vec.vl = s.st.vec.vl ∧
    t.st.vec.vtype = s.st.vec.vtype ∧ t.st.vec.vstart = s.st.vec.vstart

/-- The mode is no part of what becomes dirty. -/
theorem dirtyVs_mode (s : State) : s.dirtyVs.st.sstat.mode = s.st.sstat.mode := by unfold State.dirtyVs; split <;> rfl

/-- What becomes dirty where vector state changes is vs alone. -/
theorem dirtyIf_eq (s t : State) : s.dirtyIf t = { t with st := { t.st with sstat := (s.dirtyIf t).st.sstat } } := by
  unfold State.dirtyIf State.dirtyVs; split <;> (try split) <;> rfl

/-- The vector state then. -/
theorem dirtyIf_vec (s t : State) : (s.dirtyIf t).st.vec = t.st.vec := by rw [dirtyIf_eq]

/-- The mode then. -/
theorem dirtyIf_mode (s t : State) : (s.dirtyIf t).st.sstat.mode = t.st.sstat.mode := by
  unfold State.dirtyIf; split
  · rfl
  · exact dirtyVs_mode t

/-- A change of vector state that keeps the rest keeps it with vs dirty. -/
theorem dirtyIf_keeps (s t : State) (h : ForceKeeps s t) : ForceKeeps s (s.dirtyIf t) := by
  have hm := dirtyIf_mode s t
  have e := dirtyIf_eq s t
  obtain ⟨h1, h2, h3, h4, h5, h6, h7, h8, h9, h10, h11, h12, h13, h14, h15, h16, h17, h18, h19⟩ := h
  rw [← hm] at h16
  refine ⟨?_, ?_, ?_, ?_, ?_, ?_, ?_, ?_, ?_, ?_, ?_, ?_, ?_, ?_, ?_, h16, ?_, ?_, ?_⟩ <;> rw [e] <;> assumption

/-- The start of a pass. -/
theorem startPass_keeps (s : State) (w : Option Nat) (b : Bool) (l : List Shade) (n : Nat) (m : Bool) :
    ForceKeeps s (s.startPass w b l n m) ∧ ResidentKept s (s.startPass w b l n m) := by
  unfold State.startPass
  simp only []
  split
  · have hk := dirtyIf_keeps s (s.setPk s.st.vec.pk.forced) (by simp [ForceKeeps])
    split
    · exact ⟨hk, by simp [ResidentKept, dirtyIf_vec]⟩
    · exact ⟨hk, by simp [ResidentKept, dirtyIf_vec]⟩
  · simp [ForceKeeps, ResidentKept, dirtyVs_mode]

/-- A force point behind a pass in flight. -/
theorem forceAhead_keeps (s : State) : ForceKeeps s s.forceAhead ∧ ResidentKept s s.forceAhead := by
  unfold State.forceAhead
  simp only []
  refine ⟨dirtyIf_keeps s _ ?_, ?_⟩ <;> (try simp only [ResidentKept, dirtyIf_vec]) <;> split <;>
    (try split) <;> (try split) <;> simp [ForceKeeps, Vec.refill] <;> split <;> (try split) <;> simp

/-- A force point. -/
theorem forceFor_both (w : Option Nat) (s : State) : ForceKeeps s (forceFor w s) ∧ ResidentKept s (forceFor w s) := by
  unfold forceFor
  split
  · exact forceAhead_keeps s
  · split
    · exact startPass_keeps s w _ _ _ _
    · exact ⟨dirtyIf_keeps s _ (by simp [ForceKeeps]), by simp [ResidentKept, dirtyIf_vec]⟩

/-- A force changes vector state, vs, the serial number and the held faults of the strand, and nothing else. -/
theorem forceFor_keeps (w : Option Nat) (s : State) : ForceKeeps s (forceFor w s) := (forceFor_both w s).1

/-- A force keeps what forceFor_keeps names. -/
theorem force_x (s : State) : (force s).st.x = s.st.x := (forceFor_keeps none s).1
theorem force_f (s : State) : (force s).st.f = s.st.f := (forceFor_keeps none s).2.1
theorem force_pc (s : State) : (force s).st.pc = s.st.pc := (forceFor_keeps none s).2.2.1
theorem force_loops (s : State) : (force s).st.loops = s.st.loops := (forceFor_keeps none s).2.2.2.1
theorem force_csr (s : State) : (force s).st.csr = s.st.csr := (forceFor_keeps none s).2.2.2.2.1
theorem force_mem (s : State) : (force s).mem = s.mem := by
  have := forceFor_keeps none s; exact this.2.2.2.2.2.2.2.2.2.2.2.1
theorem force_others (s : State) : (force s).others = s.others := by
  have := forceFor_keeps none s; exact this.2.2.2.2.2.2.2.2.2.2.2.2.1
theorem force_fw (s : State) : (force s).fw = s.fw := by
  have := forceFor_keeps none s; exact this.2.2.2.2.2.2.2.2.2.2.2.2.2.1
theorem force_tick (s : State) : (force s).tick = s.tick := by
  have := forceFor_keeps none s; exact this.2.2.2.2.2.2.2.2.2.2.2.2.2.2.1
theorem force_mode (s : State) : (force s).st.sstat.mode = s.st.sstat.mode := by
  have := forceFor_keeps none s; exact this.2.2.2.2.2.2.2.2.2.2.2.2.2.2.2.1

theorem force_frames (s : State) : (force s).frames = s.frames := by
  have := forceFor_keeps none s; exact this.2.2.2.2.2.2.2.2.2.2.2.2.2.2.2.2.2.2

/-- A force leaves the resident registers: a pass writes them when it ends (04 R89). -/
theorem forceFor_resident (w : Option Nat) (s : State) : ResidentKept s (forceFor w s) := (forceFor_both w s).2

/-- Stopping a strand leaves its registers. -/
theorem Strand.stop_keeps (t : Strand) : t.stop.x = t.x ∧ t.stop.f = t.f ∧ t.stop.pc = t.pc ∧ t.stop.csr = t.csr ∧
    t.stop.vec = t.vec ∧ t.stop.mat = t.mat ∧ t.stop.eng = t.eng ∧ t.stop.fab = t.fab ∧ t.stop.sstat = t.sstat ∧
    t.stop.loops = t.loops ∧ t.stop.fe = t.fe ∧ t.stop.br = t.br := by simp [Strand.stop]

/-- A kill stops strands and marks their crew; it changes no register and no memory. -/
theorem State.killTask_keeps (s : State) (k : BitVec 8 × Word × Word × Word) :
    (s.killTask k).st.x = s.st.x ∧ (s.killTask k).st.f = s.st.f ∧ (s.killTask k).st.pc = s.st.pc ∧
    (s.killTask k).st.csr = s.st.csr ∧ (s.killTask k).mem = s.mem ∧ (s.killTask k).tick = s.tick ∧
    (s.killTask k).st.vec = s.st.vec ∧ (s.killTask k).st.sstat = s.st.sstat ∧
    (s.killTask k).others.map Strand.x = s.others.map Strand.x := by
  unfold State.killTask
  split
  · next c _ =>
    have h : ∀ t : Strand, (if t.ofCrew c then t.stop else t).x = t.x ∧ (if t.ofCrew c then t.stop else t).f = t.f ∧
        (if t.ofCrew c then t.stop else t).pc = t.pc ∧ (if t.ofCrew c then t.stop else t).csr = t.csr ∧
        (if t.ofCrew c then t.stop else t).vec = t.vec ∧ (if t.ofCrew c then t.stop else t).sstat = t.sstat := by
      intro t; split <;> simp [t.stop_keeps]
    refine ⟨(h s.st).1, (h s.st).2.1, (h s.st).2.2.1, (h s.st).2.2.2.1, rfl, rfl, (h s.st).2.2.2.2.1, (h s.st).2.2.2.2.2, ?_⟩
    show (s.others.map _).map Strand.x = _
    rw [List.map_map]
    exact List.map_congr_left (fun t _ => (h t).1)
  · simp [Strand.stop_keeps]

/-- Trap entry in task mode with a handler (11 R285). -/
theorem trapEnter_task (s : State) (t : TrapInfo) (imp : Bool) (pc : Word) (h : s.sup = false) (hv : s.st.csr.stvec ≠ 0) :
    trapEnter s t imp pc =
      { s with st := { s.st with
          csr := { s.st.csr with scause := causeWord t.code imp (fatal t.code imp), sepc := pc, stval := t.stval,
                                 selem := t.selem, sorig := t.sorig }
          sstat := { s.st.sstat with pmode := s.st.sstat.mode, mode := true }
          pc := s.st.csr.stvec, resv := none, backEdge := false, eng := { s.st.eng with query := none, barcAt := none, half := none } } } := by
  have h2 : ¬ (s.sup || s.st.csr.stvec == 0) = true := by simpa [h] using hv
  unfold trapEnter
  rw [if_neg h2]

/-- Trap entry in supervisor mode, or without a handler, escalates (02 R51). -/
theorem trapEnter_escalates (s : State) (t : TrapInfo) (imp : Bool) (pc : Word) (h : s.sup = true ∨ s.st.csr.stvec = 0) :
    trapEnter s t imp pc = escalate s t imp pc := by
  unfold trapEnter
  rcases h with h | h <;> simp [h]

/-- Trap entry changes no x or f register and no memory. -/
theorem trapEnter_keeps (s : State) (t : TrapInfo) (imp : Bool) (pc : Word) :
    (trapEnter s t imp pc).st.x = s.st.x ∧ (trapEnter s t imp pc).st.f = s.st.f ∧ (trapEnter s t imp pc).mem = s.mem ∧
    (trapEnter s t imp pc).tick = s.tick ∧ (trapEnter s t imp pc).others.map Strand.x = s.others.map Strand.x := by
  unfold trapEnter
  split
  · have := s.killTask_keeps (t.code, t.stval, t.selem, origOf (if imp then t.sorig else pc) s.entryOf)
    exact ⟨this.1, this.2.1, this.2.2.2.2.1, this.2.2.2.2.2.1, this.2.2.2.2.2.2.2.2⟩
  · simp

/-- The force of a trap entry changes no x or f register and no memory. -/
theorem trapForce_keeps (s : State) :
    (trapForce s).st.x = s.st.x ∧ (trapForce s).st.f = s.st.f ∧ (trapForce s).mem = s.mem ∧ (trapForce s).tick = s.tick ∧
    (trapForce s).others = s.others := by
  unfold trapForce
  split
  · simp
  · simp [force_x, force_f, force_mem, force_tick, force_others]

/-- Trap entry with its force changes no x or f register and no memory. -/
theorem trapEntry_keeps (s : State) (t : TrapInfo) (imp : Bool) (pc : Word) :
    (trapEntry s t imp pc).st.x = s.st.x ∧ (trapEntry s t imp pc).st.f = s.st.f ∧ (trapEntry s t imp pc).mem = s.mem ∧
    (trapEntry s t imp pc).tick = s.tick ∧ (trapEntry s t imp pc).others.map Strand.x = s.others.map Strand.x := by
  have h1 := trapEnter_keeps (trapForce s) t imp pc
  have h2 := trapForce_keeps s
  refine ⟨h1.1.trans h2.1, h1.2.1.trans h2.2.1, h1.2.2.1.trans h2.2.2.1, h1.2.2.2.1.trans h2.2.2.2.1, h1.2.2.2.2.trans ?_⟩
  rw [h2.2.2.2.2]

end Sys2Proof.Machine
end

