-- ==== Sys2Proof/Laws/Vec.lean ====
section
/-! SUPPORT. Laws/Vec.lean: what the shared operations of vector instructions do: the gate, the force, and a noting. -/

namespace Sys2Proof.Machine

/-- A vector state that is on and not initial or clean is dirty. -/
theorem vs_dirty (b : BitVec 2) (h : b ≠ 0) (h2 : ¬ (b = 1 ∨ b = 2)) : b = 3 := by
  revert h h2; revert b; decide

/-- Where vs is on, dirtyVs makes it dirty (02 R54). -/
theorem State.dirtyVs_on (s : State) (h : s.st.sstat.vs ≠ 0) :
    s.dirtyVs = { s with st := { s.st with sstat := { s.st.sstat with vs := 3 } } } := by
  unfold State.dirtyVs
  split
  · rfl
  · next h2 =>
    have h3 := vs_dirty _ h h2
    have : s.st.sstat = { s.st.sstat with vs := 3 } := by rw [← h3]
    rw [← this]

/-- The gate lets a ready strand through: nothing awaited, vs on, vill 0 where it traps, no pass and no run in flight. -/
theorem vecGate_ready (s : State) (i : Instr) (xs : List (BitVec 5)) (v : Option (BitVec 8)) (k : Out) (h : s.vecReady xs)
    (hv : v.isSome = true → vtVill s.st.vec.vtype = false) : vecGate s i xs v k = k := by
  obtain ⟨h1, h2, h3, h4, -⟩ := h
  have h5 : ¬ (v.isSome ∧ vtVill s.st.vec.vtype) := fun ⟨a, b⟩ => by simp [hv a] at b
  unfold vecGate
  rw [h1, if_neg (by simp), if_neg h2, if_neg h5]
  simp [afterPass, h3, afterRun, h4]

/-- The gate of the command queue does the same. -/
theorem queueGate_ready (s : State) (i : Instr) (xs : List (BitVec 5)) (v : Option (BitVec 8)) (k : Out) (h : s.vecReady xs)
    (hv : v.isSome = true → vtVill s.st.vec.vtype = false) : queueGate s i xs v k = k := by
  obtain ⟨h1, h2, h3, h4, -⟩ := h
  have h5 : ¬ (v.isSome ∧ vtVill s.st.vec.vtype) := fun ⟨a, b⟩ => by simp [hv a] at b
  unfold queueGate
  rw [h1, if_neg (by simp), if_neg h2, if_neg h5]
  simp [afterPass, h3, afterRun, h4]

/-- The strand as its next vector instruction finds it, where nothing is in flight. -/
theorem State.afterQueue_idle (s : State) (h : s.st.vec.pass = none) (h2 : s.st.vec.ahead = []) : s.afterQueue = s := by
  obtain ⟨⟨run, fe, lanes, act, degraded, br, boundAt, pc, x, f, frm, fflags, loops, backEdge, resv, instret, sstat, csr, vec, _⟩, _⟩ := s
  cases vec
  simp_all [State.afterQueue, Vec.newest, State.setVec]

/-- The gate where vs is off. -/
theorem vecGate_off (s : State) (i : Instr) (xs : List (BitVec 5)) (v : Option (BitVec 8)) (k : Out) (h : s.waitsX xs = false)
    (hv : s.st.sstat.vs = 0) : vecGate s i xs v k = trapI s 0xD2 i := by
  unfold vecGate
  rw [h, if_neg (by simp), if_pos hv]

/-- The gate where vill traps. -/
theorem vecGate_vill (s : State) (i : Instr) (xs : List (BitVec 5)) (c : BitVec 8) (k : Out) (h : s.waitsX xs = false)
    (hs : s.st.sstat.vs ≠ 0) (hv : vtVill s.st.vec.vtype = true) : vecGate s i xs (some c) k = trapI s c i := by
  unfold vecGate
  rw [h, if_neg (by simp), if_neg hs, if_pos ⟨rfl, hv⟩]
  rfl

/-- A force before an instruction that starts no pass and raises nothing. -/
theorem forceThen_none (s : State) (k : State → Out) (h : (force s).st.vec.pass = none)
    (h2 : s.sup = true ∨ (force s).st.held = []) : forceThen s k = k (force s) := by
  unfold forceThen
  rcases h2 with h2 | h2 <;> simp [h, h2]

/-- A force that starts a pass leaves the instruction to issue again. -/
theorem forceThen_some (s : State) (k : State → Out) (h : (force s).st.vec.pass.isSome = true) :
    forceThen s k = ok (force s) := by
  unfold forceThen; simp [h]

/-- With no pass in flight the next noting joins the strand's own pricking. -/
theorem Vec.setNewest_idle (v : Vec) (pk : Pricking) (h : v.pass = none) : v.setNewest pk = { v with pk := pk } := by
  unfold Vec.setNewest
  split
  · rfl
  · next hp => rw [h] at hp; cases hp

/-- What joins the command queue leaves the registers. -/
theorem Vec.setNewest_keeps (v : Vec) (pk : Pricking) :
    (v.setNewest pk).v = v.v ∧ (v.setNewest pk).k = v.k ∧ (v.setNewest pk).o = v.o := by
  unfold Vec.setNewest Vec.refill
  split
  · exact ⟨rfl, rfl, rfl⟩
  · split <;> (try split) <;> exact ⟨rfl, rfl, rfl⟩

/-- What joins the command queue as an executed instruction leaves the pass and the registers as they are. -/
theorem Vec.acting_keeps (v : Vec) (a : Act) :
    (v.acting a).pass = v.pass ∧ (v.acting a).v = v.v ∧ (v.acting a).k = v.k ∧ (v.acting a).o = v.o ∧ (v.acting a).pk = v.pk := by
  unfold Vec.acting Vec.refill
  dsimp only
  split <;> (try split) <;> exact ⟨rfl, rfl, rfl, rfl, rfl⟩

/-- A force behind a pass in flight leaves the pass, the registers, memory and vtype as they are. -/
theorem State.forceAhead_keeps (s : State) : let t := s.forceAhead
    t.st.vec.pass = s.st.vec.pass ∧ t.st.vec.v = s.st.vec.v ∧ t.st.vec.k = s.st.vec.k ∧ t.st.vec.o = s.st.vec.o ∧ t.st.x = s.st.x ∧
      t.st.f = s.st.f ∧ t.mem = s.mem ∧ t.st.pc = s.st.pc ∧ t.st.loops = s.st.loops ∧ t.st.vec.vtype = s.st.vec.vtype := by
  unfold State.forceAhead State.dirtyIf State.dirtyVs Vec.refill
  dsimp only
  repeat' split
  all_goals simp_all [State.setPk, State.setVec, State.setEng, State.setSStat]

/-- A permutation where nothing is in flight: it forces, and takes effect. -/
theorem permute_ready (i : Instr) (f : RF) (xs : List (BitVec 5)) (op : PermOp) (s : State) (h : s.vecReady xs)
    (hv : vtVill s.st.vec.vtype = false) (hs : vtSm (force s).st.vec.vtype = false) (hf : (force s).st.vec.pass = none)
    (hh : s.sup = true ∨ (force s).st.held = []) :
    permute i f xs op s = withWords (force s) ((force s).perm op f).words (fun t =>
      retire (t.putElems f.rd (((force s).perm op f).elems t.st.vec))) := by
  unfold permute
  rw [queueGate_ready s i xs _ _ h (fun _ => hv), if_neg (by simp [h.2.2.1])]
  unfold afterPass
  rw [h.2.2.1]
  rw [forceThen_none s _ hf hh]
  simp [hs]

/-- A clear note joins the pricking and the instruction completes (04 R79, R80). -/
theorem noteGo_clear (s : State) (i : Instr) (mk : State → Note) (xs : List (BitVec 5)) (h : (mk s).clear s) (hr : s.vecReady xs) :
    noteGo s i mk = .next (s.noted (mk s)).completed := by
  obtain ⟨h1, h2, h3, h4, h5⟩ := h
  have hl : ¬ ((mk s).last.isSome ∧ !s.lastUsable ((mk s).last.getD 0)) := by
    rintro ⟨a, b⟩
    rcases h5 with h5 | h5
    · simp [h5] at a
    · simp [h5] at b
  have hn : s.st.vec.newest = s.st.vec.pk := by simp [Vec.newest, hr.2.2.1]
  unfold noteGo
  simp only [s.afterQueue_idle hr.2.2.1 hr.2.2.2.2, h1, h2, h3, Bool.false_eq_true, ↓reduceIte, Bool.not_true, noteRoom, hn, h4, noteNode]
  rw [if_neg (by simpa using hl), State.dirtyVs_on _ (by exact hr.2.1)]
  rw [Vec.setNewest_idle _ _ hr.2.2.1]
  rfl

/-- An instruction that notes, where nothing keeps it from noting. -/
theorem noted_of_clear {i : Instr} {s : State} {xs ys : List (BitVec 5)} {v : Option (BitVec 8)} {mk : State → Note} {n : Note}
    (he : exec i s = queueGate s i xs v (noteGo s i mk)) (hn : noteOf i s = some (xs, mk s)) (hm : noteOf i s = some (ys, n))
    (hr : s.vecReady ys) (hv : vtVill s.st.vec.vtype = false) (hc : n.clear s) : exec i s = .next (s.noted n).completed := by
  rw [hn] at hm
  cases hm
  rw [he, queueGate_ready _ _ _ _ _ hr (fun _ => hv), noteGo_clear _ _ _ _ hc hr]

end Sys2Proof.Machine
end

