-- ==== Sys2Proof/Laws/Complete.lean ====
section
/-! SUPPORT. Laws/Complete.lean: what completing, writing x[rd], reading, storing and noting come to, for the statements about
completion and frames. -/

namespace Sys2Proof.Machine

/-! ## Completing -/

/-- Completing leaves everything around a scalar result, and all memory. -/
theorem completed_keeps (s : State) : s.keepsAround s.completed ∧ s.keepsMem s.completed :=
  ⟨⟨rfl,rfl,rfl,rfl,rfl,rfl,rfl,rfl,rfl,rfl,rfl,rfl,rfl⟩, fun _ => rfl⟩

/-- Writing x[rd] leaves everything around it, and all memory. -/
theorem setX_keeps (s : State) (r : BitVec 5) (v : Word) : s.keepsAround (s.setX r v) ∧ s.keepsMem (s.setX r v) := by
  unfold State.setX; split <;> exact ⟨⟨rfl,rfl,rfl,rfl,rfl,rfl,rfl,rfl,rfl,rfl,rfl,rfl,rfl⟩, fun _ => rfl⟩

/-- Writing x[rd] and completing: what scalar results come to. -/
theorem setX_completed (s : State) (rd : BitVec 5) (v : Word) :
    let t := (s.setX rd v).completed
    t.x rd = (if rd = 0 then 0 else v) ∧ (∀ r, r ≠ rd → t.x r = s.x r) ∧
    t.st.f = s.st.f ∧ t.st.fflags = s.st.fflags ∧ s.keepsAround t ∧ s.keepsMem t ∧ t.st.pc = s.nextPc := by
  have hx : ∀ r, ((s.setX rd v).completed).x r = (s.setX rd v).x r := fun r => State.x_congr _ _ rfl r
  refine ⟨?_, ?_, ?_, ?_, ?_, ?_, ?_⟩
  · rw [hx, State.x_setX]; by_cases h : rd = 0
    · subst h; simp [State.x]
    · rw [if_neg h, if_pos ⟨rfl, h⟩]
  · intro r hr; rw [hx, State.x_setX]; simp [hr]
  · show (s.setX rd v).st.f = _; simp
  · show (s.setX rd v).st.fflags = _; simp
  · unfold State.setX; split <;> exact ⟨rfl,rfl,rfl,rfl,rfl,rfl,rfl,rfl,rfl,rfl,rfl,rfl,rfl⟩
  · unfold State.setX; split <;> exact fun _ => rfl
  · show (loopEnd (s.setX rd v).st.pc (s.setX rd v).st.loops).2.1 = _; simp [State.nextPc]

/-! ## Access -/

/-- An access that is reached gives its keys. -/
theorem access_of_reaches (s : State) (a n src use ks) (h : s.reachesKeys a n src use ks) :
    s.access a n src use = .val ks s := by
  obtain ⟨-, h2, h3⟩ := h; unfold State.access; rw [h2, h3]

/-- A read that is reached and meets no poison gives its bytes. -/
theorem readN_of_reaches (s : State) (a n src use ks) (h : s.reachesKeys a n src use ks) (hp :
    s.poisonVa a ks = none) : s.readN a n src use = .val (ks.map (s.readByte src)) s := by
  unfold State.readN; rw [access_of_reaches _ _ _ _ _ _ h]; simp [hp]

/-- The scalar path reads memory as it stands. -/
@[simp] theorem readByte_scalar (s : State) (k : Nat) : s.readByte 1 k = s.mem.get k := rfl

/-- A write to memory changes no register and nothing around it, but what the strand's paths observe of its copies. -/
theorem write_frame (s : State) (w) (cs : List Host.Cell) : s.keepsButSeen (s.write w cs) ∧
    (s.write w cs).st.x = s.st.x ∧ (s.write w cs).st.f = s.st.f ∧ (s.write w cs).st.fflags = s.st.fflags ∧
    (s.write w cs).st.pc = s.st.pc ∧ (s.write w cs).st.loops = s.st.loops := by
  have key : ∀ (l : List Host.Cell) (u : State), s.keepsButSeen u ∧ u.st.x = s.st.x ∧ u.st.f = s.st.f ∧
      u.st.fflags = s.st.fflags ∧ u.st.pc = s.st.pc ∧ u.st.loops = s.st.loops → 
     let v := l.foldl (fun s c => s.putByte w c.1 c.2) u
     s.keepsButSeen v ∧ v.st.x = s.st.x ∧ v.st.f = s.st.f ∧ v.st.fflags = s.st.fflags ∧ v.st.pc = s.st.pc ∧
         v.st.loops = s.st.loops := by
    intro l; induction l with
    | nil => intro u h; exact h
    | cons c t ih => intro u h; refine ih _ ?_; cases w <;> exact h
  unfold State.write
  apply key
  unfold State.unhide State.passBy Strand.passedBy
  split <;> (try split) <;> (try split) <;> exact ⟨⟨rfl,rfl,rfl,rfl,rfl,rfl,rfl,rfl,rfl,rfl,rfl,rfl,rfl⟩,rfl,rfl,rfl,rfl,rfl⟩

/-- Logging an event changes neither strand nor memory nor poison. -/
theorem logUnit_keeps (s : State) (k c d t : Nat) : (s.logUnit k c d t).st = s.st ∧ (s.logUnit k c d t).mem = s.mem ∧
    (s.logUnit k c d t).poison = s.poison := by
  unfold State.logUnit
  split
  · exact ⟨rfl, rfl, rfl⟩
  · split <;> exact ⟨rfl, rfl, rfl⟩

/-- Logging a dropped store changes neither strand nor memory nor poison. -/
theorem logDropped_keeps (s : State) (cs : List Host.Cell) (t) : (s.logDropped cs t).st = s.st ∧
    (s.logDropped cs t).mem = s.mem ∧ (s.logDropped cs t).poison = s.poison := by
  have key : ∀ (l : List Nat) (u : State), u.st = s.st ∧ u.mem = s.mem ∧ u.poison = s.poison →
      let v := l.foldl (fun u k => u.logUnit k 2 0 t) u
      v.st = s.st ∧ v.mem = s.mem ∧ v.poison = s.poison := by
    intro l; induction l with
    | nil => intro u h; exact h
    | cons k r ih =>
      intro u h
      have e := logUnit_keeps u k 2 0 t
      exact ih _ ⟨e.1.trans h.1, e.2.1.trans h.2.1, e.2.2.trans h.2.2⟩
  exact key _ s ⟨rfl, rfl, rfl⟩

/-- A write to distinct keys where no poison stands: each key reads its byte. -/
theorem write_bytes (s : State) (w) (ks : List Nat) (bs : List Byte) (hp : s.poison = []) (hw : s.mem.wf = true) (hn :
    ks.Nodup) (hl : ks.length = bs.length) :
    ∀ j, (h : j < ks.length) → (s.write w (ks.zip bs)).mem.get ks[j] = bs[j] := by
  unfold State.write
  have h1 : ((ks.zip bs).filter fun c => !s.dropsAt (ks.zip bs) c.1) = ks.zip bs := by
    rw [List.filter_eq_self]; intro c _; simp [State.dropsAt, hp]
  simp only [h1]
  have key : ∀ (ks : List Nat) (bs : List Byte) (u : State), u.mem.wf = true → ks.Nodup → (hl :
      ks.length = bs.length) → ∀ j, (h : j < ks.length) → ((ks.zip bs).foldl
      (fun s c => s.putByte w c.1 c.2) u).mem.get ks[j] = bs[j]'(by omega) := by
    intro ks; induction ks with
    | nil => intro bs u _ _ _ j h; simp at h
    | cons k t ih =>
      intro bs u hu hn hl j h
      cases bs with
      | nil => simp at hl
      | cons b bt =>
        simp only [List.zip_cons_cons, List.foldl_cons]
        cases j with
        | zero =>
          simp only [List.getElem_cons_zero]
          rw [State.putAll_get]
          · show (u.mem.put k b).get k = b; rw [Memory.get_put _ _ _ _ hu]; simp
          · exact u.putByte_wf w k b hu
          · intro c hc e
            have := List.of_mem_zip (a := c.1) (b := c.2) hc
            rw [List.nodup_cons] at hn; exact hn.1 (e ▸ this.1)
        | succ j =>
          simp only [List.getElem_cons_succ]
          exact ih bt _ (u.putByte_wf w k b hu) (List.nodup_cons.1 hn).2 (by simpa using hl) j (by simpa using h)
  intro j h
  refine key ks bs _ ?_ hn hl j h
  simpa using hw

/-- A write leaves the part of a store that has been made. -/
@[simp] theorem write_half (s : State) (w) (cs : List Host.Cell) : (s.write w cs).st.eng.half = s.st.eng.half := by
  rw [(s.write_keeps w cs).2.2.2.2.2.2.1]
  have hu : ∀ (u : State) cs, (u.unhide w cs).st.eng.half = u.st.eng.half := by
    intro u cs; unfold State.unhide; split <;> rfl
  rw [hu]
  unfold State.passBy Strand.passedBy; cases w <;> simp
  split <;> rfl

/-- A store with no part made before has none made after it. -/
theorem setPart_none (s : State) (h : s.st.eng.half = none) : s.setPart none = s := by
  unfold State.setPart State.setEng; rw [← h]

/-- A scalar store that is made whole completes. -/
theorem scalarStore_of_whole (s : State) (i : Instr) (a n v : Nat) (ks : List Nat) (h : s.storesWhole a n ks) :
   scalarStore s i a n v = .next ((s.logDropped (ks.zip (leBytes n v)) s.st.br.task.toNat).write .scalar (ks.zip
       (leBytes n v))).completed := by
  obtain ⟨⟨h1, h2, h3⟩, hh, hs⟩ := h
  have hl : (leBytes n v).length = n := by simp [leBytes]
  have hr : s.storeLeft a (leBytes n v) = (a, leBytes n v) := by simp [State.storeLeft, hh]
  have hk : s.storeKeys a (leBytes n v) = ks := by simp only [State.storeKeys, hr, hl, h3]
  have hz : ((s.logDropped (ks.zip (leBytes n v)) s.st.br.task.toNat).write .scalar (ks.zip (leBytes n v))).st.eng.half = none := by
    rw [write_half, (logDropped_keeps _ _ _).1, hh]
  unfold scalarStore State.storeN
  simp only [hk, hs, hr, State.storeRest, hl, h2, h3, State.sends, h1, State.storeCells, setPart_none _ hz]
  rfl

/-! ## Tables -/

/-- Looking up after an insertion. -/
theorem lookup_insert {α : Type} (l : List (Nat × α)) (k j : Nat) (a : α) : lookup
    (Machine.insert l k a) j = if j = k then some a else lookup l j := by
  induction l with
  | nil => simp [Machine.insert, lookup, eq_comm]
  | cons p t ih =>
    obtain ⟨q, b⟩ := p
    unfold Machine.insert
    by_cases h : q = k
    · subst h; rw [if_pos rfl]; by_cases h2 : j = q
      · subst h2; simp [lookup]
      · have : ¬ q = j := fun e => h2 e.symm
        simp [lookup, h2, this]
    · rw [if_neg h]
      by_cases h2 : q = j
      · subst h2; simp [lookup, h]
      · simp [lookup, h2, ih]

/-- The slots after one is changed. -/
theorem slot_mapSlot (s : State) (fe f : Nat) (g : Slot → Slot) : (s.mapSlot fe g).slot f = if f = fe then g
    (s.slot fe) else s.slot f := by
  unfold State.mapSlot State.slot
  simp only [lookup_insert]
  split <;> rfl

/-! ## What noting keeps (04 R77) -/

/-- Registers, elements and memory stand as they stood. -/
def NoteKeeps (s t : State) : Prop :=
  t.st.x = s.st.x ∧ t.st.f = s.st.f ∧ t.mem = s.mem ∧ t.st.vec.v = s.st.vec.v ∧ t.st.vec.k = s.st.vec.k ∧
      t.st.vec.o = s.st.vec.o

/-- A state keeps its own. -/
theorem noteKeeps_refl (s : State) : NoteKeeps s s := ⟨rfl, rfl, rfl, rfl, rfl, rfl⟩

/-- Keeping is transitive. -/
theorem noteKeeps_trans {s t u : State} (h : NoteKeeps s t) (h' : NoteKeeps t u) : NoteKeeps s u :=
 ⟨h'.1.trans h.1, h'.2.1.trans h.2.1, h'.2.2.1.trans h.2.2.1, h'.2.2.2.1.trans h.2.2.2.1, h'.2.2.2.2.1.trans h.2.2.2.2.1, h'.2.2.2.2.2.trans h.2.2.2.2.2⟩

/-- A force keeps them. -/
theorem force_noteKeeps (s : State) : NoteKeeps s (force s) := by
  have := forceFor_resident none s
  exact ⟨force_x s, force_f s, force_mem s, this.1, this.2.1, this.2.2.1⟩

/-- Trap entry keeps them. -/
theorem trapEnter_noteKeeps (s t i p) : NoteKeeps s (trapEnter s t i p) := by
  have h := trapEnter_keeps s t i p
  refine ⟨h.1, h.2.1, h.2.2.1, ?_⟩
  unfold trapEnter
  split
  · have := s.killTask_keeps (t.code, t.stval, t.selem, origOf (if i then t.sorig else p) s.entryOf)
    have h2 : (escalate s t i p).st.vec = s.st.vec := this.2.2.2.2.2.2.1
    simp [h2]
  · simp

/-- A trap of an instruction keeps them. -/
theorem trapI_noteKeeps (s c i) (t : State) (h : trapI s c i = .next t) : NoteKeeps s t := by
  cases h
  refine noteKeeps_trans (noteKeeps_trans (t := trapForce s) ?_
      (trapEnter_noteKeeps _ _ _ _)) ⟨rfl, rfl, rfl, rfl, rfl, rfl⟩
  unfold trapForce; split
  · exact noteKeeps_refl s
  · exact force_noteKeeps s

/-- Noting a node keeps them. -/
theorem noteNode_noteKeeps (s i n) (t : State) (h : noteNode s i n = .next t) : NoteKeeps s t := by
  unfold noteNode at h
  simp only at h
  split at h
  · exact trapI_noteKeeps _ _ _ _ h
  · cases h
    have := Vec.setNewest_keeps s.st.vec (s.afterQueue.st.vec.pk.note (n.nodeIn s.st.vec) n.bind)
    refine ⟨?_, ?_, ?_, ?_, ?_, ?_⟩ <;> simp [State.counted, State.setVec, advance, this]

/-- A force before keeps them where what follows does. -/
theorem forceOn_noteKeeps (s k) (t : State) (hk : ∀ s' t, k s' = .next t → NoteKeeps s' t) (h :
    forceOn s k = .next t) : NoteKeeps s t := by
  unfold forceOn at h
  simp only at h
  split at h
  · cases h; exact noteKeeps_trans (force_noteKeeps s) ⟨rfl, rfl, rfl, rfl, rfl, rfl⟩
  · split at h
    · cases h; exact noteKeeps_trans (force_noteKeeps s) ⟨rfl, rfl, rfl, rfl, rfl, rfl⟩
    · exact noteKeeps_trans (force_noteKeeps s) (hk _ _ h)

/-- Making room keeps them. -/
theorem noteRoom_noteKeeps (s i mk) (t : State) (h : noteRoom s i mk = .next t) : NoteKeeps s t := by
  unfold noteRoom at h
  split at h
  · exact noteNode_noteKeeps _ _ _ _ h
  · refine forceOn_noteKeeps _ _ _ ?_ h
    intro s' t h
    simp only at h
    split at h
    · exact noteNode_noteKeeps _ _ _ _ h
    · split at h <;> exact trapI_noteKeeps _ _ _ _ h

/-- A noting keeps them. -/
theorem noteGo_noteKeeps (s i mk) (t : State) (h : noteGo s i mk = .next t) : NoteKeeps s t := by
  unfold noteGo at h
  simp only at h
  split at h
  · exact trapI_noteKeeps _ _ _ _ h
  split at h
  · exact trapI_noteKeeps _ _ _ _ h
  split at h
  · exact forceOn_noteKeeps _ _ _ (fun s' t h => noteRoom_noteKeeps _ _ _ _ h) h
  · exact noteRoom_noteKeeps _ _ _ _ h

/-- A noting behind the gate keeps them, where no engine holds it back. -/
theorem noteGate_noteKeeps (s i xs v mk) (t : State) (hr : s.vecReady xs) (h : queueGate s i xs v
    (noteGo s i mk) = .next t) : NoteKeeps s t := by
  obtain ⟨h1,h2,h3,h4,-⟩ := hr
  unfold queueGate at h
  rw [h1, if_neg (by simp), if_neg h2] at h
  split at h
  · exact trapI_noteKeeps _ _ _ _ h
  · simp only [afterPass, h3, afterRun, h4] at h
    exact noteGo_noteKeeps _ _ _ _ (by simpa using h)

end Sys2Proof.Machine
end

