-- ==== Sys2Proof/Laws/Good.lean ====
section
/-! SUPPORT. Laws/Good.lean: the shared operations lead from good states to good states (Safety.lean: State.good). -/

namespace Sys2Proof.Machine

/-- What the invariant speaks of. -/
def GoodKept (s t : State) : Prop :=
  (s.mem.wf = true → t.mem.wf = true) ∧ t.st.x[0] = s.st.x[0] ∧ (s.st.loops.length ≤ 6 → t.st.loops.length ≤ 6) ∧
    t.st.csr.vslip = s.st.csr.vslip ∧ (s.others.all Strand.good = true → t.others.all Strand.good = true) ∧ t.frames = s.frames

/-- Where those stand, a good state stays good. -/
theorem good_of_kept {s t : State} (h : GoodKept s t) (hs : s.good = true) : t.good = true := by
  obtain ⟨hm, hx, hl, hv, ho, hf⟩ := h
  simp only [State.good, Strand.good, Bool.and_eq_true, decide_eq_true_eq, beq_iff_eq] at hs ⊢
  rw [hx, hv, hf]
  exact ⟨⟨⟨hm hs.1.1.1, ⟨⟨hs.1.1.2.1.1.1, hl hs.1.1.2.1.1.2⟩, hs.1.1.2.1.2⟩, hs.1.1.2.2⟩, ho hs.1.2⟩, hs.2⟩

theorem GoodKept.refl (s : State) : GoodKept s s := ⟨id, rfl, id, rfl, id, rfl⟩

theorem GoodKept.trans {s t u : State} (h : GoodKept s t) (h' : GoodKept t u) : GoodKept s u :=
  ⟨h'.1 ∘ h.1, h'.2.1.trans h.2.1, h'.2.2.1 ∘ h.2.2.1, h'.2.2.2.1.trans h.2.2.2.1, h'.2.2.2.2.1 ∘ h.2.2.2.2.1,
    h'.2.2.2.2.2.trans h.2.2.2.2.2⟩

/-- The back-edge rule leaves no more levels than there were (11 R278). -/
theorem loopEnd_length (pc : Word) (ls : List LoopLvl) : (loopEnd pc ls).1.length ≤ ls.length := by
  induction ls with
  | nil => exact Nat.le_refl _
  | cons l ls ih =>
    unfold loopEnd
    split
    · split
      · exact Nat.le_refl _
      · exact Nat.le_succ_of_le ih
    · exact Nat.le_refl _

theorem advance_goodKept (s : State) : GoodKept s (advance s) :=
  ⟨id, rfl, fun h => Nat.le_trans (loopEnd_length _ _) h, rfl, id, rfl⟩

theorem setX_goodKept (s : State) (r : BitVec 5) (v : Word) : GoodKept s (s.setX r v) := by
  unfold State.setX
  split
  · exact .refl s
  · next h =>
    refine ⟨id, ?_, id, rfl, id, rfl⟩
    have h0 : r.toNat ≠ 0 := fun e => h (BitVec.eq_of_toNat_eq e)
    simp [h0]

theorem setF_goodKept (s : State) (r : BitVec 5) (v : Word) : GoodKept s (s.setF r v) := ⟨id, rfl, id, rfl, id, rfl⟩
theorem setO_goodKept (s : State) (i : Fin 8) (v : Word) : GoodKept s (s.setO i v) := ⟨id, rfl, id, rfl, id, rfl⟩
theorem setPc_goodKept (s : State) (p : Word) : GoodKept s (s.setPc p) := ⟨id, rfl, id, rfl, id, rfl⟩
theorem setVec_goodKept (s : State) (v : Vec) : GoodKept s (s.setVec v) := ⟨id, rfl, id, rfl, id, rfl⟩
theorem setPk_goodKept (s : State) (p : Pricking) : GoodKept s (s.setPk p) := ⟨id, rfl, id, rfl, id, rfl⟩
theorem setPass_goodKept (s : State) (p : Option Pass) : GoodKept s (s.setPass p) := ⟨id, rfl, id, rfl, id, rfl⟩
theorem setMat_goodKept (s : State) (m : Mat) : GoodKept s (s.setMat m) := ⟨id, rfl, id, rfl, id, rfl⟩
theorem setEng_goodKept (s : State) (e : Eng) : GoodKept s (s.setEng e) := ⟨id, rfl, id, rfl, id, rfl⟩
theorem setFab_goodKept (s : State) (f : Fabric) : GoodKept s (s.setFab f) := ⟨id, rfl, id, rfl, id, rfl⟩
theorem setSStat_goodKept (s : State) (c : SStat) : GoodKept s (s.setSStat c) := ⟨id, rfl, id, rfl, id, rfl⟩

theorem dirtyVs_goodKept (s : State) : GoodKept s s.dirtyVs := by
  unfold State.dirtyVs; split <;> exact ⟨id, rfl, id, rfl, id, rfl⟩

theorem dirtyTs_goodKept (s : State) : GoodKept s s.dirtyTs := by
  unfold State.dirtyTs; split <;> exact ⟨id, rfl, id, rfl, id, rfl⟩

/-- A byte stored changes reservations only, beside memory (13 R330). -/
theorem putByte_goodKept (s : State) (w : Writer) (k : Nat) (b : Byte) : 
    (s.others.all Strand.good = true → (s.putByte w k b).others.all Strand.good = true) ∧ (s.putByte w k b).frames = s.frames := by
  refine ⟨fun h => ?_, rfl⟩
  simp only [State.putByte, List.all_map, List.all_eq_true, Function.comp_apply] at h ⊢
  exact fun t ht => h t ht

/-- Whom a write passes by learns of it in its engines alone. -/
theorem passBy_goodKept (s : State) (w : Writer) (cs : List Host.Cell) :
    (s.others.all Strand.good = true → (s.passBy w cs).others.all Strand.good = true) ∧ (s.passBy w cs).frames = s.frames := by
  refine ⟨fun h => ?_, rfl⟩
  simp only [State.passBy, List.all_map, List.all_eq_true, Function.comp_apply] at h ⊢
  intro t ht
  have := h t ht
  unfold Strand.passedBy
  split <;> exact this

/-- A write to memory. -/
theorem write_goodKept (s : State) (w : Writer) (cs : List Host.Cell) : GoodKept s (s.write w cs) := by
  have key : (s.others.all Strand.good = true → (s.write w cs).others.all Strand.good = true) ∧ (s.write w cs).frames = s.frames := by
    unfold State.write
    generalize (cs.filter fun c => !s.dropsAt cs c.1) = kept
    have key : ∀ (l : List Host.Cell) (u : State), (s.others.all Strand.good = true → u.others.all Strand.good = true) ∧ u.frames = s.frames →
        (s.others.all Strand.good = true → (l.foldl (fun s c => s.putByte w c.1 c.2) u).others.all Strand.good = true) ∧
          (l.foldl (fun s c => s.putByte w c.1 c.2) u).frames = s.frames := by
      intro l
      induction l with
      | nil => exact fun _ h => h
      | cons c t ih =>
        exact fun u h => ih _ ⟨(putByte_goodKept u w c.1 c.2).1 ∘ h.1, (putByte_goodKept u w c.1 c.2).2.trans h.2⟩
    refine key _ _ ?_
    rw [State.unhide_eq]
    exact passBy_goodKept s w kept
  refine ⟨s.write_wf w cs, ?_, ?_, ?_, key.1, key.2⟩
  · rw [(write_frame s w cs).2.1]
  · rw [(write_frame s w cs).2.2.2.2.2]; exact id
  · rw [(write_frame s w cs).1.1]

/-- A force. -/
theorem force_goodKept (s : State) : GoodKept s (force s) := by
  refine ⟨?_, ?_, ?_, ?_, ?_, ?_⟩
  · rw [force_mem]; exact id
  · rw [force_x]
  · rw [force_loops]; exact id
  · rw [force_csr]
  · rw [force_others]; exact id
  · rw [force_frames]

end Sys2Proof.Machine
end

