-- ==== Sys2Proof/Tests/Slice0.lean ====
section
/-! SUPPORT. Tests/Slice0.lean: words written out from the encodings, ill-formed terms, single steps, and witnesses of the
hypotheses of the statements. -/

namespace Sys2Proof.Tests

-- The proofs of this file are checked in turn: a proof waiting for another would hold a thread and its stack.
set_option Elab.async false

open Sys2Proof Sys2Proof.Machine

/-! ## Words (05 Tables 5.2 to 5.9; 10 Table 10.4), written from the tables with the fields shown -/

/-- Every word of a list decodes to the instruction beside it. -/
def reads (l : List (IWord × Instr)) : Bool :=
  l.all (fun p => match decode p.1 with | .ok i => i == p.2 | .error _ => false)

/-- Every bobbin word of a list decodes to the instruction beside it. -/
def readsBobbin (l : List (IWord × Instr)) : Bool :=
  l.all (fun p => match decodeBobbin p.1 with | .ok i => i == p.2 | .error _ => false)

theorem test_decode_v_words_1 : reads
    [(0x0453038b, .vadd { nb := false, m := false, bk := 1, ak := false, b := 5, a := 6, d := 7 }),
     (0x4453038b, .vsub { nb := false, m := false, bk := 1, ak := false, b := 5, a := 6, d := 7 }),
     (0x8453038b, .vrsub { nb := false, m := false, bk := 1, ak := false, b := 5, a := 6, d := 7 }),
     (0xc453038b, .vmul { nb := false, m := false, bk := 1, ak := false, b := 5, a := 6, d := 7 }),
     (0x0453138b, .vmulh { nb := false, m := false, bk := 1, ak := false, b := 5, a := 6, d := 7 }),
     (0x4453138b, .vmulhu { nb := false, m := false, bk := 1, ak := false, b := 5, a := 6, d := 7 }),
     (0x8453138b, .vdiv { nb := false, m := false, bk := 1, ak := false, b := 5, a := 6, d := 7 }),
     (0xc453138b, .vdivu { nb := false, m := false, bk := 1, ak := false, b := 5, a := 6, d := 7 }),
     (0x0453238b, .vrem { nb := false, m := false, bk := 1, ak := false, b := 5, a := 6, d := 7 }),
     (0x4453238b, .vremu { nb := false, m := false, bk := 1, ak := false, b := 5, a := 6, d := 7 }),
     (0x8453238b, .vmin { nb := false, m := false, bk := 1, ak := false, b := 5, a := 6, d := 7 }),
     (0xc453238b, .vmax { nb := false, m := false, bk := 1, ak := false, b := 5, a := 6, d := 7 }),
     (0x0453338b, .vminu { nb := false, m := false, bk := 1, ak := false, b := 5, a := 6, d := 7 }),
     (0x4453338b, .vmaxu { nb := false, m := false, bk := 1, ak := false, b := 5, a := 6, d := 7 }),
     (0x8453338b, .vadds { nb := false, m := false, bk := 1, ak := false, b := 5, a := 6, d := 7 }),
     (0xc453338b, .vsubs { nb := false, m := false, bk := 1, ak := false, b := 5, a := 6, d := 7 }),
     (0x0453438b, .vaddsu { nb := false, m := false, bk := 1, ak := false, b := 5, a := 6, d := 7 }),
     (0x4453438b, .vsubsu { nb := false, m := false, bk := 1, ak := false, b := 5, a := 6, d := 7 }),
     (0x8453438b, .vand { nb := false, m := false, bk := 1, ak := false, b := 5, a := 6, d := 7 }),
     (0xc453438b, .vor { nb := false, m := false, bk := 1, ak := false, b := 5, a := 6, d := 7 })] = true := by decide

theorem test_decode_v_words_2 : reads
    [(0x0453538b, .vxor { nb := false, m := false, bk := 1, ak := false, b := 5, a := 6, d := 7 }),
     (0x4453538b, .vsll { nb := false, m := false, bk := 1, ak := false, b := 5, a := 6, d := 7 }),
     (0x8453538b, .vsrl { nb := false, m := false, bk := 1, ak := false, b := 5, a := 6, d := 7 }),
     (0xc453538b, .vsra { nb := false, m := false, bk := 1, ak := false, b := 5, a := 6, d := 7 }),
     (0x1442e30b, .vmerge { nb := false, m := true, bk := 1, ak := false, b := 4, a := 5, d := 6 }),
     (0x4440628b, .vmv { nb := false, m := false, bk := 1, ak := false, b := 4, a := 0, d := 5 }),
     (0x8453638b, .vcmpEq { nb := false, m := false, bk := 1, ak := false, b := 5, a := 6, d := 7 }),
     (0xc453638b, .vcmpNe { nb := false, m := false, bk := 1, ak := false, b := 5, a := 6, d := 7 }),
     (0x0453738b, .vcmpLt { nb := false, m := false, bk := 1, ak := false, b := 5, a := 6, d := 7 }),
     (0x4453738b, .vcmpLe { nb := false, m := false, bk := 1, ak := false, b := 5, a := 6, d := 7 }),
     (0x8453738b, .vcmpLtu { nb := false, m := false, bk := 1, ak := false, b := 5, a := 6, d := 7 }),
     (0xc453738b, .vcmpLeu { nb := false, m := false, bk := 1, ak := false, b := 5, a := 6, d := 7 }),
     (0x045303ab, .vfadd { nb := false, m := false, bk := 1, ak := false, b := 5, a := 6, d := 7 }),
     (0x445303ab, .vfsub { nb := false, m := false, bk := 1, ak := false, b := 5, a := 6, d := 7 }),
     (0x845303ab, .vfmul { nb := false, m := false, bk := 1, ak := false, b := 5, a := 6, d := 7 }),
     (0xc45303ab, .vfdiv { nb := false, m := false, bk := 1, ak := false, b := 5, a := 6, d := 7 }),
     (0x045313ab, .vfma { nb := false, m := false, bk := 1, ak := false, b := 5, a := 6, d := 7 }),
     (0x445313ab, .vfms { nb := false, m := false, bk := 1, ak := false, b := 5, a := 6, d := 7 }),
     (0x845313ab, .vfnma { nb := false, m := false, bk := 1, ak := false, b := 5, a := 6, d := 7 }),
     (0xc45313ab, .vfnms { nb := false, m := false, bk := 1, ak := false, b := 5, a := 6, d := 7 })] = true := by decide

theorem test_decode_v_words_3 : reads
    [(0x045323ab, .vfmin { nb := false, m := false, bk := 1, ak := false, b := 5, a := 6, d := 7 }),
     (0x445323ab, .vfmax { nb := false, m := false, bk := 1, ak := false, b := 5, a := 6, d := 7 }),
     (0x845323ab, .vfsgnj { nb := false, m := false, bk := 1, ak := false, b := 5, a := 6, d := 7 }),
     (0xd004242b, .vfsqrt { nb := false, m := true, bk := 0, ak := false, b := 0, a := 8, d := 8 }),
     (0x1004342b, .vfexp2 { nb := false, m := true, bk := 0, ak := false, b := 0, a := 8, d := 8 }),
     (0x5004342b, .vflog2 { nb := false, m := true, bk := 0, ak := false, b := 0, a := 8, d := 8 }),
     (0x9c84342b, .vcvt { nb := false, m := true, bk := 3, ak := false, b := 8, a := 8, d := 8 }),
     (0xd004342b, .vfclass { nb := false, m := true, bk := 0, ak := false, b := 0, a := 8, d := 8 }),
     (0x045343ab, .vfcmpEq { nb := false, m := false, bk := 1, ak := false, b := 5, a := 6, d := 7 }),
     (0x445343ab, .vfcmpLt { nb := false, m := false, bk := 1, ak := false, b := 5, a := 6, d := 7 }),
     (0x845343ab, .vfcmpLe { nb := false, m := false, bk := 1, ak := false, b := 5, a := 6, d := 7 }),
     (0xc45343ab, .vfcmpUn { nb := false, m := false, bk := 1, ak := false, b := 5, a := 6, d := 7 }),
     (0x1004542b, .vscanAdd { nb := false, m := true, bk := 0, ak := false, b := 0, a := 8, d := 8 }),
     (0x5004542b, .vscanMax { nb := false, m := true, bk := 0, ak := false, b := 0, a := 8, d := 8 }),
     (0x9004542b, .vfscan { nb := false, m := true, bk := 0, ak := false, b := 0, a := 8, d := 8 }),
     (0xc45353ab, .vlrec { nb := false, m := false, bk := 1, ak := false, b := 5, a := 6, d := 7 }),
     (0x1004642b, .vprev { nb := false, m := true, bk := 0, ak := false, b := 0, a := 8, d := 8 }),
     (0x5c20612b, .vrand { nb := false, m := true, bk := 3, ak := false, b := 2, a := 0, d := 2 }),
     (0x9c21e22b, .vnms { nb := false, m := true, bk := 3, ak := false, b := 2, a := 3, d := 4 }),
     (0xdc07e7ab, .vnmst { nb := false, m := true, bk := 3, ak := false, b := 0, a := 15, d := 15 })] = true := by decide

theorem test_decode_v_words_4 : reads
    [(0x3c63f3ab, .vred { nb := true, m := true, bk := 3, ak := false, b := 6, a := 7, d := 7 }),
     (0x7c3272ab, .vfred { nb := true, m := true, bk := 3, ak := false, b := 3, a := 4, d := 5 }),
     (0xbc0373ab, .vfredo { nb := true, m := true, bk := 3, ak := false, b := 0, a := 6, d := 7 })] = true := by decide

theorem test_decode_vm_words : reads
    [(0x8884045b, .vld { mf := 8, m := true, sub := 0, b := 8, a := 8, d := 8 }),
     (0x4c42125b, .vldx { mf := 4, m := true, sub := 2, b := 4, a := 4, d := 4 }),
     (0x8884245b, .vst { mf := 8, m := true, sub := 0, b := 8, a := 8, d := 8 }),
     (0x4c42325b, .vstx { mf := 4, m := true, sub := 2, b := 4, a := 4, d := 4 }),
     (0x2c21415b, .vamox { mf := 2, m := true, sub := 2, b := 2, a := 2, d := 2 })] = true := by decide

theorem test_decode_k_words : reads
    [(0x003262db, .kand { k3 := 0, b := 3, a := 4, d := 5 }),
     (0x103262db, .kor { k3 := 0, b := 3, a := 4, d := 5 }),
     (0x203262db, .kxor { k3 := 0, b := 3, a := 4, d := 5 }),
     (0x303262db, .kandn { k3 := 0, b := 3, a := 4, d := 5 }),
     (0x4001e25b, .knot { k3 := 0, b := 0, a := 3, d := 4 }),
     (0x503262db, .kshl { k3 := 0, b := 3, a := 4, d := 5 }),
     (0x603262db, .kshr { k3 := 0, b := 3, a := 4, d := 5 }),
     (0x7642e35b, .vadc { k3 := 3, b := 4, a := 5, d := 6 }),
     (0x8642e35b, .vsbc { k3 := 3, b := 4, a := 5, d := 6 }),
     (0x960262db, .vaddk { k3 := 3, b := 0, a := 4, d := 5 })] = true := by decide

theorem test_decode_r_words_1 : reads
    [(0x003252db, .vsetl { rs2 := 3, rs1 := 4, rd := 5 }),
     (0x0201d25b, .vlq { rs2 := 0, rs1 := 3, rd := 4 }),
     (0x0400505b, .vforce { rs2 := 0, rs1 := 0, rd := 0 }),
     (0x0601d25b, .voset { rs2 := 0, rs1 := 3, rd := 4 }),
     (0x0801d25b, .voget { rs2 := 0, rs1 := 3, rd := 4 }),
     (0x0a32505b, .vspill { rs2 := 3, rs1 := 4, rd := 0 }),
     (0x0c01d25b, .vfill { rs2 := 0, rs1 := 3, rd := 4 }),
     (0x0e01d05b, .vsavef { rs2 := 0, rs1 := 3, rd := 0 }),
     (0x1001d05b, .vrestf { rs2 := 0, rs1 := 3, rd := 0 }),
     (0x123252db, .vldsg { rs2 := 3, rs1 := 4, rd := 5 }),
     (0x143252db, .vstsg { rs2 := 3, rs1 := 4, rd := 5 }),
     (0x163252db, .vsldup { rs2 := 3, rs1 := 4, rd := 5 }),
     (0x183252db, .vslddn { rs2 := 3, rs1 := 4, rd := 5 }),
     (0x1a3252db, .vperm { rs2 := 3, rs1 := 4, rd := 5 }),
     (0x1c3252db, .vcompr { rs2 := 3, rs1 := 4, rd := 5 }),
     (0x1e3252db, .vexpnd { rs2 := 3, rs1 := 4, rd := 5 }),
     (0x2001d25b, .vrev { rs2 := 0, rs1 := 3, rd := 4 }),
     (0x2201d25b, .vclz { rs2 := 0, rs1 := 3, rd := 4 }),
     (0x2401d25b, .vpopcnt { rs2 := 0, rs1 := 3, rd := 4 }),
     (0x260051db, .vid { rs2 := 0, rs1 := 0, rd := 3 })] = true := by decide

theorem test_decode_r_words_2 : reads
    [(0x2801d25b, .kpopc { rs2 := 0, rs1 := 3, rd := 4 }),
     (0x2a01d25b, .kfirst { rs2 := 0, rs1 := 3, rd := 4 }),
     (0x2c01d25b, .klast { rs2 := 0, rs1 := 3, rd := 4 }),
     (0x2e3252db, .kmv { rs2 := 3, rs1 := 4, rd := 5 }),
     (0x3001d25b, .kset { rs2 := 0, rs1 := 3, rd := 4 }),
     (0x3201d25b, .ktov { rs2 := 0, rs1 := 3, rd := 4 }),
     (0x003202fb, .vtroww { rs2 := 3, rs1 := 4, rd := 5 }),
     (0x023202fb, .vtrowr { rs2 := 3, rs1 := 4, rd := 5 }),
     (0x043202fb, .vtcolw { rs2 := 3, rs1 := 4, rd := 5 }),
     (0x063202fb, .vtcolr { rs2 := 3, rs1 := 4, rd := 5 }),
     (0x080001fb, .tzero { rs2 := 0, rs1 := 0, rd := 3 }),
     (0x0a4200fb, .hload { rs2 := 4, rs1 := 4, rd := 1 }),
     (0x0c4200fb, .hloads { rs2 := 4, rs1 := 4, rd := 1 }),
     (0x0e00007b, .hswap { rs2 := 0, rs1 := 0, rd := 0 }),
     (0x100080fb, .hmul { rs2 := 0, rs1 := 1, rd := 1 }),
     (0x121100fb, .hmulp { rs2 := 1, rs1 := 2, rd := 1 }),
     (0x141100fb, .hmulf { rs2 := 1, rs1 := 2, rd := 1 }),
     (0x1611017b, .hacc { rs2 := 1, rs1 := 2, rd := 2 }),
     (0x1800817b, .hmov { rs2 := 0, rs1 := 1, rd := 2 }),
     (0x1a00817b, .hq { rs2 := 0, rs1 := 1, rd := 2 })] = true := by decide

theorem test_decode_r_words_3 : reads
    [(0x0000107b, .mnrmz { rs2 := 0, rs1 := 0, rd := 0 }),
     (0x021110fb, .mnorm { rs2 := 1, rs1 := 2, rd := 1 }),
     (0x0410907b, .matab { rs2 := 1, rs1 := 1, rd := 0 }),
     (0x063212fb, .msamp { rs2 := 3, rs1 := 4, rd := 5 }),
     (0x080090fb, .mscale { rs2 := 0, rs1 := 1, rd := 1 }),
     (0x0001a07b, .cpy { rs2 := 0, rs1 := 3, rd := 0 }),
     (0x0232207b, .cpyf { rs2 := 3, rs1 := 4, rd := 0 }),
     (0x0401a27b, .cpyb { rs2 := 0, rs1 := 3, rd := 4 }),
     (0x0632207b, .cpym { rs2 := 3, rs1 := 4, rd := 0 }),
     (0x0801a07b, .twany { rs2 := 0, rs1 := 3, rd := 0 }),
     (0x0a01a07b, .twall { rs2 := 0, rs1 := 3, rd := 0 }),
     (0x0c0021fb, .tffr { rs2 := 0, rs1 := 0, rd := 3 }),
     (0x0e01a07b, .tclr { rs2 := 0, rs1 := 3, rd := 0 }),
     (0x0032407b, .fencep { rs2 := 3, rs1 := 4, rd := 0 }),
     (0x0232407b, .wmset { rs2 := 3, rs1 := 4, rd := 0 }),
     (0x0401c07b, .wmpub { rs2 := 0, rs1 := 3, rd := 0 }),
     (0x0601c07b, .wmlnk { rs2 := 0, rs1 := 3, rd := 0 }),
     (0x0801c27b, .wmget { rs2 := 0, rs1 := 3, rd := 4 }),
     (0x0a00407b, .barc { rs2 := 0, rs1 := 0, rd := 0 }),
     (0x0c00407b, .bara { rs2 := 0, rs1 := 0, rd := 0 })] = true := by decide

theorem test_decode_r_words_4 : reads
    [(0x0e00407b, .barw { rs2 := 0, rs1 := 0, rd := 0 }),
     (0x1032407b, .sig { rs2 := 3, rs1 := 4, rd := 0 }),
     (0x1200407b, .tend { rs2 := 0, rs1 := 0, rd := 0 }),
     (0x143242fb, .ramo { rs2 := 3, rs1 := 4, rd := 5 }),
     (0x1601c27b, .ramoq { rs2 := 0, rs1 := 3, rd := 4 }),
     (0x0011607b, .fld { rs2 := 1, rs1 := 2, rd := 0 }),
     (0x0232607b, .frun { rs2 := 3, rs1 := 4, rd := 0 }),
     (0x0432607b, .ftok { rs2 := 3, rs1 := 4, rd := 0 }),
     (0x060061fb, .fstat { rs2 := 0, rs1 := 0, rd := 3 }),
     (0x0801e27b, .lidx { rs2 := 0, rs1 := 3, rd := 4 }),
     (0x0a00607b, .lbrk { rs2 := 0, rs1 := 0, rd := 0 }),
     (0x0c3262fb, .mpkw { rs2 := 3, rs1 := 4, rd := 5 }),
     (0x0e01e27b, .mpkr { rs2 := 0, rs1 := 3, rd := 4 }),
     (0x100061fb, .mpkp { rs2 := 0, rs1 := 0, rd := 3 }),
     (0x1200607b, .tret { rs2 := 0, rs1 := 0, rd := 0 }),
     (0x1400607b, .syield { rs2 := 0, rs1 := 0, rd := 0 }),
     (0x1601e27b, .harnq { rs2 := 0, rs1 := 3, rd := 4 })] = true := by decide

theorem test_decode_i_words : reads
    [(0x003272db, .vsetli { imm := 3, rs1 := 4, rd := 5 }),
     (0x72e0307b, .waitc { imm := 1838, rs1 := 0, rd := 0 }),
     (0x0032507b, .loop { imm := 3, rs1 := 4, rd := 0 })] = true := by decide

theorem test_decode_bobbin_words_1 : readsBobbin
    [(0x00000000, .bAdd { dst := 0, a := 0, b := 0, imm := 0 }),
     (0x01000000, .bSub { dst := 0, a := 0, b := 0, imm := 0 }),
     (0x02000000, .bMul { dst := 0, a := 0, b := 0, imm := 0 }),
     (0x03000000, .bAnd { dst := 0, a := 0, b := 0, imm := 0 }),
     (0x04000000, .bOr { dst := 0, a := 0, b := 0, imm := 0 }),
     (0x05000000, .bXor { dst := 0, a := 0, b := 0, imm := 0 }),
     (0x06000000, .bSll { dst := 0, a := 0, b := 0, imm := 0 }),
     (0x07000000, .bSrl { dst := 0, a := 0, b := 0, imm := 0 }),
     (0x08000000, .bSra { dst := 0, a := 0, b := 0, imm := 0 }),
     (0x09000000, .bMin { dst := 0, a := 0, b := 0, imm := 0 }),
     (0x0a000000, .bMax { dst := 0, a := 0, b := 0, imm := 0 }),
     (0x0b000000, .bMinu { dst := 0, a := 0, b := 0, imm := 0 }),
     (0x0c000000, .bMaxu { dst := 0, a := 0, b := 0, imm := 0 }),
     (0x0d00f000, .bMov { dst := 0, a := 0, b := 15, imm := 0 }),
     (0x10000000, .bFadd { dst := 0, a := 0, b := 0, imm := 0 }),
     (0x11000000, .bFsub { dst := 0, a := 0, b := 0, imm := 0 }),
     (0x12000000, .bFmul { dst := 0, a := 0, b := 0, imm := 0 }),
     (0x13000000, .bFmin { dst := 0, a := 0, b := 0, imm := 0 }),
     (0x14000000, .bFmax { dst := 0, a := 0, b := 0, imm := 0 }),
     (0x15000000, .bFma { dst := 0, a := 0, b := 0, imm := 0 })] = true := by decide

theorem test_decode_bobbin_words_2 : readsBobbin
    [(0x20000000, .bCeq { dst := 0, a := 0, b := 0, imm := 0 }),
     (0x21000000, .bClt { dst := 0, a := 0, b := 0, imm := 0 }),
     (0x22000000, .bCltu { dst := 0, a := 0, b := 0, imm := 0 }),
     (0x23000000, .bFeq { dst := 0, a := 0, b := 0, imm := 0 }),
     (0x24000000, .bFlt { dst := 0, a := 0, b := 0, imm := 0 }),
     (0x25000000, .bFle { dst := 0, a := 0, b := 0, imm := 0 }),
     (0x28345006, .bSel { dst := 3, a := 4, b := 5, imm := 6 }),
     (0x30fff003, .bJ { dst := 15, a := 15, b := 15, imm := 3 }),
     (0x31f3f004, .bBnz { dst := 15, a := 3, b := 15, imm := 4 }),
     (0x32f3f004, .bBz { dst := 15, a := 3, b := 15, imm := 4 }),
     (0xc0fff000, .bRet { dst := 15, a := 15, b := 15, imm := 0 }),
     (0xc1fff000, .bHalt { dst := 15, a := 15, b := 15, imm := 0 }),
     (0xc2fff003, .bCtx { dst := 15, a := 15, b := 15, imm := 3 }),
     (0xc3aff000, .bTfwd { dst := 10, a := 15, b := 15, imm := 0 }),
     (0xc43ff000, .bTget { dst := 3, a := 15, b := 15, imm := 0 })] = true := by decide

/-- Every word of a list is refused, for the reason beside it. -/
def refuses (l : List (IWord × Reject)) : Bool :=
  l.all (fun p => match decode p.1 with | .ok _ => false | .error r => r == p.2)

/-- The same of bobbin words. -/
def refusesBobbin (l : List (IWord × Reject)) : Bool :=
  l.all (fun p => match decodeBobbin p.1 with | .ok _ => false | .error r => r == p.2)

/-- RV64I control and memory words, from the base formats: fields shown from bit 31 down. -/
theorem test_decode_rv_words_1 : reads
    [(0b00000000010100001000000110010011, .scalarInstruction (.opImm .addi 3 1 5)),
     (0b00010010001101000101001010110111, .scalarInstruction (.lui 5 0x12345)),
     (0x00001317, .scalarInstruction (.auipc 6 1)),
     (0x008000EF, .scalarInstruction (.jal 1 4)),
     (0x010100E7, .scalarInstruction (.jalr 1 2 16)),
     (0x00208863, .scalarInstruction (.branch .eq 1 2 8)),
     (0xFE20CEE3, .scalarInstruction (.branch .lt 1 2 0xFFE)),
     (0xFFC12183, .scalarInstruction (.load .w 3 2 0xFFC)),
     (0x00114183, .scalarInstruction (.load .bu 3 2 1)),
     (0x00513423, .scalarInstruction (.store .d 2 5 8)),
     (0x4210D193, .scalarInstruction (.shImm .srai 3 1 33)),
     (0x0050919B, .scalarInstruction (.shImmW .slliw 3 1 5)),
     (0xFFF0819B, .scalarInstruction (.opImm .addiw 3 1 0xFFF)),
     (0x0FF0000F, .fence 0 15 15 0 0),
     (0x0000100F, .fenceI 0 0 0),
     (0x00000073, .ecall),
     (0x00100073, .ebreak)] = true := by decide

/-- RV64I, M, Zba and Zbb register operations. -/
theorem test_decode_rv_words_2 : reads
    [(0x402081B3, .scalarInstruction (.opReg .sub 3 1 2)),
     (0x0220B1B3, .scalarInstruction (.opReg .mulhu 3 1 2)),
     (0x402081BB, .scalarInstruction (.opReg .subw 3 1 2)),
     (0x2020A1B3, .scalarInstruction (.opReg .sh1add 3 1 2)),
     (0x082081BB, .scalarInstruction (.opReg .addUw 3 1 2)),
     (0x0850919B, .scalarInstruction (.shImm .slliUw 3 1 5)),
     (0x60009193, .scalarInstruction (.unary .clz 3 1)),
     (0x60209193, .scalarInstruction (.unary .cpop 3 1)),
     (0x60409193, .scalarInstruction (.unary .sextB 3 1)),
     (0x6B80D193, .scalarInstruction (.unary .rev8 3 1)),
     (0x2870D193, .scalarInstruction (.unary .orcB 3 1)),
     (0x0800C1BB, .scalarInstruction (.unary .zextH 3 1)),
     (0x4020F1B3, .scalarInstruction (.opReg .andn 3 1 2)),
     (0x0A20C1B3, .scalarInstruction (.opReg .min 3 1 2)),
     (0x0A20D1B3, .scalarInstruction (.opReg .minu 3 1 2)),
     (0x0A20E1B3, .scalarInstruction (.opReg .max 3 1 2)),
     (0x602091B3, .scalarInstruction (.opReg .rol 3 1 2)),
     (0x6050D193, .scalarInstruction (.shImm .rori 3 1 5))] = true := by decide

/-- RV64A, F and D words. -/
theorem test_decode_rv_words_3 : reads
    [(0x1000A1AF, .scalarInstruction (.lr false false false 3 1)),
     (0x1E20B1AF, .scalarInstruction (.sc true true true 3 1 2)),
     (0x0020A1AF, .scalarInstruction (.amo .add false false false 3 1 2)),
     (0xE020B1AF, .scalarInstruction (.amo .maxu true false false 3 1 2)),
     (0x2020F1C3, .scalarInstruction (.fma .fmadd false 7 3 1 2 4)),
     (0x022081D3, .scalarInstruction (.farith .fadd true 0 3 1 2)),
     (0x580081D3, .scalarInstruction (.fsqrt false 0 3 1)),
     (0x420081D3, .scalarInstruction (.fcvtFF true 0 3 1)),
     (0x401081D3, .scalarInstruction (.fcvtFF false 0 3 1)),
     (0xC22091D3, .scalarInstruction (.fcvtToInt .l true 1 3 1)),
     (0xD01081D3, .scalarInstruction (.fcvtFromInt .wu false 0 3 1)),
     (0xA020A1D3, .scalarInstruction (.fcmp .feq false 3 1 2)),
     (0xE20091D3, .scalarInstruction (.fclass true 3 1)),
     (0xE00081D3, .scalarInstruction (.fmvToX false 3 1)),
     (0xF20081D3, .scalarInstruction (.fmvFromX true 3 1)),
     (0x202091D3, .scalarInstruction (.fsgn .fsgnjn false 3 1 2)),
     (0x2A2091D3, .scalarInstruction (.fminmax true true 3 1 2)),
     (0x0040A187, .scalarInstruction (.fload false 3 1 4)),
     (0x0020B427, .scalarInstruction (.fstore true 1 2 8))] = true := by decide

/-- Zicsr words: each CSR class of its own row. -/
theorem test_decode_csr_words : reads
    [(0x001091F3, .csrWrite { op := .rw, uimm := false, csr := 0x001, src := 1, rd := 3 }),
     (0x0021D073, .csrWrite { op := .rw, uimm := true, csr := 0x002, src := 3, rd := 0 }),
     (0x803091F3, .vfflagsWrite { op := .rw, uimm := false, csr := 0x803, src := 1, rd := 3 }),
     (0x8020A1F3, .vslipWrite { op := .rs, uimm := false, csr := 0x802, src := 1, rd := 3 }),
     (0x8010B1F3, .vmtWrite { op := .rc, uimm := false, csr := 0x801, src := 1, rd := 3 }),
     (0x817091F3, .tcfgWrite { op := .rw, uimm := false, csr := 0x817, src := 1, rd := 3 }),
     (0x5C5091F3, .sstatWrite { op := .rw, uimm := false, csr := 0x5C5, src := 1, rd := 3 }),
     (0xCC8021F3, .samplingStatsRead { op := .rs, uimm := false, csr := 0xCC8, src := 0, rd := 3 }),
     (0xC00021F3, .scalarInstruction (.csrRead { op := .rs, uimm := false, csr := 0xC00, src := 0, rd := 3 }))]
    = true := by decide

/-- Words that are no instruction, and why (05 R108, R109, R110, R112, R117 to R124). -/
theorem test_decode_refused_words : refuses
    [(0x00000000, .parcel), (0x00000001, .parcel), (0xFFFFFFFE, .parcel),
     (0x0000001F, .longPrefix), (0x0000003F, .longPrefix), (0xFFFFFFFF, .longPrefix),
     (0x30200073, .standard), (0x080081B3, .standard), (0x0220D1C3, .standard),
     (0x300021F3, .standard), (0xC00091F3, .standard), (0xCC8091F3, .standard)] = true := by decide

/-! ## Ill-formed terms: one for each check of WellFormed.lean, which the check refuses -/

/-- Every term of a list is refused, for the reason beside it. -/
def defects (l : List (Instr × Reject)) : Bool := l.all (fun p => p.1.defect == some p.2)

/-- V format (R115 to R118). -/
theorem test_illFormed_v : defects
    [(.vadd { nb := false, m := false, bk := 0, ak := true, b := 1, a := 2, d := 3 }, .field),
     (.vadd { nb := false, m := false, bk := 2, ak := false, b := 8, a := 2, d := 3 }, .field),
     (.vadd { nb := true, m := false, bk := 0, ak := false, b := 1, a := 2, d := 3 }, .field),
     (.vmerge { nb := false, m := false, bk := 0, ak := false, b := 1, a := 2, d := 3 }, .field),
     (.vfma { nb := false, m := false, bk := 0, ak := true, b := 1, a := 2, d := 3 }, .field),
     (.vcmpEq { nb := false, m := false, bk := 0, ak := false, b := 1, a := 2, d := 8 }, .field),
     (.vfsqrt { nb := false, m := false, bk := 0, ak := false, b := 1, a := 2, d := 3 }, .field),
     (.vmv { nb := false, m := false, bk := 0, ak := false, b := 1, a := 1, d := 3 }, .field),
     (.vmv { nb := false, m := false, bk := 0, ak := true, b := 1, a := 0, d := 3 }, .field),
     (.vcvt { nb := false, m := false, bk := 0, ak := false, b := 1, a := 2, d := 3 }, .field),
     (.vcvt { nb := false, m := false, bk := 3, ak := false, b := 0, a := 2, d := 3 }, .range),
     (.vcvt { nb := false, m := false, bk := 3, ak := false, b := 9, a := 2, d := 3 }, .range),
     (.vrand { nb := false, m := false, bk := 3, ak := false, b := 0, a := 1, d := 3 }, .field),
     (.vrand { nb := false, m := false, bk := 3, ak := false, b := 4, a := 0, d := 3 }, .range),
     (.vnms { nb := true, m := false, bk := 3, ak := false, b := 1, a := 2, d := 0 }, .field),
     (.vnms { nb := false, m := false, bk := 3, ak := false, b := 4, a := 2, d := 3 }, .range),
     (.vnms { nb := false, m := false, bk := 3, ak := false, b := 3, a := 2, d := 31 }, .register),
     (.vnmst { nb := false, m := false, bk := 3, ak := false, b := 1, a := 2, d := 3 }, .range),
     (.vred { nb := false, m := false, bk := 3, ak := false, b := 8, a := 2, d := 3 }, .range),
     (.vred { nb := false, m := false, bk := 3, ak := false, b := 7, a := 2, d := 8 }, .field),
     (.vfred { nb := false, m := false, bk := 3, ak := false, b := 4, a := 2, d := 3 }, .range),
     (.vfredo { nb := false, m := false, bk := 3, ak := false, b := 1, a := 2, d := 3 }, .range)] = true := by decide

/-- VM and K formats (R119, R120). -/
theorem test_illFormed_vm_k : defects
    [(.vld { mf := 15, m := false, sub := 0, b := 0, a := 2, d := 3 }, .range),
     (.vld { mf := 0, m := false, sub := 2, b := 0, a := 2, d := 3 }, .field),
     (.vld { mf := 0, m := false, sub := 1, b := 0, a := 2, d := 3 }, .field),
     (.vst { mf := 9, m := false, sub := 0, b := 1, a := 2, d := 3 }, .field),
     (.vldx { mf := 10, m := false, sub := 0, b := 0, a := 2, d := 3 }, .range),
     (.vstx { mf := 0, m := false, sub := 1, b := 0, a := 2, d := 3 }, .field),
     (.vamox { mf := 15, m := false, sub := 0, b := 0, a := 2, d := 3 }, .range),
     (.kand { k3 := 1, b := 1, a := 2, d := 3 }, .field),
     (.kor { k3 := 0, b := 8, a := 2, d := 3 }, .field),
     (.knot { k3 := 0, b := 1, a := 2, d := 3 }, .field),
     (.kshl { k3 := 0, b := 1, a := 2, d := 8 }, .field),
     (.vaddk { k3 := 0, b := 1, a := 2, d := 3 }, .field)] = true := by decide

/-- R and I formats (R121 to R123). -/
theorem test_illFormed_r_i : defects
    [(.vlq { rs2 := 0, rs1 := 8, rd := 1 }, .field),
     (.vlq { rs2 := 1, rs1 := 7, rd := 1 }, .field),
     (.vforce { rs2 := 0, rs1 := 0, rd := 1 }, .field),
     (.voset { rs2 := 0, rs1 := 1, rd := 8 }, .field),
     (.hload { rs2 := 1, rs1 := 1, rd := 2 }, .field),
     (.hloads { rs2 := 1, rs1 := 7, rd := 1 }, .field),
     (.hmulf { rs2 := 0, rs1 := 0, rd := 4 }, .field),
     (.hacc { rs2 := 2, rs1 := 0, rd := 0 }, .field),
     (.frun { rs2 := 16, rs1 := 1, rd := 0 }, .field),
     (.fld { rs2 := 2, rs1 := 1, rd := 0 }, .field),
     (.cpy { rs2 := 0, rs1 := 0, rd := 0 }, .field),
     (.cpy { rs2 := 0, rs1 := 29, rd := 0 }, .field),
     (.ramo { rs2 := 31, rs1 := 1, rd := 1 }, .field),
     (.ramo { rs2 := 0, rs1 := 1, rd := 1 }, .field),
     (.vldsg { rs2 := 0, rs1 := 1, rd := 1 }, .range),
     (.vldsg { rs2 := 8, rs1 := 1, rd := 1 }, .range),
     (.vstsg { rs2 := 7, rs1 := 1, rd := 25 }, .register),
     (.harnq { rs2 := 0, rs1 := 8, rd := 1 }, .field),
     (.lidx { rs2 := 0, rs1 := 6, rd := 1 }, .field),
     (.waitc { imm := 0, rs1 := 1, rd := 0 }, .field),
     (.loop { imm := 1, rs1 := 1, rd := 1 }, .field),
     (.loop { imm := 0, rs1 := 1, rd := 0 }, .range)] = true := by decide

/-- Bobbin words, CSR words and scalar words (R237, R41, R110, R109). -/
theorem test_illFormed_bobbin_scalar : defects
    [(.bAdd { dst := 12, a := 1, b := 2, imm := 0 }, .field),
     (.bAdd { dst := 0, a := 1, b := 2, imm := 1 }, .field),
     (.bMov { dst := 0, a := 1, b := 2, imm := 0 }, .field),
     (.bFma { dst := 8, a := 1, b := 2, imm := 0 }, .field),
     (.bSel { dst := 0, a := 1, b := 2, imm := 8 }, .field),
     (.bJ { dst := 15, a := 15, b := 15, imm := 32 }, .field),
     (.bBnz { dst := 15, a := 1, b := 14, imm := 0 }, .field),
     (.bHalt { dst := 15, a := 15, b := 15, imm := 1 }, .field),
     (.bCtx { dst := 14, a := 15, b := 15, imm := 0 }, .field),
     (.bTfwd { dst := 9, a := 15, b := 15, imm := 0 }, .field),
     (.bTget { dst := 8, a := 15, b := 15, imm := 0 }, .field),
     (.csrWrite { op := .rw, uimm := false, csr := 0x802, src := 1, rd := 1 }, .csr),
     (.csrWrite { op := .rs, uimm := false, csr := 0x1, src := 0, rd := 1 }, .csr),
     (.sstatWrite { op := .rw, uimm := false, csr := 0x5c6, src := 1, rd := 1 }, .csr),
     (.samplingStatsRead { op := .rw, uimm := false, csr := 0xcc8, src := 1, rd := 1 }, .csr),
     (.scalarInstruction (.csrRead { op := .rs, uimm := false, csr := 0xcc8, src := 0, rd := 1 }), .csr),
     (.scalarInstruction (.csrRead { op := .rw, uimm := false, csr := 0xc00, src := 1, rd := 1 }), .csr),
     (.scalarInstruction (.farith .fadd false 5 1 2 3), .standard),
     (.scalarInstruction (.fma .fmadd true 6 1 2 3 4), .standard),
     (.scalarInstruction (.fcvtToInt .w false 5 1 2), .standard)] = true := by decide

/-! ## Single steps and witnesses: small states, each with one strand bound -/

/-- A strand bound on front end 0 with one pair of halves, and vector and tile state initial; x1 points into its scratchpad. -/
def wit : State :=
  { State.reset with
    st := { Strand.reset with
      run := .bound, lanes := 32, pc := 0x1000, act := lanesVec [0xFFFF, 0xFFFF]
      br := { BindRec.zero with g := 1 }
      x := Vector.replicate 32 0 |>.set 1 0xFFFFFF0000000000
      csr := { Csrs.reset with stvec := 0x2000 } } }

/-- The same in supervisor mode. -/
def witSup : State := { wit with st := { wit.st with sstat := { wit.st.sstat with mode := true } } }

/-- The same with a length of vl elements of an element type, resident. -/
def witVec (et vl : Nat) : State :=
  { wit with st := { wit.st with vec := { wit.st.vec with vtype := BitVec.ofNat 64 et, vl := vl, first := true } } }

/-- A V-format word's fields: v1 + v2 into v3. -/
def fV : VF := { nb := false, m := false, bk := 0, ak := false, b := 2, a := 1, d := 3 }

/-- An R-format word's fields. -/
def fR (rd rs1 rs2 : BitVec 5) : RF := { rs2 := rs2, rs1 := rs1, rd := rd }

theorem witness_NotedInstructionsComplete : ∃ n, noteOf (.vadd fV) (witVec 4 8) = some ([], n) ∧ (witVec 4 8).vecReady [] ∧
    vtVill (witVec 4 8).st.vec.vtype = false ∧ n.clear (witVec 4 8) := by
  refine ⟨_, rfl, ?_, by decide, ?_⟩
  · unfold State.vecReady; decide
  · unfold Note.clear; decide

theorem witness_NotingChangesNoElement : ∃ n t, noteOf (.vadd fV) (witVec 4 8) = some ([], n) ∧ (witVec 4 8).vecReady [] ∧
    exec (.vadd fV) (witVec 4 8) = .next t := by
  refine ⟨_, _, rfl, ?_, rfl⟩
  unfold State.vecReady; decide

/-- A strand whose vs is off. -/
def witOff : State := { wit with st := { wit.st with sstat := { wit.st.sstat with vs := 0 } } }

theorem witness_NotedInstructionsTrap :
    (∃ n, noteOf (.vadd fV) witOff = some ([], n) ∧ witOff.waitsX [] = false ∧ witOff.st.sstat.vs = 0) ∧
    (∃ n, noteOf (.vadd fV) wit = some ([], n) ∧ wit.st.sstat.vs ≠ 0 ∧ vtVill wit.st.vec.vtype = true) ∧
    (∃ n, noteOf (.vfadd fV) (witVec 4 8) = some ([], n) ∧ n.bad = true) ∧
    (∃ n, noteOf (.vadd fV) (witVec 4 257) = some ([], n) ∧ n.bad = false ∧ n.reads.all (witVec 4 257).readable = false) :=
  ⟨⟨_, rfl, by decide, rfl⟩, ⟨_, rfl, by decide, by decide⟩, ⟨_, rfl, by decide⟩, ⟨_, rfl, by decide, by decide⟩⟩

/-- The immediate operand: imm5 = 31 is −1, in i64 and in fp64 (0xBFF0 and zeros). -/
theorem test_operandB_immediate : opB (witVec 4 8) false { fV with bk := 3, b := 31 } = .scalar 0xFFFFFFFFFFFFFFFF ∧
    opB (witVec 8 8) true { fV with bk := 3, b := 31 } = .scalar 0xBFF0000000000000 := by decide

/-- Noted nodes for the statements about elements. -/
def witNode (op : NOp) (m : Option Src) : Node :=
  { (witVec 4 2).blankNode op with a := .vreg 1, b := .vreg 2, under := .vreg 3, mask := m }

theorem witness_MaskLogicElements : (fun _ _ _ => (1 : Nat) : Reads) (witNode .kand none).a 1 0 = true.toNat ∧
    (witNode .kand none).op = .kand := by decide

theorem witness_MemoryFormatSizes : (witNode .load none).mf = 0 ∧ ({ witNode .load none with mf := 11 } : Node).fmt = 11 := by decide

/-- The corners of 8-bit integers: 255 − 256, −1 × −1, −128 / −1, saturation at both ends, a shift by 9. -/
theorem test_integer_corners : intElem .sub 8 0 1 = 255 ∧ intElem .mulh 8 255 255 = 0 ∧ intElem .mulhu 8 255 255 = 254 ∧
    intElem .div 8 128 255 = 128 ∧ intElem .rem 8 128 255 = 0 ∧ intElem .adds 8 127 1 = 127 ∧ intElem .subsu 8 0 1 = 0 ∧
    intElem .sll 8 1 9 = 2 ∧ intElem .sra 8 128 7 = 255 := by decide

theorem witness_IntegerElements : 8 ∈ [8, 16, 32, 64] ∧ 255 < 2 ^ 8 := by decide

theorem witness_MaskedElementsKeepUnder : let n := witNode .add (some (.kreg 0))
    let g : Reads := fun x _ i => if x = .kreg 0 then i else 7
    n.op ≠ .merge ∧ (∀ o ∈ [NOp.scanAdd, .scanMax, .fscan, .lrec, .prev, .nms, .nmst], n.op ≠ o) ∧
      n.off g 0 = true ∧ n.off g 1 = false := by decide

/-- In bf16, 1 and 1 have sum 2 and product 1; 2 less 1 is 1. The quiet NaN 0x7FC0; a reduction with elements and with none. -/
theorem witness_MaskedElementsKeepUnder_values : ffOf 5 = bf16 ∧ 0x4000 < 2 ^ bf16.width ∧
    unpack bf16 0x3F80 = .fin false 128 (-7) ∧ unpack bf16 0x4000 = .fin false 128 (-6) ∧
    (128 * 2 ^ ((-7 : Int) + 2200).toNat + 128 * 2 ^ ((-7 : Int) + 2200).toNat = (128 : Int) * 2 ^ ((-6 : Int) + 2200).toNat) ∧
    (unpack bf16 0x7FC0).isNan = true ∧ (unpack bf16 0x3F80).isNan = false ∧
    (witNode .scanAdd none).op ∈ [NOp.scanAdd, .scanMax, .fscan, .lrec, .prev] ∧ (∃ x ∈ [some 1, none], x ≠ (none : Option Nat)) ∧
    (∀ x ∈ [(none : Option Nat)], x = none) ∧ (∀ x, some x ∈ [some 1, none] → x < 2 ^ 64) := by
  refine ⟨rfl, by decide, by decide, by decide, by decide +kernel, by decide, by decide, by decide, by decide, by decide, ?_⟩
  simp

/-- Nodes in element type et, at VL = 16. -/
def witNodeIn (et : Nat) (op : NOp) (sel : Nat) : Node :=
  { (witVec et 16).blankNode op with a := .kreg 0, b := .kreg 1, sel := sel }

/-- The value of a pattern as a multiple of 2^−2200, as the statements write it. -/
def scaled (f : FF) (p : Nat) : Option Int :=
  match unpack f p with
  | .fin neg m e => some ((if neg then -1 else 1 : Int) * m * 2 ^ (e + 2200).toNat)
  | _ => none

theorem witness_OperandBForms_cvt : let n := witNodeIn 4 .cvt 5
    n.op = .cvt ∧ n.sel = 5 ∧ vtEt n.vtype = 4 ∧ etFloat n.sel = true ∧ etFloat (vtEt n.vtype) = false ∧
    scaled bf16 0x4000 = some (2 * 2 ^ 2200) ∧ sgn 64 2 = 2 ∧ (unpack bf16 0x7FC0).isNan = true ∧ unpack bf16 0x7F80 = .inf false ∧
    scaled bf16 0x7F00 = some (2 ^ 127 * 2 ^ 2200) ∧ scaled bf16 0xFF00 = some (-2 ^ 127 * 2 ^ 2200) ∧
    etFloat (witNodeIn 4 .cvt 1).sel = false ∧ scaled bf16 0x3F80 = some (1 * 2 ^ 2200) ∧ vtSat (witNodeIn (4 + 2 ^ 12) .cvt 1).vtype = true := by
  refine ⟨rfl, rfl, by decide, by decide, by decide, ?_, by decide, by decide, by decide, ?_, ?_, by decide, ?_, by decide⟩ <;> decide +kernel

/-- With key 0, the counter 5,288,436 draws a turn of exactly three quarters (ten rounds of Philox computed apart from the model). -/
theorem witness_OperandBForms_rand : let n := { witNodeIn 7 .rand 3 with seed := 0, seed2 := 5288436 }
    let u := philox (5288436, 0, 0, 0) 0 0
    n.op = .rand ∧ (n.seed2.toNat + 0) % 2 ^ 64 = 5288436 ∧ 4 * (u.2.1 / 2 ^ 8) = 3 * 2 ^ 24 ∧ (∀ s, s < 4 → (witNodeIn 7 .rand s).sel = s) := by
  decide +kernel

/-- In bf16, 0x3F80 is 1, the number of element 1; VL = 16 is a whole number of groups of 2 : 4 and of blocks of VNMST. -/
theorem witness_MaskLogicElements_more : let g : Reads := fun x _ i => if x = .kreg 0 then i else 1
    (witNodeIn 4 .adc 0).op = .adc ∧ g (.kreg 0) 64 3 < 2 ^ 64 ∧ g (.kreg 1) 64 3 < 2 ^ 64 ∧ g (.kreg 1) 1 3 ≤ 1 ∧
    (witNodeIn 5 .vid 0).op = .vid ∧ etFloat (vtEt (witNodeIn 5 .vid 0).vtype) = true ∧ etFloat (vtEt (witNodeIn 4 .vid 0).vtype) = false ∧
    unpack bf16 0x3F80 = .fin false 128 (-7) ∧ 128 * 2 ^ ((-7 : Int) + 2200).toNat = 1 * 2 ^ 2200 ∧
    (witNodeIn 5 .nms 0).op = .nms ∧ (witNodeIn 5 .nms 0).vl % (nmOf (witNodeIn 5 .nms 0).sel).2 = 0 ∧
    (witNodeIn 5 .nmst 0).op = .nmst ∧ (witNodeIn 5 .nmst 0).vl % 16 = 0 := by decide +kernel

/-- The nodes of the canonical tree over the leaves, level by level. -/
def treeAt (leaf : Nat → Option Nat) (put : Option Nat → Option Nat → Option Nat) : Nat → Nat → Option Nat
  | 0, i => leaf i
  | l + 1, i => put (treeAt leaf put l (2 * i)) (treeAt leaf put l (2 * i + 1))

/-- Every list of leaves has its tree; 2^1 and its logarithm 1 in bf16; an infinity, a zero and a value below zero. -/
theorem witness_MaskedElementsKeepUnder_tree :
    (∀ (leaf : Nat → Option Nat) (put : Option Nat → Option Nat → Option Nat), ∃ t : Nat → Nat → Option Nat, (∀ i, t 0 i = leaf i) ∧ ∀ l i, t (l + 1) i = put (t l (2 * i)) (t l (2 * i + 1))) ∧
    (witNodeIn 5 .fred 3).op = .fred ∧ [some 1, none, some 2].length ≤ 2 ^ 2 ∧ (∃ x ∈ [some 1, none, some 2], x ≠ (none : Option Nat)) ∧
    scaled bf16 0x3F80 = some ((7 + -6) * 2 ^ 2200) ∧ unpack bf16 0x4000 = .fin false (2 ^ 7) (-6) ∧
    unpack bf16 0x7F80 = .inf false ∧ unpack bf16 0xFF80 = .inf true ∧ unpack bf16 0 = .fin false 0 (-133) ∧
    unpack bf16 0xBF80 = .fin true 128 (-7) ∧ (unpack bf16 0x7FC0).isNan = true := by
  refine ⟨fun leaf put => ⟨treeAt leaf put, fun _ => rfl, fun _ _ => rfl⟩, rfl, by decide, by decide, ?_⟩
  decide +kernel

/-- 1 + 1 = 2 in bf16; a scan from 10 over 1 and 2; the ordered sum 24 + 1 + 2 of integers is VRED's too (R137, R142, R68). -/
theorem test_elements : fpElem .fadd bf16 0 0 0x3F80 0x3F80 0 = (0x4000, 0) ∧
    (evalNode { witNode .scanAdd none with a := .kreg 0, seed := 10 } (fun _ _ i => i + 1) 0).p0 = [11, 13] ∧
    (reduce { witNode .red none with seed := 24 } [some 1, none, some 2]).1 = some 27 := by decide +kernel

/-- A pricking with one node noted that a name needs, one store, and two stores of overlapping extents under other mappings. -/
def witNoted : State := (witVec 4 8).setPk (Pricking.empty.note ((witVec 4 8).blankNode .add) (.v 3))
def witStore (base : Word) (stride : Word) : Node :=
  { (witVec 4 8).blankNode .store with base := base, stride := stride, mf := 4 }
def witSink : State := (witVec 4 8).setPk (Pricking.empty.note (witStore 0 8) .none)
def witClash : State := (witVec 4 8).setPk ((Pricking.empty.note (witStore 0 8) .none).note (witStore 16 8) .none)

theorem witness_ForceStartsAPass : (witVec 4 8).st.vec.pass = none ∧
    (¬ ((∃ n ∈ (witVec 4 8).st.vec.pk.nodes, n.op.isSink = true) ∨
      (vtSm (witVec 4 8).st.vec.vtype = false ∧ (witVec 4 8).st.vec.pk.bound ≠ []))) ∧
    witNoted.st.vec.pass = none ∧ (vtSm witNoted.st.vec.vtype = false ∧ witNoted.st.vec.pk.bound ≠ []) ∧
    refusedStore (witNoted.st.vec.pk.passNodes false none) = none ∧
    (∃ n ∈ witSink.st.vec.pk.nodes, n.op.isSink = true) ∧ refusedStore (witSink.st.vec.pk.passNodes false none) = none ∧
    (∃ n ∈ witClash.st.vec.pk.nodes, n.op.isSink = true) ∧ refusedStore (witClash.st.vec.pk.passNodes false none) ≠ none := by
  decide

/-- A request of i64 elements is legal, of type 0 is not. -/
theorem witness_SetLengthCompletes : wit.vecReady [1, 0, 2] ∧ wit.vecReady [1, 2] ∧ vtLegal 4 wit.st.br.prot = true ∧
    vtLegal 0 wit.st.br.prot = false ∧
    (∃ f : RF, Instr.vsetl f = .vsetl (fR 2 1 0)) ∧ (∃ f : IF, Instr.vsetli f = .vsetli { imm := 4, rs1 := 1, rd := 2 }) := by
  refine ⟨?_, ?_, by decide, by decide, ⟨_, rfl⟩, ⟨_, rfl⟩⟩ <;> unfold State.vecReady <;> decide

/-- VSETLI of 4 (i64) with x1 beyond VLMAX gives VLMAX = 32 × 512 / 64 (R153). -/
theorem test_vsetli_vlmax : (match exec (.vsetli { imm := 4, rs1 := 1, rd := 2 }) wit with
    | .next t => t.x 2 == 256 && t.st.vec.vl == 256 && t.st.pc == 0x1004 | _ => false) = true := by decide +kernel

theorem witness_QueriesAndForceComplete : (witVec 4 8).vecReady [] ∧ (witVec 4 8).vecReady [1] ∧ (witVec 4 8).vecReady [2] ∧
    vtVill (witVec 4 8).st.vec.vtype = false ∧ (witVec 4 8).st.vec.pk.redTargets 0 = false ∧ (witVec 4 8).forceFree ∧
    vtVill wit.st.vec.vtype = true ∧ (witVec 4 8).st.vec.pk.nodes = [] ∧ (witVec 4 8).st.vec.pk.due = false := by
  unfold State.vecReady State.forceFree; decide

/-- Stream mode: sm of vtype set. -/
def witStream : State := witVec (4 + 2 ^ 4) 8

/-- k7 is a recipe of 9 elements while VL is 8. -/
def witOld : State :=
  { witStream with st := { witStream.st with vec := { witStream.st.vec with
      pk := Pricking.empty.note ((witVec 4 9).blankNode .kset) (.k 7) } } }

theorem witness_MaskToScalarCompletes : (∃ v, maskValue (.kmv (fR 2 7 1)) = some (fR 2 7 1, [2, 1], v)) ∧ (witVec 4 8).vecReady [2, 1] ∧
    vtVill (witVec 4 8).st.vec.vtype = false ∧ (witVec 4 8).forceFree ∧ (witVec 4 8).st.vec.answer = none ∧
    vtSm (witVec 4 8).st.vec.vtype = false ∧ (witVec 4 8).readable (.msk (kSrc (witVec 4 8).st.vec.pk (low3 7))) = true ∧
    witOld.readable (.msk (kSrc witOld.st.vec.pk (low3 7))) = false ∧ witOld.vecReady [2, 1] ∧
    vtVill witOld.st.vec.vtype = false ∧ witOld.st.vec.answer = none := by
  refine ⟨⟨_, rfl⟩, ?_⟩
  unfold State.vecReady State.forceFree; decide

/-- KFIRST of an empty mask gives all ones (R152). -/
theorem test_kfirst_empty : (match exec (.kfirst (fR 2 1 0)) (witVec 4 8) with
    | .next t => t.x 2 == 0xFFFFFFFFFFFFFFFF | _ => false) = true := by decide +kernel

theorem witness_ResultsAndResidentWorkForceFirst : forcesFirst (.vrev (fR 2 1 0)) = some [] ∧ witNoted.vecReady [] ∧
    vtVill witNoted.st.vec.vtype = false ∧ (force witNoted).st.vec.pass.isSome = true ∧ witStream.vecReady [] ∧
    vtVill witStream.st.vec.vtype = false ∧ witStream.forceFree ∧ vtSm witStream.st.vec.vtype = true ∧
    (∀ f, Instr.vrev (fR 2 1 0) ≠ .voget f) ∧ (vMoveOf (.vspill (fR 2 1 0))).isSome = true ∧ vmtLegal witStream.st.csr.vmt = true := by
  refine ⟨rfl, ?_, by decide, by decide, ?_, by decide, ?_, by decide, fun f => nofun, rfl, by decide⟩
  · unfold State.vecReady; decide
  · unfold State.vecReady; decide
  · unfold State.forceFree; decide

/-- Four i64 elements, and word 0 of v[r] that cannot be rebuilt: the words of lanes 0 and 1 of half 0 fail parity there. -/
def witLost (r : Nat) : State :=
  let s := witVec 4 4
  let bad := fun lane : Nat => ({ half := 0, lane := lane, reg := r, pos := 0, lasting := false } : BadWord)
  s.setVec { s.st.vec with bad := [bad 0, bad 1] }

theorem witness_PermutationsComplete : (∃ p, permuted (.vsldup (fR 3 2 1)) = some (fR 3 2 1, [1], p)) ∧ (witVec 4 256).vecReady [1] ∧
    vtVill (witVec 4 256).st.vec.vtype = false ∧ vtSm (witVec 4 256).st.vec.vtype = false ∧ (witVec 4 256).forceFree ∧
    (witVec 4 256).ew * (witVec 4 256).st.vec.vl ≤ 65536 ∧
    (witVec 4 256).st.firstLost (permWords (.vsldup (fR 3 2 1)) (witVec 4 256)) = none ∧
    (witLost 2).st.firstLost (permWords (.vsldup (fR 3 2 1)) (witLost 2)) = some (2, 0) ∧ (witLost 2).vecReady [1] ∧
    (witLost 2).forceFree := by
  refine ⟨⟨_, rfl⟩, ?_⟩
  unfold State.vecReady State.forceFree; and_intros <;> decide +kernel

/-- VREV of one element of v1 = 5 into v3 (R180). -/
theorem test_vrev : (match exec (.vrev (fR 3 1 0)) ((witVec 4 2).setV 1 5) with
    | .next t => t.v 3 == 5 <<< 64 | _ => false) = true := by decide +kernel

/-- A spill of one element of v1 = 0x0102030405060708 to the scratchpad. -/
def witSpill : State := (witVec 4 1).setV 1 0x0102030405060708

theorem witness_SpillsAndFillsComplete : (∃ u, vMoveOf (.vspill (fR 0 1 1)) = some (fR 0 1 1, true, 1, 1) ∧
    moveAll true 1 1 (witSpill.x 1).toNat ((force witSpill).todo 1) (force witSpill) = some u) ∧ witSpill.vecReady [1] ∧
    vtVill witSpill.st.vec.vtype = false ∧ vtSm witSpill.st.vec.vtype = false ∧ witSpill.forceFree ∧
    vmtLegal witSpill.st.csr.vmt = true ∧ (force witSpill).openNow 1 = true := by
  refine ⟨⟨(moveAll true 1 1 (witSpill.x 1).toNat ((force witSpill).todo 1) (force witSpill)).get (by decide +kernel), rfl,
    (Option.some_get _).symm⟩, ?_, by decide +kernel, by decide +kernel, ?_, by decide +kernel, by decide +kernel⟩
  · unfold State.vecReady; decide +kernel
  · unfold State.forceFree; decide +kernel

/-- VSPILL stores the element little-endian (R176, R3). -/
theorem test_vspill : (match exec (.vspill (fR 0 1 1)) witSpill with
    | .next t => t.mem.get (scratchKey 0 0) == 8 && t.mem.get (scratchKey 0 7) == 1 && t.st.vec.vstart == 0 | _ => false) = true := by
  decide +kernel

theorem witness_SpilledBytes : ∃ s', wit.mem.wf = true ∧ wit.poison = [] ∧ wit.trip? 7 11 = none ∧ wit.trip? 7 8 = none ∧
    (let va := (wit.spaceVa wit.st.csr.vmt 0xFFFFFF0000000000 8).1
     wit.pfHold wit.st.fe va 8 7 0 = none ∧ wit.locateN wit.st va 8 wit.sup .write = .keys (keysFrom (2 ^ 60) 8)) ∧
    (keysFrom (2 ^ 60) 8).Nodup ∧ (keysFrom (2 ^ 60) 8).length = 8 ∧ wit.vWrite 0 0xFFFFFF0000000000 8 5 = .val () s' := by
  refine ⟨_, by decide, by decide, by decide, by decide, by decide, by decide, by decide, rfl⟩

/-- vs off, so that VSAVEF's frame is 8,192 bytes; vmt illegal; an address off by one. -/
def witBadVmt : State := { wit with st := { wit.st with csr := { wit.st.csr with vmt := 8 } } }
def witOdd : State := { witOff with st := { witOff.st with x := witOff.st.x.set 1 0xFFFFFF0000000001 } }

/-- Cells of n bytes from key k. -/
def cellsFrom (k n : Nat) (f : Nat → Byte) : Memory :=
  match n with
  | 0 => []
  | n + 1 => (k, f k) :: cellsFrom (k + 1) n f

theorem cellsFrom_get (n k a : Nat) (f : Nat → Byte) (h : k ≤ a) (h' : a < k + n) : (cellsFrom k n f).get a = f a := by
  induction n generalizing k with
  | zero => omega
  | succ n ih =>
    unfold cellsFrom Memory.get
    split
    · simp_all
    · rename_i hk
      rw [if_neg (by omega)]
      exact ih (k + 1) (by omega) (by omega)

/-- A frame without vector state, and a strand whose scratchpad holds it. -/
def witFrame : Frame := { serial := 0, ctx := 0, word0 := 0x200101, loops := [], vec := none }
def witFramed : State :=
  { witOff with mem := cellsFrom (2 ^ 60) 8192 (fun a => frameByteAt witFrame (a - 2 ^ 60)), frames := [witFrame] }

theorem byteFor_seen (s : State) (cls k : Nat) (h : s.st.eng.unseen = []) : s.byteFor cls k = s.mem.get k := by
  simp [State.byteFor, h]

theorem witFramed_get (i : Nat) (h : i < 8192) : witFramed.mem.get ((keysFrom (2 ^ 60) 8192).getD i 0) = frameByteAt witFrame i := by
  have hk : (keysFrom (2 ^ 60) 8192).getD i 0 = 2 ^ 60 + i := by
    simp [keysFrom, List.getD_eq_getElem?_getD, List.getElem?_map, List.getElem?_range h]
  rw [hk]
  show (cellsFrom (2 ^ 60) 8192 _).get _ = _
  rw [cellsFrom_get _ _ _ _ (by omega) (by omega), Nat.add_sub_cancel_left]

theorem frameAt_scratch (s : State) (use : Use) (hx : (s.x 1).toNat = 0xFFFFFF0000000000) (h1 : s.trip? 7 8 = none)
    (h2 : s.pfWaits = []) (h3 : s.locate s.st 0xFFFFFF0000000000 s.sup use = .at (2 ^ 60)) (h4 : s.st.csr.vmt = 0) :
    s.frameAt (s.x 1).toNat 8192 use = .val (keysFrom (2 ^ 60) 8192) s := by
  have hl : s.locateN s.st 0xFFFFFF0000000000 8192 s.sup use = .keys (keysFrom (2 ^ 60) 8192) := by
    simp [State.locateN, h3]
  have hp : pagePieces 0xFFFFFF0000000000 8192 = [(0xFFFFFF0000000000, 8192)] := by decide
  have hv : s.spaceVa 0 0xFFFFFF0000000000 8192 = (0xFFFFFF0000000000, true) := by simp [State.spaceVa, fieldOf]
  simp only [State.frameAt, State.compared, hx, h4, hv, hp, frameKeys, State.access, h1, State.pfHold, h2, List.find?_nil, hl, Bool.not_true,
    Bool.false_eq_true, if_false, List.append_nil]

theorem wit_frameAt : wit.frameAt (wit.x 1).toNat 83968 .write =
    .val (keysFrom (2 ^ 60) 65536 ++ keysFrom (2 ^ 60 + 65536) 18432) wit := by
  have h1 : wit.trip? 7 8 = none := by decide
  have hl : ∀ n, n ≤ 65536 → wit.locateN wit.st 0xFFFFFF0000000000 n wit.sup .write = .keys (keysFrom (2 ^ 60) n) := fun n hn => by
    have h3 : wit.locate wit.st 0xFFFFFF0000000000 wit.sup .write = .at (2 ^ 60) := by decide
    simp [State.locateN, h3, Nat.min_eq_left hn]
  have hl2 : ∀ n, n ≤ 65536 → wit.locateN wit.st 0xFFFFFF0000010000 n wit.sup .write = .keys (keysFrom (2 ^ 60 + 65536) n) :=
    fun n hn => by
      have h3 : wit.locate wit.st 0xFFFFFF0000010000 wit.sup .write = .at (2 ^ 60 + 65536) := by decide
      simp [State.locateN, h3, Nat.min_eq_left hn]
  have hp : pagePieces 0xFFFFFF0000000000 83968 = [(0xFFFFFF0000000000, 65536), (0xFFFFFF0000010000, 18432)] := by decide
  have hx : (wit.x 1).toNat = 0xFFFFFF0000000000 := by decide
  have hv : wit.spaceVa wit.st.csr.vmt 0xFFFFFF0000000000 83968 = (0xFFFFFF0000000000, true) := by decide
  have hw : wit.pfWaits = [] := rfl
  simp only [State.frameAt, State.compared, hx, hv, hp, frameKeys, State.access, h1, State.pfHold, hw, List.find?_nil, hl 65536 (by omega),
    hl2 18432 (by omega), Bool.not_true, Bool.false_eq_true, if_false, List.append_nil]

theorem wit_toSave : wit.toSave = wit := by
  simp [State.toSave, State.readWords, wit, Strand.reset, Vec.reset, SStat.reset]

theorem witFramed_toRestore : witFramed.toRestore = witFramed := by
  have h1 : witFramed.st.vec.pass = none := rfl
  have h2 : witFramed.needsPass none = false := by decide +kernel
  have h3 : witFramed.st.vec.pk.forced.gc = witFramed.st.vec.pk := by decide +kernel
  have h4 : witFramed.setPk witFramed.st.vec.pk = witFramed := rfl
  simp [State.toRestore, force, forceFor, h1, h2, h3, h4, State.dirtyIf]

theorem witFramed_restores : witFramed.restores (fR 0 1 0) 8192 (keysFrom (2 ^ 60) 8192) (keysFrom (2 ^ 60) 8192) := by
  have h : witFramed.frameAt (witFramed.x 1).toNat 8192 .read = .val (keysFrom (2 ^ 60) 8192) witFramed :=
    frameAt_scratch witFramed _ (by decide) (by decide) rfl (by decide) rfl
  unfold State.restores
  rw [witFramed_toRestore]
  exact ⟨by decide, rfl, rfl, .inr (by unfold State.forceFree; decide +kernel), by decide, by decide, by decide +kernel, rfl, h, h⟩

theorem witness_FramesSaveAndRestore : witBadVmt.waitsX [1] = false ∧ witBadVmt.st.fab.run = none ∧
    vmtLegal witBadVmt.st.csr.vmt = false ∧
    (vmtLegal witOdd.st.csr.vmt = true ∧ (witOdd.x 1).toNat % 4096 ≠ 0) ∧
    (vmtLegal (witLost 0).st.csr.vmt = true ∧ ((witLost 0).x 1).toNat % 4096 = 0 ∧ (witLost 0).st.sstat.vs ≠ 0 ∧
      (witLost 0).st.firstLost (witLost 0).frameWords = some (0, 0)) ∧
    witOff.saves (fR 0 1 0) (keysFrom (2 ^ 60) 8192) ∧
    wit.saves (fR 0 1 0) (keysFrom (2 ^ 60) 65536 ++ keysFrom (2 ^ 60 + 65536) 18432) ∧
    (witNoted.waitsX [1] = false ∧ witNoted.st.fab.run = none ∧ witNoted.st.vec.pass = none ∧ witNoted.st.vec.squashed = false ∧
      (force witNoted).st.vec.pass.isSome = true) ∧
    witFramed.toRestore.frameFits (BitVec.ofNat 64 (leNat (((keysFrom (2 ^ 60) 8192).take 8).map (witFramed.toRestore.byteFor 1)))) = true ∧
    witFramed.toRestore.frameFind (keysFrom (2 ^ 60) 8192) = some witFrame := by
  refine ⟨by decide, by decide, by decide, by decide, by and_intros <;> decide +kernel, ⟨by decide, by decide, by decide, by decide, .inl rfl, by decide, by decide,
    frameAt_scratch _ _ (by decide) (by decide) rfl (by decide) rfl⟩, ?_, by and_intros <;> decide +kernel, by decide +kernel, ?_⟩
  · refine ⟨by decide, by decide, by decide, by decide, .inr rfl, ?_, by decide, ?_⟩ <;> rw [wit_toSave]
    · decide
    · exact wit_frameAt
  have hs : witFramed.frameSame (keysFrom (2 ^ 60) 8192) witFrame 0 8192 = true := by
    unfold State.frameSame
    rw [List.all_eq_true]
    intro i hi
    rw [Nat.zero_add, byteFor_seen _ _ _ rfl, witFramed_get i (List.mem_range.mp hi)]
    exact beq_self_eq_true _
  rw [witFramed_toRestore]
  show List.find? _ [witFrame] = _
  rw [List.find?_cons, hs]
  rfl

theorem wit_frameAt_off : witOff.frameAt (witOff.x 1).toNat 8192 .write = .val (keysFrom (2 ^ 60) 8192) witOff :=
  frameAt_scratch _ _ (by decide) (by decide) rfl (by decide) rfl

theorem witOff_saves : witOff.saves (fR 0 1 0) (keysFrom (2 ^ 60) 8192) :=
  ⟨by decide, by decide, by decide, by decide, .inl rfl, by decide, by decide, wit_frameAt_off⟩

/-- The strand that resumes: its memory and its saved frames are those of another state. -/
def resuming (t : State) : State :=
  { witOff with mem := t.mem, frames := t.frames, st := { witOff.st with vec := { witOff.st.vec with squashed := true } } }

theorem resuming_restores (t : State) :
    (resuming t).restores (fR 0 1 0) 8192 ((keysFrom (2 ^ 60) 8192).take 8192) (keysFrom (2 ^ 60) 8192) := by
  have hk : (keysFrom (2 ^ 60) 8192).take 8192 = keysFrom (2 ^ 60) 8192 := List.take_of_length_le (by simp [keysFrom])
  have hx : ((resuming t).x 1).toNat = (witOff.x 1).toNat := rfl
  have hl : (resuming t).locate (resuming t).st 0xFFFFFF0000000000 (resuming t).sup .read = .at (2 ^ 60) := by
    simp [State.locate, State.aperture, State.routed, State.reaches, canonical, scratchKey, resuming, witOff, wit, State.reset, Strand.reset]
  have h : (resuming t).frameAt ((resuming t).x 1).toNat 8192 .read = .val (keysFrom (2 ^ 60) 8192) (resuming t) :=
    frameAt_scratch (resuming t) .read (hx.trans (by decide)) rfl rfl hl rfl
  rw [hk]
  exact ⟨rfl, rfl, rfl, .inl rfl, by show vmtLegal witOff.st.csr.vmt = true; decide, by show ((resuming t).x 1).toNat % 4096 = 0; rw [hx]; decide, rfl, rfl, h, h⟩

/-- A frame saved with vs off is there to be restored by a strand with its loop stack empty (R177 to R179). -/
theorem witness_FramesSaveAndRestore_round : witOff.saves (fR 0 1 0) (keysFrom (2 ^ 60) 8192) ∧ witOff.good = true ∧
    witOff.poison = [] ∧ witOff.st.br.g < 8 ∧ witOff.st.lanes < 256 ∧ (keysFrom (2 ^ 60) 8192).length = witOff.saveSize ∧
    ∃ t, exec (.vsavef (fR 0 1 0)) witOff = .next t ∧
      (resuming t).restores (fR 0 1 0) witOff.saveSize ((keysFrom (2 ^ 60) 8192).take 8192) (keysFrom (2 ^ 60) 8192) := by
  refine ⟨witOff_saves, by decide, rfl, by decide, by decide, by simp [keysFrom, State.saveSize, witOff], ?_⟩
  have he : ∃ t, exec (.vsavef (fR 0 1 0)) witOff = .next t := by
    have h1 : witOff.waitsX [1#5] = false := by decide
    have h2 : witOff.st.fab.run = none := rfl
    have h3 : vmtLegal witOff.st.csr.vmt = true := by decide
    have h4 : (witOff.x 1#5).toNat % 4096 = 0 := by decide
    have h5 : witOff.st.sstat.vs = 0#2 := rfl
    have h6 : witOff.openNow 1 = true := by decide
    have h7 : witOff.frameAt (witOff.x 1#5).toNat 8192 .write = .val (keysFrom (2 ^ 60) 8192) witOff := wit_frameAt_off
    have h8 : witOff.trip? 7 11 = none := by decide
    have hs : ∃ u, witOff.saveFrame (witOff.x 1#5).toNat (keysFrom (2 ^ 60) 8192) (witOff.frameWord0 false false) none = .val () u :=
      ⟨_, by rw [State.saveFrame, State.sends, h8]⟩
    obtain ⟨u, hu⟩ := hs
    have hx : execVsavef (fR 0 1 0) witOff = retire u := by
      simp [execVsavef, fR, h1, h2, h3, h4, h5, h6, afterRun, afterFence, Got.andThen]
      rw [h7]
      simp only
      rw [hu]
    exact ⟨_, hx⟩
  obtain ⟨t, ht⟩ := he
  exact ⟨t, ht, resuming_restores t⟩

theorem witness_ScalarResultsComplete : ∃ v, scalarX (.opImm .addi 3 1 5) wit = some (3, v) ∧
    wit.waitsX (scalarRegs (.opImm .addi 3 1 5)) = false := ⟨_, rfl, by decide⟩

/-- ADDI x0 leaves x0 zero and moves the pc (R36, R109). -/
theorem test_addi_x0 : (match exec (.scalarInstruction (.opImm .addi 0 1 5)) wit with
    | .next t => t.x 0 == 0 && t.st.pc == 0x1004 | _ => false) = true := by decide

/-- 1.0 + 2.0 = 3.0 in binary32, boxed (R109: F). -/
def witFp : State := { wit with st := { wit.st with f := (wit.st.f.set 1 0xFFFFFFFF3F800000).set 2 0xFFFFFFFF40000000 } }

theorem test_fadd_s : (match exec (.scalarInstruction (.farith .fadd false 0 3 1 2)) witFp with
    | .next t => t.f 3 == 0xFFFFFFFF40400000 && t.st.fflags == 0 | _ => false) = true := by decide +kernel

theorem witness_ScalarFloatsComplete :
    (∃ p, (scalarRm (.farith .fadd false 0 3 1 2)).all (fun m => witFp.rmOf m == some 0) = true ∧
      scalarF (.farith .fadd false 0 3 1 2) witFp 0 = some (3, false, p)) ∧
    (∃ v fl, (scalarRm (.fcvtToInt .l false 7 3 1)).all (fun m => witFp.rmOf m == some 0) = true ∧
      scalarXFlags (.fcvtToInt .l false 7 3 1) witFp 0 = some (3, v, fl)) ∧
    witFp.waitsX (scalarRegs (.fcvtToInt .l false 7 3 1)) = false ∧
    scalarRm (.fsqrt false 5 3 1) = some 5 ∧ witFp.rmOf 5 = none :=
  ⟨⟨_, by decide, rfl⟩, ⟨_, _, by decide, rfl⟩, by decide, rfl, by decide⟩

theorem witness_ScalarLoadsComplete : wit.waitsX [3, 1] = false ∧
    wit.poisonVa (wit.x 1 + (1 : BitVec 12).signExtend 64).toNat (keysFrom (2 ^ 60 + 1) 8) = none ∧
    wit.reachesKeys (wit.x 1 + (1 : BitVec 12).signExtend 64).toNat (ldShape .d).1 1 .read (keysFrom (2 ^ 60 + 1) 8) ∧
    wit.reachesKeys (wit.x 1 + (0 : BitVec 12).signExtend 64).toNat 4 1 .read (keysFrom (2 ^ 60) 4) := by
  unfold State.reachesKeys; decide

/-- LB sign-extends and LBU does not (R109). -/
def witMem : State := { wit with mem := [(2 ^ 60, 0x80), (2 ^ 60 + 9, 0x7F)] }

theorem test_lb_lbu : (match exec (.scalarInstruction (.load .b 3 1 0)) witMem, exec (.scalarInstruction (.load .bu 3 1 0)) witMem with
    | .next t, .next u => t.x 3 == 0xFFFFFFFFFFFFFF80 && u.x 3 == 0x80 | _, _ => false) = true := by decide

theorem witness_ScalarStoresComplete : wit.waitsX [1, 2] = false ∧ wit.mem.wf = true ∧ wit.poison = [] ∧
    wit.storesWhole (wit.x 1 + (3 : BitVec 12).signExtend 64).toNat (stSize .d) (keysFrom (2 ^ 60 + 3) 8) ∧
    wit.storesWhole (wit.x 1 + (0 : BitVec 12).signExtend 64).toNat 4 (keysFrom (2 ^ 60) 4) ∧
    (keysFrom (2 ^ 60 + 3) 8).Nodup ∧ (keysFrom (2 ^ 60 + 3) 8).length = stSize .d := by
  unfold State.storesWhole State.reachesKeys; decide

/-- SH of x1 = 0xFFFFFF0000000000 to an odd address stores its two low bytes, which are zero, and no more (R325, R3). -/
theorem test_sh_odd : (match exec (.scalarInstruction (.store .h 1 1 9)) witMem with
    | .next t => t.mem == [(2 ^ 60, 0x80)] | _ => false) = true := by decide

def witResv : State := { wit with st := { wit.st with resv := some (2 ^ 60 / 64, false) } }

theorem witness_AtomicsComplete : wit.waitsX [3, 1, 2] = false ∧ (wit.x 1).toNat % 8 = 0 ∧ wit.poison = [] ∧ wit.mem.wf = true ∧
    (keysFrom (2 ^ 60) 8).Nodup ∧ (keysFrom (2 ^ 60) 8).length = 8 ∧ (witOdd.x 1).toNat % 4 ≠ 0 ∧
    wit.passMayWrite (keysFrom (2 ^ 60) 8) = false ∧
    wit.reachesKeys (wit.x 1).toNat 8 1 .read (keysFrom (2 ^ 60) 8) ∧ wit.reachesKeys (wit.x 1).toNat 8 1 .atomic (keysFrom (2 ^ 60) 8) ∧
    witResv.reachesKeys (witResv.x 1).toNat 8 1 .write (keysFrom (2 ^ 60) 8) ∧
    witResv.st.resv = some ((keysFrom (2 ^ 60) 8).headD 0 / 64, false) ∧ wit.st.resv = none := by
  unfold State.reachesKeys; decide

/-- AMOMAX.W of −128 and 1 keeps 1 and returns −128 (R109: A). -/
theorem test_amomax_w : (match exec (.scalarInstruction (.amo .max false false false 3 1 2))
      { wit with mem := [(2 ^ 60, 0x80), (2 ^ 60 + 1, 0xFF), (2 ^ 60 + 2, 0xFF), (2 ^ 60 + 3, 0xFF)],
                 st := { wit.st with x := wit.st.x.set 2 1 } } with
    | .next t => t.x 3 == 0xFFFFFFFFFFFFFF80 && t.mem == [(2 ^ 60, 1)] | _ => false) = true := by decide

theorem witness_JumpsTransfer : wit.waitsX (scalarRegs (.jal 3 4)) = false ∧ scalarJump (.jal 3 4) wit = some (0x1008, some 3) ∧
    (0x1008 : Word).toNat % 4 = 0 ∧ scalarJump (.jal 3 1) wit = some (0x1002, some 3) ∧ (0x1002 : Word).toNat % 4 ≠ 0 ∧
    brTaken .ne (wit.x 2) (wit.x 3) = false ∧ scalarJump (.branch .eq 2 3 0xFFE) wit = some (0xFFC, none) := by decide

/-- A loop level whose body is the word at the pc, on its first of two iterations and on its last. -/
def lvl (index : Nat) : LoopLvl := { count := 2, index := index, start := 0x1000, stop := 0x1000 }
def witLoops (ls : List LoopLvl) : State := { wit with st := { wit.st with loops := ls } }

theorem witness_BackEdges : (lvl 0).stop = 0x1000 ∧ (lvl 0).index + 1 < (lvl 0).count ∧ (lvl 1).count ≤ (lvl 1).index + 1 ∧
    (lvl 0).stop ≠ 0x1004 := by decide

/-- The last iteration of two levels that end at one word leaves both (R278). -/
theorem test_loopEnd_nested : loopEnd 0x1000 [lvl 1, lvl 1] = ([], 0x1004, true) ∧
    loopEnd 0x1000 [lvl 1, lvl 0] = ([lvl 1], 0x1000, true) := by decide

theorem witness_LoopInstructions : wit.waitsX [1] = false ∧
    (loopBeyond (0x1000 + 8) (witLoops [lvl 0]).st.loops = true) ∧
    (loopBeyond 0x1000 (witLoops (List.replicate 6 (lvl 0))).st.loops = false ∧ 6 ≤ (witLoops (List.replicate 6 (lvl 0))).st.loops.length) ∧
    (loopBeyond (0x1000 + 8) wit.st.loops = false ∧ wit.st.loops.length < 6 ∧ wit.x 1 ≠ 0 ∧ wit.x 2 = 0) ∧
    wit.st.loops = [] ∧ (witLoops [lvl 0]).st.loops = lvl 0 :: [] := by decide

/-- LIDX of an empty level gives −1 (R280). -/
theorem test_lidx_empty : (match exec (.lidx (fR 3 1 0)) (witLoops [lvl 1]), exec (.lidx (fR 3 0 0)) (witLoops [lvl 1]) with
    | .next t, .next u => t.x 3 == 0xFFFFFFFFFFFFFFFF && u.x 3 == 1 | _, _ => false) = true := by decide

theorem witness_TrapEntrySaves : wit.sup = false ∧ wit.st.csr.stvec ≠ 0 ∧ witSup.sup = true := by decide

/-- ECALL goes to stvec with cause 0xE0; in supervisor mode it stops the strand (R285, R51). -/
theorem test_ecall : (match exec .ecall wit, exec .ecall witSup with
    | .next t, .next u => t.st.pc == 0x2000 && t.st.csr.scause == 0xE0 && t.st.csr.sepc == 0x1000 && t.sup && u.st.run == .stopped
    | _, _ => false) = true := by decide +kernel

theorem witness_CallsAndIllegalWords : wit.sup = false ∧ wit.st.csr.stvec ≠ 0 := by decide

/-- Supervisor mode with kp set; with sepc off by two; and with sepc aligned. -/
def witKp : State := { witSup with st := { witSup.st with csr := { witSup.st.csr with scause := 0x200 } } }
def witSepc : State := { witSup with st := { witSup.st with csr := { witSup.st.csr with sepc := 0x1002 } } }

theorem witness_TretReturns : wit.sup = false ∧ (witKp.sup = true ∧ witKp.st.csr.scause.getLsbD 9 = true) ∧
    (witSepc.sup = true ∧ witSepc.st.csr.scause.getLsbD 9 = false ∧ witSepc.st.csr.sepc.toNat % 4 ≠ 0) ∧
    (witSup.sup = true ∧ witSup.st.csr.scause.getLsbD 9 = false ∧ witSup.st.csr.sepc.toNat % 4 = 0) := by decide

theorem witness_HarnessQuery : witSup.sup = true ∧ witSup.waitsX [2] = false ∧ (fR 2 7 0).rs1.toNat < 8 ∧ (fR 2 7 0).rd ≠ 0 ∧
    witSup.st.br.halves[7] = 0xFFFF ∧
    ({ witSup.st.br with halves := witSup.st.br.halves.set 0 5 } : BindRec).halves[0] ≠ 0xFFFF := by decide

theorem witness_PrivilegedInTaskMode : wit.sup = false ∧ 0x5C0 ≤ (0x5C0 : BitVec 12).toNat ∧ (0x5C9 : BitVec 12).toNat ≤ 0x5C9 ∧
    wit.waitsX [1, 2] = false := by decide

/-- A Zicsr instruction's fields. -/
def fC (op : CsrOp) (csr : BitVec 12) : CsrF := { op := op, uimm := false, csr := csr, src := 1, rd := 3 }

theorem witness_CsrWritesComplete : wit.waitsX [1, 3] = false ∧ (csrSup (0x001 : BitVec 12) = true → wit.sup = true) ∧
    wit.csrFirst 0x001 = none ∧ (csrSup (0x5C9 : BitVec 12) = true → witSup.sup = true) ∧ witSup.csrFirst 0x5C9 = none ∧
    wit.csrFirst 0x810 = none ∧ wit.csrFirst 0x817 = none ∧ wit.csrWaits 0x001 = false ∧ witSup.csrWaits 0x5C9 = false ∧
    wit.csrWaits 0x810 = false ∧ wit.st.vec.pass = none ∧ wit.st.mat.queue.any MatOp.isMsamp = false := by
  decide

/-- vslip takes 31 as 16 and 0 as 1 (R46). -/
theorem test_vslip_clamp : (match exec (.vslipWrite { op := .rw, uimm := true, csr := 0x802, src := 31, rd := 0 }) wit,
      exec (.vslipWrite { op := .rw, uimm := true, csr := 0x802, src := 0, rd := 0 }) wit with
    | .next t, .next u => t.st.csr.vslip == 16 && u.st.csr.vslip == 1 | _, _ => false) = true := by decide

/-- Tile 0 of 4 rows of 8 bytes as i8 (fmt 1), tile 1 illegal; vtype i8, vl 8. -/
def witTile : State :=
  let s := witVec 1 8
  { s with st := { s.st with mat := { s.st.mat with tcfg := s.st.mat.tcfg.set 0 (1 + 4 * 2 ^ 4 + 8 * 2 ^ 12) } } }

/-- Tile 0 of one PB row of 16 (fmt 9). -/
def witTilePb : State :=
  let s := witVec 6 16
  { s with st := { s.st with mat := { s.st.mat with tcfg := s.st.mat.tcfg.set 0 (9 + 1 * 2 ^ 4 + 16 * 2 ^ 12) } } }

theorem witness_TileMovesComplete :
    tileMoveOf (.vtroww (fR 0 3 2)) = some (0, false, true, 2, 3) ∧ tileMoveOf (.vtcolr (fR 3 0 2)) = some (0, true, false, 2, 3) ∧
    witTile.vecReady [2] ∧ hoopFirst witTile (.vtroww (fR 0 3 2)) = none ∧ witTile.moveOk 0 false true (witTile.x 2) = true ∧
    witTile.forceFree ∧ vtSm witTile.st.vec.vtype = false ∧ witTile.st.mat.queue = [] ∧ (force witTile).openNow 4 = true ∧
    witTile.st.mat.poison = [] ∧ witTile.st.firstLost (wordsOf [3] witTile.vlWords) = none ∧
    (∃ w, ({ witTile with st := { witTile.st with vec := { witTile.st.vec with bad := (witLost 3).st.vec.bad } } } : State).st.firstLost
      (wordsOf [3] witTile.vlWords) = some w) ∧ witTile.st.mat.bytes.wf = true ∧
    witTile.ew * witTile.st.vec.vl ≤ 65536 ∧ mfIsPb (witTile.shape 0).fmt = false ∧
    witTilePb.moveOk 0 false true (witTilePb.x 2) = true ∧ mfIsPb (witTilePb.shape 0).fmt = true := by
  unfold State.vecReady State.forceFree; and_intros <;> first | decide +kernel | exact ⟨(3, 0), by decide +kernel⟩

/-- Row 3 of the tile lies at 3 × 64 (R183, R185). -/
theorem test_vtroww : (match exec (.vtroww (fR 0 3 2)) { (witTile.setV 3 0x0807060504030201) with
      st := { (witTile.setV 3 0x0807060504030201).st with x := witTile.st.x.set 2 3 } } with
    | .next t => t.st.mat.bytes.get 192 == 1 && t.st.mat.bytes.get 199 == 8 && t.st.mat.bytes.length == 8 | _ => false) = true := by
  decide +kernel

/-- Tile state off; and vector state off as well. -/
def witTsOff : State := { wit with st := { wit.st with sstat := { wit.st.sstat with ts := 0 } } }

theorem witness_MatrixInstructionsIssue :
    (matArgs (.tzero (fR 1 0 0)) wit = some ([], 0, 0, true) ∧ wit.waitsX [] = false ∧ hoopFirst wit (.tzero (fR 1 0 0)) = none) ∧
    (matArgs (.mscale (fR 1 1 0)) wit = some ([1], wit.x 1, 0, true) ∧ wit.waitsX [1] = false) ∧
    ((∃ b, matArgs (.hmov (fR 1 0 0)) witOff = some ([], 0, 0, b)) ∧ witOff.waitsX [] = false ∧ witOff.st.sstat.vs = 0) ∧
    (witTsOff.st.sstat.ts = 0 ∧ witTsOff.st.sstat.vs ≠ 0) ∧ wit.st.sstat.ts ≠ 0 :=
  ⟨by decide, by decide, ⟨⟨_, rfl⟩, by decide, by decide⟩, by decide, by decide⟩

/-- A descriptor of fp32 operands, m = n = 1, in the scratchpad, and tk = 1. -/
def witSamp : State :=
  { wit with
    mem := [(2 ^ 60 + 24, 0x01), (2 ^ 60 + 25, 0x01), (2 ^ 60 + 26, 0xEE)]
    st := { wit.st with mat := { wit.st.mat with bytes := [(0x100008, 1)] } } }

theorem witness_SamplingIssues : witSamp.waitsX [2, 1, 3] = false ∧ witSamp.st.sstat.ts ≠ 0 ∧ witSamp.st.mat.queue = [] ∧
    fieldOf (witSamp.x 2) 32 32 = 0 ∧ fieldOf (witSamp.x 1) 2 3 = 0 ∧ witSamp.st.mat.tk ≠ 0 ∧ witSamp.openNow 4 = true ∧
    (let a := (witSamp.x 1).toNat / 32 * 32
     let ks := keysFrom (2 ^ 60) 32
     witSamp.reachesKeys a 32 9 .read ks ∧ witSamp.poisonVa a ks = none ∧
       (descOf (ks.map (witSamp.readByte 9))).legal witSamp.st.br.g = true ∧ (descOf (ks.map (witSamp.readByte 9))).misplacedAt = none) := by
  unfold State.reachesKeys; decide

/-- A queue with one instruction at its head. -/
def witQueue (i : Instr) (after : Option Nat) : State :=
  { wit with st := { wit.st with mat := { wit.st.mat with queue := [{ wit.matOp i 0 0 with after := after }] } } }

/-- HACC 0 at the head, with nothing in its way. -/
theorem witness_MatrixQueueRuns_leaves : ∃ o m, (witQueue (.hacc (fR 1 0 0)) none).st.mat.queue = o :: [] ∧
    wit.st.mat.poison = [] ∧ wit.st.eng.unseen = [] ∧ o.flips = [] ∧ o.after = none ∧
    (witQueue (.hacc (fR 1 0 0)) none).st.matOpen o = true ∧ wit.st.mat.bytes.wf = true ∧ wit.st.br.g ≤ 4 ∧ o.reads = false ∧
    (∀ f, o.i ≠ .matab f) ∧ (witQueue (.hacc (fR 1 0 0)) none).matTurn = (.done m, 0) :=
  ⟨_, _, rfl, rfl, rfl, rfl, rfl, by decide, by decide, by decide, rfl, fun f => nofun, rfl⟩

/-- HMULP of one activation from an address outside memory, against a buffer of one weight. -/
def witBadRead : State :=
  let s := witQueue (.hmulp (fR 0 1 2)) none
  { s with st := { s.st with mat := { s.st.mat with
      latch0 := { fmt := 1, kind := 0, t := false, n := 1, w := [(0, 0, 1)], foreign := none, loaded := [] }
      queue := s.st.mat.queue.map (fun o => { o with x1 := 0x0080000000000000, x2 := 1 + 1 * 2 ^ 4 + 1 * 2 ^ 12 }) } } }

theorem witness_MatrixQueueRuns :
    (∃ m c, (witQueue (.hswap (fR 0 0 0)) none).matTurn = (.done m, c)) ∧
    (∃ m c, (witQueue (.msamp (fR 3 1 2)) none).matTurn = (.done m, c)) ∧
    (∃ m c, (witQueue (.tzero (fR 0 0 0)) (some 7)).matTurn = (.done m, c)) ∧
    (∃ m c k va e, witBadRead.matTurn = (.fault m k va e, c)) :=
  ⟨⟨_, _, rfl⟩, ⟨_, _, rfl⟩, ⟨_, _, rfl⟩, ⟨_, _, _, _, _, rfl⟩⟩

/-- The head of the queue is performed. -/
def doneNow (s : State) : Bool := match s.matTurn with | (.done _, _) => true | _ => false

theorem done_of {s : State} (h : doneNow s = true) : ∃ m c, s.matTurn = (.done m, c) := by
  unfold doneNow at h
  split at h
  · exact ⟨_, _, by assumption⟩
  · cases h

/-- Tile 0 of 4 rows of 8 i8, tile 1 of its metadata, a buffer of one i8 weight, and one instruction with its operands. -/
def witOp (i : Instr) (x1 x2 : Word) : State :=
  let s := witQueue i none
  let tc := (wit.st.mat.tcfg.set 0 (1 + 4 * 2 ^ 4 + 8 * 2 ^ 12)).set 1 (2 + 2 * 2 ^ 4 + 8 * 2 ^ 12)
  { s with st := { s.st with mat := { s.st.mat with
      tcfg := tc
      latch0 := { fmt := 1, kind := 0, t := false, n := 1, w := [(0, 0, 1)], foreign := none, loaded := [] }
      queue := s.st.mat.queue.map (fun o => { o with x1 := x1, x2 := x2, tcfg := tc }) } } }

/-- Each head that leaves a result: two loads of latches, three products, MATAB of one entry, MSAMP of none and of one sample. -/
def witOps : List State :=
  [witOp (.hload (fR 0 0 0)) 0 0, witOp (.hloads (fR 0 0 0)) 0 0, witOp (.hmul (fR 0 0 0)) 0 0,
   witOp (.hmulp (fR 0 1 2)) 0xFFFFFF0000000000 (1 + 1 * 2 ^ 4 + 1 * 2 ^ 12), witOp (.hmulf (fR 0 0 0)) 0 0,
   let s := witOp (.matab (fR 0 0 0)) 0 0
   { s with st := { s.st with mat := { s.st.mat with bytes := [(0x100000, 1)] } } },
   witOp (.msamp (fR 3 1 2)) 0 0]

theorem witness_MatrixQueueRuns_heads : ∀ s ∈ witOps, s.st.mat.poison = [] ∧ s.st.eng.unseen = [] ∧ s.st.mat.bytes.wf = true ∧
    s.st.br.g ≤ 4 ∧ (∃ o, s.st.mat.queue = o :: [] ∧ o.flips = [] ∧ o.after = none ∧ s.st.matOpen o = true) ∧
    ∃ m c, s.matTurn = (.done m, c) := by
  intro s h
  have d : doneNow s = true := (by decide +kernel : ∀ s ∈ witOps, doneNow s = true) s h
  refine ⟨?_, ?_, ?_, ?_, ?_, done_of d⟩
  · exact (by decide +kernel : ∀ s ∈ witOps, s.st.mat.poison = []) s h
  · exact (by decide +kernel : ∀ s ∈ witOps, s.st.eng.unseen = []) s h
  · exact (by decide +kernel : ∀ s ∈ witOps, s.st.mat.bytes.wf = true) s h
  · exact (by decide +kernel : ∀ s ∈ witOps, s.st.br.g ≤ 4) s h
  · have k : (match s.st.mat.queue with | [o] => o.flips.isEmpty && o.after.isNone && s.st.matOpen o | _ => false) = true :=
      (by decide +kernel : ∀ s ∈ witOps, (match s.st.mat.queue with | [o] => o.flips.isEmpty && o.after.isNone && s.st.matOpen o | _ => false) = true) s h
    split at k
    · rename_i o e
      simp only [Bool.and_eq_true, List.isEmpty_iff, Option.isNone_iff_eq_none] at k
      exact ⟨o, e, k.1.1, k.1.2, k.2⟩
    · cases k

theorem witness_TileZeroAndSwap : ∃ o o', (witQueue (.tzero (fR 7 0 0)) none).st.mat.queue = o :: [] ∧ o.after = none ∧ o.flips = [] ∧ o'.flips = [] ∧
    (witQueue (.tzero (fR 7 0 0)) none).st.matOpen o = true ∧ wit.st.mat.bytes.wf = true ∧ o.i = .tzero (fR 7 0 0) ∧
    (witQueue (.hswap (fR 0 0 0)) none).st.mat.queue = o' :: [] ∧ o'.after = none ∧
    (witQueue (.hswap (fR 0 0 0)) none).st.matOpen o' = true ∧ o'.i = .hswap (fR 0 0 0) :=
  ⟨_, _, rfl, rfl, rfl, rfl, by decide, by decide, rfl, rfl, rfl, by decide, rfl⟩

/-- A command in x4 to x7: one row of 8 bytes within the scratchpad on tag 5; a follow-on word in x8 (TZERO of tile 1). -/
def witCopy : State :=
  { wit with
    mem := [(2 ^ 60, 0xAB)]
    st := { wit.st with x := (((wit.st.x.set 4 0xFFFFFF0000000000).set 5 0xFFFFFF0000000040).set 6
      (BitVec.ofNat 64 (5 * 2 ^ 54 + 1 * 2 ^ 38 + 8))).set 8 (((encode (.tzero (fR 1 0 0))).getD 0).zeroExtend 64) } }

theorem witness_CopiesIssue :
    (∃ c, copyOf (.cpy (fR 0 4 0)) witCopy = some (quad 4, c, none, true) ∧ witCopy.waitsX (quad 4) = false ∧
      witCopy.st.eng.tagBusy c.tag = false ∧ c.isEmpty = false ∧ c.tag = 5) ∧
    (∃ xs c, copyOf (.cpyf (fR 0 4 8)) witCopy = some (xs, c, none, true) ∧ followOn (witCopy.x 8) = some (.tzero (fR 1 0 0))) :=
  ⟨⟨_, rfl, by decide⟩, ⟨_, _, rfl, by decide⟩⟩

/-- CPY issues and its copy ends: the destination holds the byte, the tag is set (R254, R256). -/
theorem test_cpy : (match exec (.cpy (fR 0 4 0)) witCopy with
    | .next t => (match exec (.copyComplete 0) t with
      | .next u => u.mem.get (2 ^ 60 + 64) == 0xAB && u.st.eng.tagset == 32 && u.st.eng.copies.isEmpty | _ => false)
    | _ => false) = true := by decide

/-- Command 0 of a batch: one row of 8 bytes on tag 3, selected by k0. -/
def witBatch : State :=
  let s := witVec 4 4
  s.setVec { s.st.vec with
    v := s.st.vec.v.set 1 (BitVec.ofNat 65536 (0xFFFFFF0000000000 + 2 ^ 64 * 0xFFFFFF0000000040 + 2 ^ 128 * (3 * 2 ^ 54 + 1 * 2 ^ 38 + 8)))
    k := s.st.vec.k.set 0 1 }

theorem witness_CopyBatchIssues : witBatch.vecReady [] ∧ vtVill witBatch.st.vec.vtype = false ∧
    vtEt witBatch.st.vec.vtype = 4 ∧ witBatch.st.vec.vl % 4 = 0 ∧ witBatch.forceFree ∧
    vtSm witBatch.st.vec.vtype = false ∧ witBatch.st.firstLost (wordsOf [1] witBatch.st.vec.vl) = none ∧ witBatch.st.vec.vl ≤ 8192 ∧
    witBatch.batchIssued (fR 2 1 0) 1 = [0] ∧ (batchCmd (witBatch.v 1) 0).isEmpty = false ∧ (batchCmd (witBatch.v 1) 0).tag = 3 ∧
    (witVec 4 4).batchIssued (fR 2 1 0) 1 = [] ∧
    (witLost 1).st.firstLost (wordsOf [1] (witLost 1).st.vec.vl) = some (1, 0) ∧ (witLost 1).vecReady [] ∧ (witLost 1).forceFree ∧
    (witVec 4 0).st.vec.vl = 0 ∧ (witVec 4 3).st.vec.vl % 4 ≠ 0 := by
  unfold State.vecReady State.forceFree; and_intros <;> decide +kernel

/-- CPYB issues command 0 on tag 3 and says so in k2, bits 0 to 3 (R259). -/
theorem test_cpyb : (match exec (.cpyb (fR 2 1 0)) witBatch with
    | .next t => t.st.vec.k[2] == 15 && (t.st.eng.copies.map (fun c => c.cmd.tag)) == [3] && t.st.pc == 0x1004 | _ => false) = true := by
  decide +kernel

/-- A copy in flight; one whose destination lies outside the scratchpad; and a multicast with such a replica. -/
def flying (da : Word) (reps : Option (List Nat)) : Copy :=
  { serial := 0, cmd := { cmdOf 0xFFFFFF0000000000 da (BitVec.ofNat 64 (5 * 2 ^ 54 + 1 * 2 ^ 38 + 8)) 0 with tag := 5 }, reps := reps,
    pc := 0, err := false, sup := false, done := [], errs := [], late := [] }
def witFlying (c : Copy) : State := { witCopy with st := { witCopy.st with eng := { witCopy.st.eng with copies := [c] } } }
def okCopy : Copy := flying 0xFFFFFF0000000040 none
def badCopy : Copy := flying 0xFFFFFF0000060000 none
def castCopy : Copy := flying 0xFFFFFF4000000000 (some [1])

theorem witness_CopiesEnd :
    ((witFlying okCopy).copy? 0 = some okCopy ∧ (witFlying okCopy).copyFree okCopy = true ∧ okCopy.cmd.tag < 64 ∧
      (witFlying okCopy).failedReplica okCopy = none ∧ (witFlying okCopy).copyTurn okCopy = .ends ∧
      okCopy.reps = none ∧ okCopy.done = [] ∧ okCopy.cmd.ssp = false ∧ okCopy.cmd.dsp = false ∧ (witFlying okCopy).poison = [] ∧
      (witFlying okCopy).mem.wf = true ∧ ((witFlying okCopy).dstSide okCopy okCopy.cmd.da).keys.Nodup) ∧
    (∃ e u k va, (witFlying badCopy).recCount (witFlying badCopy).st.fe < 64 ∧ (witFlying badCopy).failedReplica badCopy = none ∧
      (witFlying badCopy).copyTurn badCopy = .stops e u k va) ∧
    (∃ e k va, castCopy.reps = some [1] ∧
      (witFlying castCopy).copyTurnTo castCopy 1 = .stops e 12 k va) := by
  refine ⟨⟨by decide, by decide, by decide, rfl, rfl, rfl, rfl, rfl, rfl, rfl, by decide, by decide⟩, ⟨_, _, _, _, by decide, rfl, rfl⟩,
    ⟨_, _, _, rfl, rfl⟩⟩

theorem witness_TagInstructions : wit.waitsX [1] = false ∧ (∀ c ∈ wit.st.eng.copies, (wit.x 1).getLsbD c.cmd.tag = false) ∧
    (∀ c ∈ (witFlying okCopy).st.eng.copies, c.cmd.tag < 64) ∧ wit.st.eng.tagset = 0 ∧
    (((witFlying okCopy).st.eng.copies.find? (fun c => (32 : Word).getLsbD c.cmd.tag)) = some okCopy ∧
      (witFlying okCopy).copyFree okCopy = true) := by decide

/-- WAITC with no limits, and with every field 0. FENCEP from V to S, and from V to C behind a pricking. -/
theorem witness_WaitsAndFencesComplete :
    (let f : IF := { imm := 0xFFF, rs1 := 0, rd := 0 }
     f.imm.toNat / 2 ^ 9 % 8 = 7 ∧ f.imm.toNat / 2 ^ 6 % 8 = 7 ∧ f.imm.toNat / 2 ^ 3 % 8 = 7 ∧ f.imm.toNat % 8 = 7) ∧
    (force wit).ldCount ≤ 0 ∧ (force wit).stCount ≤ 0 ∧ (force wit).st.eng.copies.length ≤ 0 ∧ (force wit).st.mat.queue.length ≤ 0 ∧
    wit.sup = false ∧ (force wit).st.outstanding 1 0 (force wit).st.eng.serial = false ∧
    (witFlying okCopy).st.outstanding 3 4 1 = true ∧ (force wit).idle := by
  unfold State.idle; and_intros <;> decide +kernel

/-- A context whose object 63 may be written. -/
def witCtx : Context :=
  { handle := 0, asid := 0, root := 0, tvec := 0, pool := Vector.replicate 8 0, keep := false, dying := false, queues := [],
    wm := Vector.replicate 64 0, wmDone := [], done := [] }
def witObj : State :=
  { wit with fw := { wit.fw with contexts := [witCtx] }, st := { wit.st with x := (wit.st.x.set 2 63).set 3 64 } }

theorem witness_WatermarkInstructions : witObj.ctxOf? witObj.st = some witCtx ∧ witObj.waitsX [2, 4] = false ∧ (witObj.x 2).toNat < 64 ∧
    fieldOf (witObj.x 4) 41 22 = 0 ∧ 64 ≤ (witObj.x 3).toNat ∧ witObj.vecReady [1] ∧ fieldOf (witObj.x 1) 47 17 ≠ 0 ∧
    fieldOf (witObj.x 2) 47 17 = 0 ∧ witObj.waitsX [2, 1] = false ∧ fieldOf (witObj.x 1) 41 22 ≠ 0 := by
  unfold State.vecReady; decide

theorem test_wmset : (match exec (.wmset (fR 0 2 3)) witObj with
    | .next t => t.object 63 == 64 && t.object 62 == 0 | _ => false) = true := by decide

/-- A crew of two strands; this one, of index 0, has arrived and waits, and the other has not. -/
def witPkt : Launch :=
  { entry := 0x1000, crew := 2, hold := false, lc := false, prot := false, g := 1, n := 2, ctx := 0, cq := 0, pre0 := 0, task := 0,
    thr := 0, wen := false, wobj := 0, pre1 := 0, args := Vector.replicate 10 0 }
def witCrew : Crew :=
  { cnum := 0, pkt := witPkt, queue := 0, pri := 0, leaders := [0, 1], placed := [0, 1], lanes := [32, 32], ended := [], yielded := [], saved := [],
    arrived := [(0, 1)], copyErr := none, pubs := [], at_ := 0, pp := false, away := [], kill := none }
def witArrived (crews : List Crew) : State :=
  { wit with
    fw := { wit.fw with crews := crews }
    st := { wit.st with eng := { wit.st.eng with arrival := some { phase := 1, barc := false, waitPc := some 0x1000 } } } }

/-- An arrival whose request is lost. -/
def lostReq : Trip := { src := 15, kind := 11, elem := 0, again := false }
def witLostReq : State := wit.setEng { wit.st.eng with trips := [lostReq] }

theorem witness_BarriersComplete : wit.st.eng.arrival = none ∧ (force wit).idle ∧ (force wit).trip? 15 11 = none ∧
    (witLostReq.st.eng.arrival = none ∧ (force witLostReq).idle ∧ (force witLostReq).trip? 15 11 = some lostReq ∧ lostReq.kind = 11) ∧
    ((force wit).arrive { phase := wit.nextPhase, barc := true, waitPc := some wit.st.pc }).phaseDone wit.nextPhase = true ∧
    (∃ a, (witArrived []).st.eng.arrival = some a ∧ (witArrived []).phaseDone a.phase = true ∧ (witArrived []).atBarrier = true) ∧
    (∃ a, (witArrived [witCrew]).st.eng.arrival = some a ∧ (witArrived [witCrew]).phaseDone a.phase = false ∧
      (witArrived [witCrew]).atBarrier = true) := by
  refine ⟨rfl, ?_, by decide +kernel, ?_, by decide +kernel, ⟨_, rfl, by decide, by decide⟩, ⟨_, rfl, by decide, by decide⟩⟩ <;>
    unfold State.idle <;> and_intros <;> decide +kernel

/-- BARW of a phase that has not passed waits, and traps after 1 s (R271, R410). -/
theorem test_barw_waits : (match exec (.barw (fR 0 0 0)) (witArrived [witCrew]), exec .barrierTimeout (witArrived [witCrew]) with
    | .next t, .next u => t.st.pc == 0x1000 && u.st.csr.scause == 0x2AF | _, _ => false) = true := by decide +kernel

/-- x2 = 1 asks SIG for kind 1; the page table that maps address 0 reads two lines there. -/
def witSig : State := { wit with st := { wit.st with x := wit.st.x.set 2 1 } }
def witMapped : State := wit.mapped

theorem witness_SignalsAndEnds : (force witSig).idle ∧ witSig.waitsX [2, 3] = false ∧ fieldOf (witSig.x 2) 2 8 = 0 ∧
    fieldOf (witSig.x 2) 18 46 = 0 ∧ fieldOf (witSig.x 2) 0 2 = 1 ∧ witSig.trip? 15 11 = none ∧ witMapped.trip? 15 11 = none ∧ witMapped.eventWaits = false ∧ witSig.recCount witSig.st.fe < 64 ∧
    (witSig.sup = true ∨ (force witSig).st.held = []) ∧ witSup.sup = true ∧ witSup.st.eng.flight = [] ∧ witSup.st.eng.replies = [] ∧
    0 < witSup.st.br.g ∧ fieldOf (witMapped.x 2) 0 2 = 0 ∧ (witMapped.x 2).toNat % 64 = 0 ∧
    (witMapped.x 2).toNat < 0xFFFFFF0000000000 ∧ witMapped.poison = [] ∧ (force witMapped).idle ∧
    (force witMapped).reachesKeys (witMapped.x 2).toNat 128 15 .read (keysFrom 0 128) := by
  unfold State.idle State.reachesKeys; and_intros <;> decide +kernel

/-- A strand of a crew whose other strand is still there, and the last of its crew. -/
def lastCrew : Crew := { witCrew with ended := [1], arrived := [], pubs := [63] }

theorem witness_SignalsAndEnds_crew : (∃ j, j < witCrew.pkt.crew ∧ j ≠ 0 ∧ j ∉ witCrew.ended) ∧
    (witArrived [witCrew]).crewOf? (witArrived [witCrew]).st = some witCrew ∧
    (∀ j, j < lastCrew.pkt.crew → j = (witArrived [lastCrew]).st.br.sidx ∨ j ∈ lastCrew.ended) ∧
    (witArrived [lastCrew]).crewOf? (witArrived [lastCrew]).st = some lastCrew ∧ (force (witArrived [lastCrew])).idle ∧
    (force (witArrived [lastCrew])).st.held = [] ∧ (witArrived [lastCrew]).recCount 0 < 64 := by
  refine ⟨⟨1, by decide⟩, by decide +kernel, ?_, by decide +kernel, ?_, by decide +kernel, by decide +kernel⟩
  · show ∀ j, j < 2 → j = 0 ∨ j ∈ [1]
    decide
  · unfold State.idle; and_intros <;> decide +kernel

/-- TEND of the last strand posts a task record and completes the objects of its publications (R273, R270). -/
theorem test_tend : (match exec (.tend (fR 0 0 0)) { witArrived [lastCrew] with fw := { (witArrived [lastCrew]).fw with contexts := [witCtx] } } with
    | .next t => (t.recq.map (fun r => r.2.isTask)) == [true] && (t.ctx? 0).any (fun c => (c.object 63).getLsbD 63) && t.fw.crews.isEmpty
    | _ => false) = true := by decide +kernel

/-- SIG of kind 1 posts its record (R272). -/
theorem test_sig : (match exec (.sig (fR 0 2 1)) witSig with
    | .next t => t.recq.length == 1 && t.st.pc == 0x1004 | _ => false) = true := by decide +kernel

/-- Identifier word 7 in x3, of MAX on 64 bits; the RAMO on its way, answered, and asked for. -/
def witRamo : State := { wit with st := { wit.st with x := (wit.st.x.set 3 (BitVec.ofNat 64 (7 + 6 * 2 ^ 16))).set 2 9 } }
def theRamo (res : Option Word) : Ramo := { witRamo.newRamo (fR 4 1 2) with res := res }
def witRamos (res : Option Word) : State :=
  { witRamo with st := { witRamo.st with eng := { witRamo.st.eng with ramos := [theRamo res], pendX := [4] } } }
def witAsked : State :=
  { witRamo with st := { witRamo.st with x := witRamo.st.x.set 1 7, eng := { witRamo.st.eng with query := some (4, 7) } } }

theorem witness_RemoteAtomicsComplete :
    (witRamo.waitsX [1, 2, 3, 4] = false ∧ fieldOf (witRamo.x 3) 16 4 ≤ 8 ∧ fieldOf (witRamo.x 3) 21 43 = 0 ∧
      (witRamo.x 1).toNat % 8 = 0) ∧
    (witAsked.waitsX [1, 4] = false ∧ (witAsked.x 1).toNat < 2 ^ 16 ∧
      witAsked.st.eng.ramos.any (fun q => q.res.isNone && q.ident == (witAsked.x 1).toNat) = false ∧
      witAsked.st.eng.query = some ((4 : BitVec 5).toNat, (witAsked.x 1).toNat) ∧ witRamo.st.eng.query = none) ∧
    ((witRamos none).ramo? 0 = some (theRamo none) ∧ (theRamo none).res = none ∧
      (witRamos none).ramoTurn (theRamo none) = .does (keysFrom (2 ^ 60) 8) ∧ (keysFrom (2 ^ 60) 8).length = (theRamo none).size ∧
      lookup ((witRamos none).window (targetOf (2 ^ 60)) 0 0) (theRamo none).ident = none ∧
      lookup (({ witRamos none with windows := [{ target := 200, fe := 0, asid := 0, ids := [(7, 0, 5)] }] } : State).window
        (targetOf (2 ^ 60)) 0 0) (theRamo none).ident = some 5) ∧
    ((witRamos (some 5)).ramo? 0 = some (theRamo (some 5)) ∧ (theRamo (some 5)).rd < 32) := by
  refine ⟨by decide, by decide, ⟨by decide, by decide, rfl, by decide, by decide, by decide⟩, by decide⟩

/-- MAX of 9 over 3 writes 9 and returns 3 (R274). -/
theorem test_ramo : (match exec (.ramoAtTarget 0) { witRamos none with mem := [(2 ^ 60, 3)] } with
    | .next t => t.mem == [(2 ^ 60, 9)] && (match exec (.ramoResponse 0) t with | .next u => u.x 4 == 3 | _ => false)
    | _ => false) = true := by decide

/-- A packet to line 64 of the package; its reply on the way, and arrived. -/
def witLine : State := { witSup with st := { witSup.st with x := witSup.st.x.set 1 64 } }
def thePkt (rd : Bool) : Packet := { tag := 0, addr := 64, isRead := rd, data := 0xFF, mask := 1, serial := 0 }
def theReply (rd : Bool) : Reply := { tag := 0, addr := 64, isRead := rd, cls := 0, cause := 0, data := 0 }
def witEng (pkts : List Packet) (flight replies : List Reply) : State :=
  { witLine with st := { witLine.st with eng := { witLine.st.eng with pkts := pkts, flight := flight, replies := replies } } }

theorem witness_PacketsComplete : witLine.sup = true ∧ witLine.st.sstat.vs ≠ 0 ∧ witLine.waitsX [1, 2, 3] = false ∧
    (fieldOf (witLine.x 1) 40 24 = 0 ∧ (witLine.x 1).toNat % 64 = 0 ∧ witLine.st.eng.unpopped < 16 ∧
      witLine.st.eng.freeTag = some 0 ∧ (witLine.st.vec.pk.anyRed || witLine.st.vec.ahead.any (fun a => a.pk.anyRed)) = false) ∧
    (witEng [] [] [theReply true]).st.eng.replies = theReply true :: [] ∧ (witEng [] [] [theReply false]).st.eng.replies = theReply false :: [] ∧
    witLine.st.eng.unpopped = 0 ∧
    ((witEng [thePkt true] [] []).st.eng.pkts.find? (fun p => p.serial == 0) = some (thePkt true) ∧
      (witEng [thePkt true] [] []).packetFree (thePkt true) = true ∧
      (witEng [thePkt false] [] []).packetFree (thePkt false) = true ∧ witLine.reaches (stackOf witLine.st.fe) 64 = true ∧
      witLine.reserved = [] ∧ witLine.poison = [] ∧ witLine.mem.wf = true) ∧
    (witEng [] [theReply false] []).st.eng.flight[0]? = some (theReply false) := by and_intros <;> decide +kernel

/-- A write packet writes the bytes of its mask (R281, R284). -/
theorem test_packet : (match exec (.packetAtBaseDie 0) (witEng [thePkt false] [] []) with
    | .next t => t.mem == [(64, 0xFF)] && t.st.eng.flight.length == 1 | _ => false) = true := by decide +kernel

/-- 32 HALT words in the scratchpad; and the vector unit ready for a run with no binding. -/
def witHalts : State :=
  { wit with mem := (List.range 32).flatMap (fun j => [(2 ^ 60 + 4 * j + 1, 0xF0), (2 ^ 60 + 4 * j + 2, 0xFF), (2 ^ 60 + 4 * j + 3, 0xC1)]) }

theorem witness_FabricInstructions :
    (witHalts.vecReady [1] ∧ (witHalts.x 1).toNat % 4 = 0 ∧ witHalts.openNow 5 = true ∧
      witHalts.reachesKeys (witHalts.x 1).toNat 128 10 .read (keysFrom (2 ^ 60) 128) ∧
      witHalts.poisonVa (witHalts.x 1).toNat (keysFrom (2 ^ 60) 128) = none ∧
      badWord (fabricWords ((keysFrom (2 ^ 60) 128).map (witHalts.readByte 10))) = none) ∧
    (wit.waitsX [1, 2, 3] = false ∧ wit.st.sstat.vs ≠ 0 ∧ fieldOf (wit.x 2) 12 4 ≤ 4 ∧ fieldOf (wit.x 2) 16 48 = 0 ∧
      wit.st.fab.pending.length < 16) ∧
    ((witVec 4 8).vecReady [2] ∧ vtVill (witVec 4 8).st.vec.vtype = false ∧ (witVec 4 8).forceFree ∧
      vtSm (witVec 4 8).st.vec.vtype = false ∧ frunBad ((witVec 4 8).x 2) 0 (!(witVec 4 8).st.fab.pending.isEmpty) = false ∧
      (witVec 4 8).st.firstLost ((witVec 4 8).inputWords ((witVec 4 8).x 2)) = none) := by
  unfold State.vecReady State.forceFree State.reachesKeys; decide +kernel

/-- A run of 32 bobbins in cycle 0, bobbin 0 about to execute an ADD of b1 and b2 into b3. -/
def witRun : State :=
  let s := witVec 4 8
  let r := s.newRun 0 0
  { s with st := { s.st with fab := { s.st.fab with run := some r } } }
def fB (dst a b : BitVec 4) (imm : BitVec 12) : BW := { dst := dst, a := a, b := b, imm := imm }
def theRun : Run := (witVec 4 8).newRun 0 0
def ended (r : Run) : Run := { r with bobbins := r.bobbins.map (fun b => { b with halted := true }) }

theorem witness_BobbinWordsComplete :
    (∃ op, bobbinValue (.bAdd (fB 3 1 2 0)) = some (fB 3 1 2 0, op)) ∧
    (∃ b, theRun.bobbins[0]? = some b ∧ witRun.bobbinFree theRun b (fB 3 1 2 0) []) ∧
    bobbinOther (.bHalt (fB 15 15 15 0)) = some (fB 15 15 15 0, []) ∧
    (∃ b, theRun.bobbins[0]? = some b ∧ witRun.bobbinFree theRun b (fB 15 15 15 0) []) ∧ (fB 7 1 2 0).dst.toNat < 8 := by
  refine ⟨⟨_, rfl⟩, ⟨_, rfl, ?_⟩, rfl, ⟨_, rfl, ?_⟩, by decide⟩ <;> unfold State.bobbinFree <;> decide +kernel

/-- MOV of the immediate 0xFFF, which is −1, and HALT (R237, R239, R240). -/
theorem test_bobbin_words : (match exec (.bMov (fB 3 14 15 0xFFF)) witRun, exec (.bHalt (fB 15 15 15 0)) witRun with
    | .next t, .next u => (match t.st.fab.run, u.st.fab.run with
      | some r, some q => (r.bobbins[0]?.map (fun b => b.b[3])) == some 0xFFFFFFFFFFFFFFFF && (q.bobbins[0]?.map (fun b => b.halted)) == some true
      | _, _ => false)
    | _, _ => false) = true := by decide +kernel

theorem witness_FabricRunsEnd :
    ((ended theRun).allHalted = true ∧ witRun.st.openTo 5 (ended theRun).serial = true) ∧
    (let r := { theRun with cycle := 4096 }
     r.allHalted = false ∧ r.moved + 4096 ≤ r.cycle) := by decide +kernel

/-- A pass of one node that reads no memory; one load from outside memory, which faults; one load from a page that is not
present; one store; and one linked load that waits. -/
def thePass (n : Node) : Pass :=
  { pk := ({ Pricking.empty with lnk := n.wm } : Pricking).note n (.v 3), v := Vector.replicate 32 0, k := Vector.replicate 8 0, stream := false, want := none, slip := 4,
    chk := 0, kept := [], done := [], wrote := [], fl := 0, shadow := [], errs := [], flips := [], held := false, sup := false, serial := 0 }
def witPass (p : Pass) : State :=
  { witVec 4 1 with
    fw := { wit.fw with contexts := [witCtx] }
    st := { (witVec 4 1).st with vec := { (witVec 4 1).st.vec with pk := p.pk, pass := some p } } }
def addPass : Pass := thePass ((witVec 4 1).blankNode .add)
def loadNode : Node := { (witVec 4 1).blankNode .load with base := 0x0080000000000000, stride := 8, mf := 4 }
def badPass : Pass := thePass loadNode
def pagePass : Pass := thePass { loadNode with base := 0 }
def storePass : Pass := thePass { (witVec 4 1).blankNode .store with base := 0xFFFFFF0000000000, stride := 8, mf := 4 }
def linkPass : Pass := thePass { loadNode with base := 0xFFFFFF0000000000, wm := some (0, 0) }

/-- Whether a turn ends, faults or waits on a link. -/
def isEnd (t : Turn) : Bool := match t with | .ends => true | _ => false
def isFault (t : Turn) : Bool := match t with | .faults _ _ _ _ _ => true | _ => false
def isPage (t : Turn) : Bool := match t with | .waits _ _ (.page _ _) => true | _ => false
def isLink (t : Turn) : Bool := match t with | .waits _ _ .link => true | _ => false

/-- Pricking due for 64 instructions; a fault held; and pre-emption pending. -/
def witDue : State := (witVec 4 8).setPk { Pricking.empty.note (witStore 0 8) .none with count := 64 }
def aFault : TrapInfo := { code := 0x43, stval := 0, selem := 0, sorig := 0 }
def witHeld : State := { wit with st := { wit.st with held := [aFault] } }
def witPp : State := { wit with st := { wit.st with sstat := { wit.st.sstat with pp := true } } }

/-- The load's page, address 0, has a table whose entry is not present. -/
def witPage : State :=
  let s := witPass pagePass
  { s with
    mem := putBytes s.mem mapRoot (leBytes 64 (mapLine (s.granCode 0) - 2 ^ 51))
    st := { s.st with br := { s.st.br with root := mapRoot } } }

theorem witness_PassesAndBoundaries :
    ((witPass addPass).mem.wf = true ∧ (witPass badPass).mem.wf = true ∧ (witPass linkPass).mem.wf = true) ∧
    ((witPass addPass).st.vec.pass = some addPass ∧ addPass.held = false ∧ (witPass addPass).st.passOpen addPass = true) ∧
    isEnd (addPass.turn (addPass.plan (witPass addPass)) 32) = true ∧ isFault (badPass.turn (badPass.plan (witPass badPass)) 32) = true ∧
    isLink (linkPass.turn (linkPass.plan (witPass linkPass)) 32) = true ∧ isPage (pagePass.turn (pagePass.plan witPage) 32) = true ∧
    ((witPass addPass).st.vec.ahead = [] ∧ witPage.mem.wf = true ∧ witPage.st.vec.pass = some pagePass ∧ witPage.st.passOpen pagePass = true) ∧
    (∃ n, storePass.errAt (witPass storePass) 0 0 = some n ∧ (errSrc false n 11).isSome = true ∧ errSrc false n 8 = none ∧
      (errSrc true n 8).isSome = true) ∧
    witDue.forceDue = true ∧
    (witHeld.st.run = .bound ∧ witHeld.sup = false ∧ witHeld.st.csr.stvec ≠ 0 ∧ witHeld.st.held = aFault :: []) ∧
    (witPp.st.sstat.pp = true ∧ witPp.st.held = [] ∧ witPp.atIteration = true) := by
  refine ⟨by decide +kernel, ⟨rfl, rfl, rfl⟩, by decide +kernel, by decide +kernel, by decide +kernel, by decide +kernel,
    ⟨rfl, by decide +kernel, rfl, by decide +kernel⟩, ⟨_, rfl, by decide, by decide, by decide⟩, by decide, by decide, by decide⟩

/-- A pass of one store of v1, one atomic addition, one load, each of the element at the start of the scratchpad; and a gather by v2. -/
def streamNode (op : NOp) : Node :=
  { (witVec 4 1).blankNode op with base := 0xFFFFFF0000000000, stride := 8, mf := 4, a := .vreg 1, b := .vreg 2 }
def streamPass (op : NOp) : Pass := thePass (streamNode op)

theorem witness_PassesAndBoundaries_streams : ∀ p ∈ [(NOp.store, Use.write), (.storex, .write), (.amo, .atomic), (.load, .read), (.loadx, .read)],
    let s := witPass (streamPass p.1)
    let n := (streamPass p.1).pk.nodes.headD (streamNode p.1)
    s.mem.wf = true ∧ s.poison = [] ∧ s.st.vec.bad = [] ∧ s.st.vec.ahead = [] ∧ s.st.eng.unseen = [] ∧
      s.st.vec.pass = some (streamPass p.1) ∧ s.st.passOpen (streamPass p.1) = true ∧ (streamPass p.1).pk.nodes = [n] ∧
      (streamPass p.1).nodes = [n] ∧ n.mask = none ∧ n.wm = none ∧ mfIsPb n.fmt = false ∧ n.a = .vreg 1 ∧ n.b = .vreg 2 ∧ n.vl = 1 ∧
      (match s.probe false n 0xFFFFFF0000000000 p.2 with | .ok ks => decide (ks.Nodup ∧ ks.length = n.size) | .error _ => false) = true ∧
      (streamPass p.1).pk.vb[3] = some (n.slot, 0) := by decide +kernel

/-- A pass adds 5 to the 3 in memory, and loads it (R166, R88). -/
theorem test_pass_streams :
    (match exec .passEnd (((witPass (streamPass .amo)).setPass (some { streamPass .amo with v := (Vector.replicate 32 0).set 1 5 })).write .outside [(2 ^ 60, 3)]) with
      | .next t => t.mem == [(2 ^ 60, 8)] | _ => false) = true ∧
    (match exec .passEnd ((witPass (streamPass .load)).write .outside [(2 ^ 60, 3)]) with
      | .next t => t.v 3 == 3 | _ => false) = true := by decide +kernel

/-- In supervisor mode, a held pass: what would wait for it takes 0x12 (R402). -/
def witHeldPass : State :=
  let s := witPass { addPass with held := true }
  { s with st := { s.st with sstat := { s.st.sstat with mode := true } } }

theorem witness_WaitsAndFencesComplete_held : witHeldPass.sup = true ∧ witHeldPass.st.vec.pass.any (fun p => p.held) = true ∧
    ({ imm := 0, rs1 := 0, rd := 0 } : IF).imm.toNat / 2 ^ 9 % 8 ≠ 7 := by decide

/-- A VLQ behind the pass that runs. -/
def witAsk : State := let s := witPass addPass; s.setEng { s.st.eng with serial := 1 }

theorem witness_QueriesAndForceComplete_behind : witAsk.waitsX [4] = false ∧ witAsk.st.sstat.vs ≠ 0 ∧ witAsk.st.vec.pass = some addPass ∧
    addPass.held = false ∧ addPass.serial < witAsk.st.eng.serial ∧ witAsk.queueOpen = true := by and_intros <;> decide +kernel

/-- Its register is waited for until the pass has ended, and holds g = 1 then (R155). -/
theorem test_vlq_waits : (match exec (.vlq (fR 4 7 0)) witAsk with
    | .next t => t.waitsX [4] && (match exec .passEnd t with | .next u => !u.waitsX [4] && u.x 4 == 1 | _ => false)
    | _ => false) = true := by decide +kernel

/-- A permutation behind the pass that runs. -/
theorem witness_PermutationsComplete_behind : (∃ p, permuted (.vrev (fR 4 3 0)) = some (fR 4 3 0, [], p)) ∧ vtVill witAsk.st.vec.vtype = false ∧
    vtSm witAsk.st.vec.vtype = false ∧ witAsk.waitsX [] = false ∧ witAsk.st.sstat.vs ≠ 0 ∧ witAsk.sup = false ∧
    witAsk.st.vec.pass = some addPass ∧ witAsk.queueOpen = true ∧ (force witAsk).queueOpen = true :=
  ⟨⟨_, rfl⟩, by and_intros <;> decide +kernel⟩

/-- VREV behind a pass completes, and moves the 12 that the pass leaves in v3 once the pass has ended (04 R87; 07 R180). -/
theorem test_permute_behind : (match exec (.vrev (fR 4 3 0)) (witPass (thePass { (witVec 4 1).blankNode .add with a := .scalar 5, b := .scalar 7 })) with
    | .next t => t.v 4 == 0 && (match exec .passEnd t with | .next u => u.v 4 == 12 && u.st.vec.pass.isNone | _ => false)
    | _ => false) = true := by decide +kernel

/-- A pass that adds 5 and 7 leaves 12 in v3 and nothing pending (R88, R134). -/
theorem test_passEnd : (match exec .passEnd (witPass (thePass { (witVec 4 1).blankNode .add with a := .scalar 5, b := .scalar 7 })) with
    | .next t => t.v 3 == 12 && t.st.vec.pk.nodes.isEmpty && t.st.vec.pass.isNone | _ => false) = true := by decide +kernel

/-- The imprecise trap enters at stvec with the imprecise bit (R285, R395). -/
theorem test_imprecise : (match exec .impreciseTrapEntry witHeld with
    | .next t => t.st.pc == 0x2000 && t.st.csr.scause == 0x143 && t.st.held.isEmpty | _ => false) = true := by decide +kernel

/-- A context with ASID 0, and queue 255 holding line 0 of a legal packet, of one with task 0, or a ready task. -/
def okLine : BitVec 512 :=
  BitVec.ofNat 512 (0x1000 + 2 ^ 64 * (2 ^ 48 + 2 ^ 41) + 2 ^ 128 * 1 + 2 ^ 192 * 64 + 2 ^ 256 * 9)
def badLine : BitVec 512 := BitVec.ofNat 512 (0x1000 + 2 ^ 64 * (2 ^ 48 + 2 ^ 41) + 2 ^ 128 * 1)
def aWaiting : Waiting := { pkt := launchOf okLine 0, age := 0, cnum := none, at_ := 0 }
def witPort (u : Queue) : State :=
  { State.reset with fw := { Firmware.reset with contexts := [{ witCtx with handle := 1, queues := [(255, u)] }] } }

theorem witness_LaunchAndScheduling :
    (witPort Queue.new).dieReaches 0 0 = true ∧ ({ witPort Queue.new with down := [10, 11] } : State).dieReaches 0 0 = false ∧
    (∃ c, (witPort Queue.new).ctxAsid? 0 = some c ∧ (witPort Queue.new).ctx? c.handle = some c ∧ (c.queue 255).half = none) ∧
    (∃ c, (witPort { Queue.new with half := some okLine }).ctxAsid? 0 = some c ∧ (c.queue 255).half = some okLine ∧
      launchBad okLine (launchOf okLine 0) c.handle 0 = none) ∧
    (launchBad badLine (launchOf badLine 0) 1 0 = some 4 ∧ cqUsable (launchOf badLine 0).cq = true) ∧
    (witPort Queue.new).order = [] ∧ (witPort Queue.new).fw.lockFor = none := by
  refine ⟨by decide, by decide, ⟨_, rfl, rfl, rfl⟩, ⟨_, rfl, rfl, by decide +kernel⟩, by decide +kernel, by decide, by decide⟩

/-- A ready task that fits on the empty package. -/
def witReady : State := witPort { Queue.new with waiting := [aWaiting] }
def aReady : Ready := { ctx := 1, queue := 255, w := aWaiting, eff := 0 }

theorem witness_LaunchAndScheduling_place : witReady.order = aReady :: [] ∧ witReady.ready = [aReady] ∧ aReady.w.pkt.lc = false ∧
    (witReady.tryPlace aReady (witReady.availFor witReady.order aReady)).2 = true ∧ (witReady.ctx? 1).isSome = true ∧
    aReady.w.cnum = none ∧ witReady.freeCnum = some 0 := by and_intros <;> decide +kernel

/-- The ready task where every front end is retired; and where a crew of lower priority holds the only one that is not. -/
def witFull : State := { witReady with feRetired := List.range 512 }
def witTaken : State :=
  { witPort { Queue.new with pri := 1, waiting := [aWaiting] } with
    feRetired := (List.range 511).map (fun i => i + 1)
    slots := [(0, { Slot.empty with state := .bound, br := { BindRec.zero with g := 1, csize := 1 } })] }
def witVictim : Crew := { witCrew with pkt := { witPkt with crew := 1 }, leaders := [0], placed := [0], arrived := [] }
def witContended : State := { witTaken with fw := { witTaken.fw with crews := [witVictim] } }

theorem witness_LaunchAndScheduling_full : witFull.order = [aReady] ∧ witFull.fw.reservation = none ∧
    (witFull.tryPlace aReady witFull.freeFes).2 = false := by and_intros <;> decide +kernel

theorem witness_LaunchAndScheduling_preEmpt : witContended.order = [{ aReady with eff := 1 }] ∧ witContended.fw.reservation = none ∧
    witContended.yieldsTo 1 witVictim = true ∧ witVictim.pp = false ∧
    (witContended.tryPlace { aReady with eff := 1 } witContended.freeFes).2 = false ∧
    ((witContended.without [witVictim]).tryPlace { aReady with eff := 1 } (witContended.without [witVictim]).freeFes).2 = true := by
  and_intros <;> decide +kernel

/-- Two stacks being emptied for a locked-clock task. -/
def witLock : State :=
  let s := witPort { Queue.new with waiting := [{ aWaiting with pkt := { aWaiting.pkt with lc := true } }] }
  { s with fw := { s.fw with locking := [0, 1], lockFor := some (1, 255, 0) } }

theorem witness_LaunchAndScheduling_lock : 0 ∈ witLock.fw.locking ∧ witLock.stackEmpty 0 = true ∧ (witLock.fw.locking ++ witLock.entered).any witLock.draining = false ∧ witLock.lockTask.isSome = true ∧
    1 ∈ witLock.fw.locking := by and_intros <;> decide +kernel

/-- TASK_PLACEMENT makes it crew 0 on front end 0 with the two lowest halves (R352, R23). -/
theorem test_placement : (match exec .taskPlacement witReady with
    | .next t => (t.fw.crews.map (fun c => (c.cnum, c.leaders))) == [(0, [0])] && (t.slot 0).br.listed == [0, 32] | _ => false) = true := by
  decide +kernel

/-- A slot of front end 511 in a dispatch state with a record; and one of a crew. -/
def witSlot (fe : Nat) (st : SlotState) (b : BindRec) : State :=
  { State.reset with
    slots := [(fe, { Slot.empty with state := st, br := b })]
    fw := { Firmware.reset with crews := [{ witCrew with pkt := { witPkt with crew := 1 }, leaders := [fe], placed := [fe], arrived := [] }] } }
def okRec : BindRec :=
  { BindRec.zero with g := 1, csize := 1, scrub := true, halves := (BindRec.zero.halves.set 0 0).set 1 32, vec := 0x1000 }

/-- Front end 1 has been armed a cycle too late: front end 0 asks for the same half, 64. And front end 1 is lent to front end 0. -/
def witRivals : State :=
  { witSlot 0 .held okRec with
    tick := 1
    lastArm := some (1, 0)
    slots := [(0, { Slot.empty with state := .held, br := { okRec with halves := okRec.halves.set 1 64 } }),
      (1, { Slot.empty with state := .armed, br := { okRec with halves := (okRec.halves.set 0 64).set 1 96 } })] }
def witLent : State :=
  { witSlot 0 .held okRec with slots := [(0, { Slot.empty with state := .held, br := { okRec with g := 2 } }),
      (1, { Slot.empty with state := .held, br := { BindRec.zero with g := 2, lent := true } })] }

theorem witness_SlotsAndStarts : 511 < 512 ∧ (witSlot 511 .free okRec).follows 511 = false ∧ (witSlot 0 .held okRec).follows 0 = false ∧
    (witLent.follows 1 = true ∧ witLent.lentTo 0 1 = true) ∧ ((witSlot 511 .free okRec).slot 511).state = .free ∧
    (((witSlot 0 .held okRec).slot 0).state = .held ∧ (witSlot 0 .held okRec).armOk 0 = true) ∧
    (((witSlot 511 .held okRec).slot 511).state = .held ∧ (witSlot 511 .held okRec).armOk 511 = false) ∧
    ((witSlot 511 .armed okRec).slot 511).state = .armed ∧
    (∃ c, ((witSlot 0 .starting okRec).slot 0).state = .starting ∧ ((witSlot 0 .starting okRec).slot 0).br.lent = false ∧
      (witSlot 0 .starting okRec).crew? 0 0 = some c ∧ c.kill = none) ∧
    512 ≤ 512 ∧
    (∃ c, (witSlot 0 .armed okRec).crew? 0 0 = some c ∧ (witSlot 0 .armed okRec).crewReady c = true ∧
      (0, okRec) ∈ (witSlot 0 .armed okRec).crewRecords 0 0 .armed ∧ 0 < okRec.g ∧ okRec.scrub = true) := by
  refine ⟨by decide, by decide, by decide, by decide, by decide, by decide +kernel, by decide +kernel, by decide, ⟨_, by decide, by decide, rfl, rfl⟩, by decide,
    ⟨_, rfl, by decide +kernel, by decide +kernel, by decide, rfl⟩⟩

/-- The lower front end is armed in place of the higher where both are armed in one cycle (R21; log 76). -/
theorem witness_SlotsAndStarts_rivals : witRivals.follows 0 = false ∧ witRivals.armOk 0 = false ∧ (witRivals.slot 0).state = .held ∧
    witRivals.lentTo 0 1 = false ∧ (Config.sameCycle 1 = true → witRivals.rival 0 = some 1) ∧ (witSlot 511 .held okRec).rival 511 = none := by
  refine ⟨by decide, by decide +kernel, by decide, by decide, fun h => ?_, by decide⟩
  have : (witRivals.slot 1).state = .armed ∧ (witRivals.turnSlot 1 .held).armOk 0 = true := by decide +kernel
  simp [State.rival, witRivals, h] at *
  exact this

/-- A crew being pre-empted, and one being killed. -/
def witGoing (kill : Option (BitVec 8 × Word × Word × Word)) : State :=
  { wit with fw := { wit.fw with crews := [{ witCrew with pp := true, kill := kill }] } }

theorem witness_SlotsAndStarts_ends :
    (∃ c, (witGoing none).crew? 0 0 = some c ∧ c.mayLapse = true ∧ c.gone = false ∧ (witGoing none).st.ofCrew c = true) ∧
    ({ witCrew with pp := true, pkt := { witCrew.pkt with lc := true, hold := true } } : Crew).mayLapse = false ∧
    (∃ c k, (witGoing (some (0xFF, 0, 0, 0))).crew? 0 0 = some c ∧ c.kill = some k ∧
      (witGoing (some (0xFF, 0, 0, 0))).recCount (c.leaders.headD 0) < 64) :=
  ⟨⟨_, rfl, rfl, by decide, by decide⟩, rfl, ⟨_, _, rfl, rfl, by decide⟩⟩

/-- STRAND_START gives x10 to x12 their values and task mode (R31, R349). -/
theorem test_strandStart : (match exec (.strandStart 0) (witSlot 0 .starting okRec) with
    | .next t => t.st.pc == 0x1000 && t.st.x[10] == 2 && t.st.x[12] == 1 && !t.sup && t.st.lanes == 32 | _ => false) = true := by
  decide +kernel

/-- A record for a completion queue whose header lies at 0x10040 and whose ring of 16 lies at 0x20000: empty, and full. -/
def aRec : Rec := { w0 := 5, w1 := 6, w2 := 7, w3 := 8, ctx := 0, cq := 0x10040, isTask := false, ev := none, lost := none }
def ringHead (w : Nat) : State :=
  { wit.mapped with
    mem := putBytes (putBytes wit.mapped.mem 0x10040 (leBytes 8 0x20000 ++ leBytes 8 16 ++ leBytes 8 w)) 0x30000 []
    recq := [(0, aRec)]
    fw := { wit.fw with contexts := [{ witCtx with root := mapRoot }] } }
def keyIs (r : RecAt) (k : Nat) : Bool := match r with | .key j => j == k | _ => false
def headWord (s : State) (i : Nat) : Nat := s.mem.val (0x10040 + 8 * i) 8

theorem witness_RecordsAndMailbox_records :
    (ringHead 0).firstRec 0 = some aRec ∧ (ringHead 0).recFree 0 aRec = true ∧ ((ringHead 0).ctx? aRec.ctx).isSome = true ∧
    (ringHead 0).fw.contexts.all (fun d => !d.dying) = true ∧ (ringHead 0).poison = [] ∧ (ringHead 0).mem.wf = true ∧
    (let c := { witCtx with root := mapRoot }
     keyIs ((ringHead 0).recAt 0 c 5 0x10040 .read) 0x10040 = true ∧ (ringHead 0).headerOk 0x10040 = true ∧
     keyIs ((ringHead 0).recAt 0 c 5 0x10050 .write) 0x10050 = true ∧ keyIs ((ringHead 0).recAt 0 c 5 0x20000 .write) 0x20000 = true) ∧
    (headWord (ringHead 0) 2 + 2 ^ 64 - headWord (ringHead 0) 3) % 2 ^ 64 ≠ headWord (ringHead 0) 1 ∧
    (headWord (ringHead 16) 2 + 2 ^ 64 - headWord (ringHead 16) 3) % 2 ^ 64 = headWord (ringHead 16) 1 := by
  and_intros <;> decide +kernel

theorem test_record_write : (match exec (.completionRecordWrite 0) (ringHead 0) with
    | .next t => t.recq.isEmpty && t.mem.val 0x20000 8 == 5 && t.mem.val 0x20018 8 == 8 && t.mem.val 0x10050 8 == 1 | _ => false) = true := by
  decide +kernel

/-- A fault buffer with one record; a free ASID; a context; a shootdown; a region. -/
def aFb : FbRec := { w0 := 0, w1 := 0, w2 := 0, w3 := 0 }
def witBuf : State :=
  { wit with
    faultBufs := [(7, { FaultBuf.empty with recs := [aFb] })]
    fw := { wit.fw with contexts := [witCtx] }
    shoots := [{ asid := 0, scope := 2, first := 0, pages := 0, giveUp := true }] }

theorem witness_RecordsAndMailbox : (witBuf.faultBuf 7).recs = aFb :: [] ∧ witBuf.freeAsid = some 1 ∧
    (List.range 8).all (fun k => poolOk ((Vector.replicate 8 (2 ^ 24) : Vector Nat 8).toList.getD k 0) &&
      decide (witBuf.poolGiven k + (Vector.replicate 8 (2 ^ 24) : Vector Nat 8).toList.getD k 0 ≤ 1440 * 2 ^ 20)) = true ∧
    (List.range 8).all (fun k => poolOk ((Vector.replicate 8 1 : Vector Nat 8).toList.getD k 0) &&
      decide (witBuf.poolGiven k + (Vector.replicate 8 1 : Vector Nat 8).toList.getD k 0 ≤ 1440 * 2 ^ 20)) = false ∧
    witBuf.ctx? 1 = none ∧ witBuf.ctx? 0 = some witCtx ∧
    (let w0 : Word := BitVec.ofNat 64 (1 * 2 ^ 16)
     fieldOf w0 16 2 < 3 ∧ fieldOf w0 14 2 = 0 ∧ fieldOf w0 18 46 = 0 ∧ fieldOf (1 : Word) 1 63 = 0) ∧
    (witBuf.shoots[0]?).isSome = true ∧ witBuf.reserved.contains 1023 = false ∧ witBuf.fw.cmd = false ∧
    witBuf.fw.contexts.any (fun c => mapsRegion witBuf.mem 1023 c.root [2, 1, 0]) = false ∧
    mapsRegion wit.mapped.mem 1023 mapRoot [2, 1, 0] = true := by and_intros <;> decide +kernel

/-- A unit being updated: stack 0 drains and is not empty. -/
def witUpd (unit : Nat) (drain : Bool) (crews : List Crew) : State :=
  { State.reset with fw := { Firmware.reset with
      images := [(unit, { Image.first with pending := 3, busy := true, draining := drain })], crews := crews } }

theorem witness_UpdatesResetAndTakeover : (State.reset.image 35).busy = false ∧ ((witUpd 35 false []).image 35).busy = true ∧
    (((witUpd 0 true [witCrew]).image 0).draining = true ∧ (witUpd 0 true [witCrew]).stackEmpty 0 = false) ∧
    (((witUpd 0 true []).image 0).busy = true ∧ (witUpd 0 true []).stackEmpty 0 = true) ∧
    (State.reset.fw.coordinator = 0 ∧ 1 ∈ State.reset.fw.answering) ∧ State.reset.fw.cmd = false ∧ linkLegal 16 128 = true ∧
    linkLegal 3 128 = false ∧ 36 ≤ 36 := by and_intros <;> decide +kernel

/-- Links, domains and lines at their ends. -/
def witDom (v : Domain) (d : Nat) : State := { State.reset with domains := [(d, v)] }

theorem witness_LinksAndMaintenance : 13 ∉ State.reset.down ∧ 13 ∈ ({ State.reset with down := [13] } : State).down ∧
    witAsked.st.eng.query = some ((4 : BitVec 5).toNat, 7) ∧ (isHbm 64 = true ∧ 64 % 64 = 0 ∧ wit.reserved.contains (64 / 2 ^ 30) = false) ∧
    wit.poison = [] ∧ wit.mem.wf = true ∧ wit.poisonedAt 64 = false ∧ wit.failed = [] ∧ wit.dieReaches 1 (64 / 2 ^ 37) = true ∧
    ({ wit with down := [12, 13] } : State).dieReaches 1 (64 / 2 ^ 37) = false ∧
    (wit.fw.locked.contains (domainStack 1087) = false ∧
      16 ≤ ((witDom { Domain.quiet with events := 16 } 1087).domain 1087).events ∧
      ((witDom { Domain.quiet with events := 16 } 1087).domain 1087).recount = false ∧
      ((witDom { Domain.quiet with recount := true } 1087).domain 1087).recount = true ∧
      ((witDom { Domain.quiet with test := true } 575).domain 575).test = true ∧
      (witDom { Domain.quiet with test := true } 575).domainLive 575 = false) := by and_intros <;> decide +kernel

/-- The strand with its tables, an ADDI word at its pc, and nothing else ready. -/
def witFetch : State := wit.withFetchWord 32 0x00508193

theorem witness_StepRunsDecoded : witFetch.quiet = true ∧ witFetch.st.pc.toNat % 4 = 0 ∧
    ({ wit with st := { wit.st with pc := 0x1002 } } : State).st.pc.toNat % 4 ≠ 0 ∧
    (∃ ks, witFetch.reachesKeys witFetch.st.pc.toNat 4 0 .fetch ks ∧ witFetch.fetchOver ks = [] ∧
      witFetch.poison = []) ∧
    witFetch.inbox = [] ∧ (wit.withFetchWord 32 0xC1FFF000).midCycle.isSome = true ∧ ofPackage .reset = true := by
  refine ⟨by decide +kernel, by decide +kernel, by decide, ⟨keysFrom 0x1000 4, ?_, by decide +kernel, by decide +kernel⟩, by decide +kernel, by decide +kernel, rfl⟩
  unfold State.reachesKeys; decide +kernel

theorem test_step_addi : (match step witFetch with
    | .next t => t.x 3 == 0xFFFFFF0000000005 && t.st.pc == 0x1004 | _ => false) = true := by decide +kernel

/-- From reset too, the word placed is the next step's: a strand's word, and a bobbin's. -/
theorem test_step_reset : (match step (State.reset.withFetchWord 32 0x00500193), step (State.reset.withFetchWord 32 0xC1FFF000) with
    | .next t, .next u => t.x 3 == 5 && (u.st.fab.run.map (fun r => r.bobbins.map (fun b => b.halted))) == some [false, true]
    | _, _ => false) = true := by decide +kernel

theorem witness_DecodeOfEncode : (Instr.vadd fV).WellFormed ∧ (encode (.vadd fV)).isSome = true ∧
    ((bobbinValue (.vadd fV)).isSome || (bobbinOther (.vadd fV)).isSome) = false ∧ (Instr.bAdd (fB 3 1 2 0)).WellFormed ∧
    (encode (.bAdd (fB 3 1 2 0))).isSome = true ∧ (bobbinValue (.bAdd (fB 3 1 2 0))).isSome = true := by
  unfold Instr.WellFormed; decide

theorem witness_GoodIsKept : ∃ t, witFetch.good = true ∧ step witFetch = .next t := by
  refine ⟨_, by decide +kernel, rfl⟩
end Sys2Proof.Tests
end

section
/-! PROOFS. The package: what reset leaves, and the start of a crew (01 R24, R29; 14 R348, R350). -/

namespace Sys2Proof.Machine

/-! ## Reset -/

/-- A slot that nothing has changed is free. -/
theorem slot_reset (fe : Nat) : State.reset.slot fe = Slot.empty := rfl

/-- Every x register reads zero after reset. -/
theorem x_reset (r : BitVec 5) : State.reset.x r = 0 := by
  simp [State.x, State.reset, Strand.reset]

/-- Settles O60: memory, slots and registers by their reading lemmas, every other field as reset writes it. -/
theorem resetState : Obligations.ResetState :=
  ⟨by decide, rfl, rfl, rfl, rfl, fun _ => rfl, x_reset, rfl, rfl, rfl, fun fe => by rw [slot_reset]; rfl, rfl⟩

/-! ## The scrub of a starting crew

O52 has every key of the 2^19 that the model leaves to a front end read zero once a record with scrub has started. A scratchpad
has 384 KiB of them (12 R294, Table 12.2), and the scrub of 14 R348 clears those and no others. -/

/-- A launch of one strand on one front end. -/
def soloLaunch : Launch :=
  { entry := 0x1000, crew := 1, hold := false, lc := false, prot := false, g := 1, n := 0, ctx := 0, cq := 0, pre0 := 0, task := 0,
    thr := 0, wen := false, wobj := 0, pre1 := 0, args := Vector.replicate 10 0 }

/-- Its crew, placed on front end 0. -/
def soloCrew : Crew :=
  { cnum := 0, pkt := soloLaunch, queue := 0, pri := 0, leaders := [0], placed := [0], lanes := [0], ended := [], yielded := [],
    saved := [], arrived := [], copyErr := none, pubs := [], at_ := 0, pp := false, away := [], kill := none }

/-- The record of its strand, which asks for a scrub. -/
def soloRec : BindRec := { BindRec.zero with g := 1, csize := 1, scrub := true, vec := 0x1000 }

/-- The package with that record armed, and one byte behind the scratchpad of front end 0 that is not zero. -/
def armedBesideByte : State :=
  { State.reset with
    mem := [(scratchKey 0 Config.scratchBytes, 1)]
    slots := [(0, { Slot.empty with state := .armed, br := soloRec })]
    fw := { Firmware.reset with crews := [soloCrew] } }

/-- The state is one that the invariant allows, and its crew starts. -/
theorem armedBesideByte_ready : armedBesideByte.good = true ∧ armedBesideByte.crew? 0 0 = some soloCrew ∧
    armedBesideByte.crewReady soloCrew = true ∧ (0, soloRec) ∈ armedBesideByte.crewRecords 0 0 .armed := by
  and_intros <;> decide +kernel

/-- The start of the crew leaves the byte as it was. -/
theorem crewArmed_keeps_byte : ∃ t, exec (.crewArmed 0 0) armedBesideByte = .next t ∧
    t.mem.get (scratchKey 0 Config.scratchBytes) = 1 := ⟨_, rfl, by decide +kernel⟩

/-- Refutes O52: the keys from 393,216 up to 524,288 are no bytes of a scratchpad, and the scrub of a starting crew leaves what
they hold. -/
theorem not_slotsAndStarts : ¬ Obligations.SlotsAndStarts := by
  unfold Obligations.SlotsAndStarts
  intro h
  obtain ⟨_, hcrew, hready, hrec⟩ := armedBesideByte_ready
  obtain ⟨-, -, -, -, hstart⟩ := h armedBesideByte 0 0 0
  obtain ⟨t, ht, -, hpad⟩ := (hstart soloCrew hcrew).1 hready
  have hzero : t.mem.get (scratchKey 0 Config.scratchBytes) = 0 :=
    (hpad (0, soloRec) hrec (by decide)).2 rfl Config.scratchBytes (by decide)
  obtain ⟨t', ht', hone⟩ := crewArmed_keeps_byte
  cases ht.symm.trans ht'
  exact absurd (hzero.symm.trans hone) (by decide)

end Sys2Proof.Machine
end

section
/-! PROOFS. Updates of firmware, measurements, reset and the coordinator's role (01 R24, R29; 14 R356, R359, R360; 25 R448, R449). -/

namespace Sys2Proof.Machine

/-! ## What decisions about crews leave -/

/-- Images, the mailbox's status, the cores that answer, their coordinator, and package memory: no decision about crews changes
any of these. -/
def State.service (s : State) : List (Nat × Image) × Nat × List Nat × Nat × Memory :=
  (s.fw.images, s.fw.status, s.fw.answering, s.fw.coordinator, s.mem)

theorem service_eq_iff (s t : State) : t.service = s.service ↔ t.fw.images = s.fw.images ∧ t.fw.status = s.fw.status ∧
    t.fw.answering = s.fw.answering ∧ t.fw.coordinator = s.fw.coordinator ∧ t.mem = s.mem := by
  simp only [State.service, Prod.mk.injEq]

/-- A fold of steps that each leave it leaves it. -/
theorem service_foldl {α : Type} (f : State → α → State) (hf : ∀ s a, (f s a).service = s.service) (l : List α) (s : State) :
    (l.foldl f s).service = s.service := by
  induction l generalizing s with
  | nil => rfl
  | cons a l ih => rw [List.foldl_cons, ih, hf]

theorem service_freeCrewSlots (s : State) (c : Crew) : (s.freeCrewSlots c).service = s.service := by
  unfold State.freeCrewSlots
  exact service_foldl _ (fun _ _ => by rfl) _ s

/-- Whether a crew waits again or is dropped, its slots are freed and its context's queue is written. -/
theorem service_unplace (s : State) (c : Crew) : (s.unplace c).service = s.service := by
  unfold State.unplace
  dsimp only
  split
  · exact service_freeCrewSlots s c
  · exact service_freeCrewSlots s c

theorem service_preEmpt (s : State) (cs : List Crew) : (s.preEmpt cs).service = s.service := by
  unfold State.preEmpt
  exact service_foldl _ (fun _ _ => by rfl) _ s

/-- The drain of a stack decides about crews alone. -/
theorem service_drainStack (s : State) (k : Nat) : (s.drainStack k).service = s.service := by
  unfold State.drainStack
  dsimp only
  rw [service_foldl _ (fun _ _ => by rfl), service_preEmpt]
  unfold State.unplaceOn
  exact service_foldl _ service_unplace _ s

/-! ## The mailbox and the units -/

theorem command_of_busy (code : Nat) (s : State) (k : State → Out) (h : s.fw.cmd = true) : command code s k = ok s := if_pos h

theorem command_of_free (code : Nat) (s : State) (k : State → Out) (h : s.fw.cmd = false) : command code s k =
    k { s with fw := { s.fw with code := BitVec.ofNat 64 code, status := 0, cmd := true, results := [] } } := by
  simp [command, h]

theorem exec_update (s : State) (unit image : Nat) (signed : Bool) :
    exec (.update unit image signed) s = execUpdate unit image signed s := rfl

theorem exec_measurements (s : State) (stack : Nat) : exec (.measurements stack) s = execMeasurements stack s := rfl

theorem unitEvent_of_lt (unit : Nat) (k : Out) (h : unit < 36) : unitEvent unit k = k := if_neg (by omega)

theorem unitEvent_of_ge (unit : Nat) (k : Out) (h : 36 ≤ unit) : unitEvent unit k = .fault (.noSuchUnit unit) := if_pos h

/-- Memory that stands is kept byte by byte. -/
theorem keepsMem_of_mem (s t : State) (h : t.mem = s.mem) : s.keepsMem t := fun a => by rw [h]

/-- What a unit's image depends on. -/
theorem image_congr (s t : State) (h : t.fw.images = s.fw.images) (k : Nat) : t.image k = s.image k := by
  unfold State.image; rw [h]

@[simp] theorem State.measure_images (s : State) (unit image : Nat) : (s.measure unit image).fw.images = s.fw.images := by unfold State.measure; rfl
@[simp] theorem State.measure_down (s : State) (unit image : Nat) : (s.measure unit image).down = s.down := by unfold State.measure; rfl
@[simp] theorem State.measure_mem (s : State) (unit image : Nat) : (s.measure unit image).mem = s.mem := by unfold State.measure; rfl
@[simp] theorem State.setImage_images (s : State) (unit : Nat) (u : Image) : (s.setImage unit u).fw.images = insert s.fw.images unit u := by
  unfold State.setImage; rfl
@[simp] theorem State.setImage_measures (s : State) (unit : Nat) (u : Image) : (s.setImage unit u).fw.measures = s.fw.measures := by
  unfold State.setImage; rfl
@[simp] theorem State.setImage_down (s : State) (unit : Nat) (u : Image) : (s.setImage unit u).down = s.down := by unfold State.setImage; rfl
@[simp] theorem State.setImage_mem (s : State) (unit : Nat) (u : Image) : (s.setImage unit u).mem = s.mem := by unfold State.setImage; rfl
@[simp] theorem State.reply_images (s : State) (n : Nat) (ws : List Word) : (s.reply n ws).fw.images = s.fw.images := by unfold State.reply; rfl
@[simp] theorem State.reply_measures (s : State) (n : Nat) (ws : List Word) : (s.reply n ws).fw.measures = s.fw.measures := by
  unfold State.reply; rfl
@[simp] theorem State.reply_status (s : State) (n : Nat) (ws : List Word) : (s.reply n ws).fw.status = 2 ^ 63 + n % 2 ^ 16 := by
  unfold State.reply; rfl
@[simp] theorem State.reply_down (s : State) (n : Nat) (ws : List Word) : (s.reply n ws).down = s.down := by unfold State.reply; rfl
@[simp] theorem State.reply_mem (s : State) (n : Nat) (ws : List Word) : (s.reply n ws).mem = s.mem := by unfold State.reply; rfl

/-- The images after one is replaced, whatever else has changed. -/
theorem image_of_insert (s t : State) (unit : Nat) (u : Image) (h : t.fw.images = insert s.fw.images unit u) (k : Nat) :
    t.image k = if k = unit then u else s.image k := by
  rw [State.image, h, lookup_insert]
  split <;> rfl

/-- The image that is replaced. -/
theorem image_of_insert_self (s t : State) (unit : Nat) (u : Image) (h : t.fw.images = insert s.fw.images unit u) :
    t.image unit = u := (image_of_insert s t unit u h unit).trans (if_pos rfl)

/-- A register after its unit has measured an image, whatever else has changed since. -/
theorem measurement_of_measured (s t : State) (unit image : Nat) (h : t.fw.measures = (s.measure unit image).fw.measures) :
    t.measurement unit = Config.extended (s.measurement unit) (Config.imageDigest unit image) := by
  rw [State.measurement, h, State.measure, lookup_insert, if_pos rfl, Option.getD_some]

/-! ## The least of a list -/

/-- Where a list has an element, its minimum is one of it and at most each. -/
theorem exists_min?_of_mem {l : List Nat} {a : Nat} (h : a ∈ l) : ∃ k, l.min? = some k ∧ k ∈ l ∧ ∀ b ∈ l, k ≤ b := by
  cases hk : l.min? with
  | none => simp [List.min?_eq_none_iff.1 hk] at h
  | some k => exact ⟨k, rfl, List.min?_eq_some_iff.1 hk⟩

/-! ## Updates (14 R359; 25 R448, R449) -/

/-- The coordinator after an update of a unit: it hands its role on where it is the stack that is updated (01 R29). -/
def State.heir (s : State) (unit : Nat) : Nat :=
  if s.fw.coordinator = unit then ((s.fw.answering.filter (fun k => k != unit)).min?).getD unit else s.fw.coordinator

/-- A coordinator that is updated and has another core that answers hands its role to such a one. -/
theorem heir_of_other (s : State) (unit : Nat) (hc : s.fw.coordinator = unit) (h : ∃ k ∈ s.fw.answering, k ≠ unit) :
    s.heir unit ∈ s.fw.answering ∧ s.heir unit ≠ unit := by
  obtain ⟨k, hk, hne⟩ := h
  obtain ⟨m, hm, hmem, -⟩ := exists_min?_of_mem (l := s.fw.answering.filter (fun k => k != unit)) (a := k) (by simp [hk, hne])
  rw [State.heir, if_pos hc, hm]
  simpa using hmem

/-- The state in which an update that is taken stands pending, before a stack drains. -/
def State.pendUpdate (s : State) (unit image : Nat) : State :=
  { s with fw := { s.fw with code := 7, status := 0, cmd := true, results := [] } }.setImage unit
    { s.image unit with pending := image, busy := true, draining := decide (unit < 8) }

theorem image_pendUpdate (s : State) (unit image k : Nat) : (s.pendUpdate unit image).image k =
    if k = unit then { s.image unit with pending := image, busy := true, draining := decide (unit < 8) } else s.image k :=
  image_of_insert s _ unit _ rfl k

/-- An update that is taken, by the kind of its unit: a stack drains and may hand its role on, and any other unit goes on. -/
theorem exec_update_taken (s : State) (unit image : Nat) (hu : unit < 36) (hb : (s.image unit).busy = false)
    (hc : s.fw.cmd = false) : exec (.update unit image true) s =
      if unit < 8 then
        let t := (s.pendUpdate unit image).drainStack unit
        .next ({ t with fw := { t.fw with coordinator := t.heir unit } } : State).ticked
      else .next (s.pendUpdate unit image).ticked := by
  rw [exec_update, execUpdate, unitEvent_of_lt _ _ hu, if_neg (by simp [hb]), command_of_free _ _ _ hc]
  rfl

/-- An update that is taken stands pending, and leaves every other unit's image. -/
theorem update_taken (s : State) (unit image : Nat) (hu : unit < 36) (hb : (s.image unit).busy = false) (hc : s.fw.cmd = false) :
    ∃ t, exec (.update unit image true) s = .next t ∧
      t.image unit = { s.image unit with pending := image, busy := true, draining := decide (unit < 8) } ∧ t.fw.status = 0 ∧
      (∀ k, k ≠ unit → t.image k = s.image k) ∧
      (unit < 8 → s.fw.coordinator = unit → (∃ k ∈ s.fw.answering, k ≠ unit) →
        t.fw.coordinator ∈ s.fw.answering ∧ t.fw.coordinator ≠ unit) ∧ s.keepsMem t := by
  have hpend := image_pendUpdate s unit image
  have hself := (hpend unit).trans (if_pos rfl)
  have hother : ∀ k, k ≠ unit → (s.pendUpdate unit image).image k = s.image k := fun k hk => by rw [hpend, if_neg hk]
  rw [exec_update_taken s unit image hu hb hc]
  by_cases h8 : unit < 8
  · rw [if_pos h8]
    obtain ⟨himg, hst, hans, hcoord, hmem⟩ := (service_eq_iff _ _).1 (service_drainStack (s.pendUpdate unit image) unit)
    have himage : ∀ k, ((s.pendUpdate unit image).drainStack unit).image k = (s.pendUpdate unit image).image k :=
      image_congr _ _ himg
    refine ⟨_, rfl, (himage unit).trans hself, hst, fun k hk => (himage k).trans (hother k hk), ?_,
      keepsMem_of_mem _ _ hmem⟩
    intro _ hcs hk
    have h := heir_of_other ((s.pendUpdate unit image).drainStack unit) unit (hcoord.trans hcs) (by rw [hans]; exact hk)
    rw [hans] at h
    exact h
  · rw [if_neg h8]
    exact ⟨_, rfl, hself, rfl, hother, fun h => absurd h h8, fun _ => rfl⟩

/-- An update of a unit that is being updated is answered, and the first goes on. -/
theorem update_of_busy (s : State) (unit image : Nat) (signed : Bool) (hu : unit < 36) (hb : (s.image unit).busy = true) :
    exec (.update unit image signed) s = .next ({ s with fw := { s.fw with status := 2 ^ 63 + 3, results := [] } } : State).ticked := by
  rw [exec_update, execUpdate, unitEvent_of_lt _ _ hu, if_pos hb]
  rfl

/-- An update that finds the mailbox busy is not taken (log 40). -/
theorem update_of_mailbox_busy (s : State) (unit image : Nat) (signed : Bool) (hu : unit < 36) (hb : (s.image unit).busy = false)
    (hc : s.fw.cmd = true) : exec (.update unit image signed) s = .next s.ticked := by
  rw [exec_update, execUpdate, unitEvent_of_lt _ _ hu, if_neg (by simp [hb]), command_of_busy _ _ _ hc]
  rfl

/-- An update that is not signed ends with status 1. -/
theorem update_of_unsigned (s : State) (unit image : Nat) (hu : unit < 36) (hb : (s.image unit).busy = false)
    (hc : s.fw.cmd = false) : exec (.update unit image false) s = .next (({ s with fw := { s.fw with
      code := BitVec.ofNat 64 7, status := 0, cmd := true, results := [] } } : State).reply 1 []).ticked := by
  rw [exec_update, execUpdate, unitEvent_of_lt _ _ hu, if_neg (by simp [hb]), command_of_free _ _ _ hc]
  rfl

/-- A restart has come for a unit that is no stack, and for a stack that is empty. -/
theorem restarted_iff (s : State) (unit : Nat) : s.restarted unit = true ↔ 8 ≤ unit ∨ s.stackEmpty unit = true := by
  simp [State.restarted]

/-- A completed update runs the image that was pending. -/
theorem switch_eq (u : Image) : u.switch.active = (!u.active) ∧ u.switch.busy = false ∧
    (if u.active then u.switch.a = u.pending ∧ u.switch.validA = true else u.switch.b = u.pending ∧ u.switch.validB = true) := by
  unfold Image.switch
  cases u.active <;> simp

/-- A failed update goes back to the image that ran, and leaves the other one invalid. -/
theorem rollBack_eq (u : Image) : u.rollBack.active = u.active ∧ u.rollBack.busy = false ∧
    (if u.active then u.rollBack.validA = false else u.rollBack.validB = false) := by
  unfold Image.rollBack
  cases u.active <;> simp

/-- The restart of a unit whose new image passes its self-test: it has run, and it is the active one. -/
def State.restartNew (s : State) (unit : Nat) : State :=
  ((s.measure unit (s.image unit).pending).setImage unit (s.image unit).switch).reply 0 []

/-- The restart of a unit whose new image fails its self-test: it has run, and then the old one. -/
def State.restartOld (s : State) (unit : Nat) : State :=
  (((s.measure unit (s.image unit).pending).measure unit (s.image unit).current).setImage unit (s.image unit).rollBack).reply 2 []

theorem restartNew_keeps (s : State) (unit : Nat) : (s.restartNew unit).fw.images = insert s.fw.images unit (s.image unit).switch ∧
    (s.restartNew unit).fw.measures = (s.measure unit (s.image unit).pending).fw.measures ∧ (s.restartNew unit).fw.status = 2 ^ 63 ∧
    (s.restartNew unit).down = s.down ∧ (s.restartNew unit).mem = s.mem := by
  refine ⟨?_, ?_, ?_, ?_, ?_⟩ <;> unfold State.restartNew
  · rw [State.reply_images, State.setImage_images, State.measure_images]
  · rw [State.reply_measures, State.setImage_measures]
  · exact (State.reply_status _ _ _).trans (by decide)
  · rw [State.reply_down, State.setImage_down, State.measure_down]
  · rw [State.reply_mem, State.setImage_mem, State.measure_mem]

theorem restartOld_keeps (s : State) (unit : Nat) : (s.restartOld unit).fw.images = insert s.fw.images unit (s.image unit).rollBack ∧
    (s.restartOld unit).fw.measures = ((s.measure unit (s.image unit).pending).measure unit (s.image unit).current).fw.measures ∧
    (s.restartOld unit).fw.status = 2 ^ 63 + 2 ∧ (s.restartOld unit).down = s.down ∧ (s.restartOld unit).mem = s.mem := by
  refine ⟨?_, ?_, ?_, ?_, ?_⟩ <;> unfold State.restartOld
  · rw [State.reply_images, State.setImage_images, State.measure_images, State.measure_images]
  · rw [State.reply_measures, State.setImage_measures]
  · exact (State.reply_status _ _ _).trans (by decide)
  · rw [State.reply_down, State.setImage_down, State.measure_down, State.measure_down]
  · rw [State.reply_mem, State.setImage_mem, State.measure_mem, State.measure_mem]

theorem exec_updateComplete (s : State) (unit : Nat) (hu : unit < 36) (hb : (s.image unit).busy = true)
    (hr : s.restarted unit = true) : exec (.updateComplete unit) s =
      .next ({ s.restartNew unit with down := (s.restartNew unit).down.filter (fun l => !(unitLinks unit).contains l) } : State).ticked := by
  have hexec : exec (.updateComplete unit) s = execUpdateComplete unit s := rfl
  rw [hexec, execUpdateComplete, unitEvent_of_lt _ _ hu]
  exact if_neg (by simp [hb, hr])

theorem exec_updateSelfTestTimeout (s : State) (unit : Nat) (hu : unit < 36) (hb : (s.image unit).busy = true)
    (hr : s.restarted unit = true) : exec (.updateSelfTestTimeout unit) s =
      .next ({ s.restartOld unit with
        down := (s.restartOld unit).down ++ (unitLinks unit).filter (fun l => !(s.restartOld unit).down.contains l) } : State).ticked := by
  have hexec : exec (.updateSelfTestTimeout unit) s = execUpdateSelfTestTimeout unit s := rfl
  rw [hexec, execUpdateSelfTestTimeout, unitEvent_of_lt _ _ hu]
  exact if_neg (by simp [hb, hr])

/-- The end of an update whose new image runs. -/
theorem update_completed (s : State) (unit : Nat) (hu : unit < 36) (hb : (s.image unit).busy = true)
    (hr : s.restarted unit = true) :
    ∃ t, exec (.updateComplete unit) s = .next t ∧ t.image unit = (s.image unit).switch ∧ t.fw.status = 2 ^ 63 ∧
      t.measurement unit = Config.extended (s.measurement unit) (Config.imageDigest unit (s.image unit).pending) ∧
      (∀ l ∈ unitLinks unit, l ∉ t.down) ∧ s.keepsMem t := by
  obtain ⟨himages, hmeasures, hstatus, hdown, hmem⟩ := restartNew_keeps s unit
  refine ⟨_, exec_updateComplete s unit hu hb hr, image_of_insert_self s _ unit _ himages, hstatus,
    measurement_of_measured s _ unit _ hmeasures, fun l hl hl' => ?_, keepsMem_of_mem _ _ hmem⟩
  have hkept := (List.mem_filter.1 hl').2
  rw [List.contains_iff_mem.2 hl] at hkept
  cases hkept

/-- The end of an update whose new image fails. -/
theorem update_failed (s : State) (unit : Nat) (hu : unit < 36) (hb : (s.image unit).busy = true)
    (hr : s.restarted unit = true) :
    ∃ t, exec (.updateSelfTestTimeout unit) s = .next t ∧ t.image unit = (s.image unit).rollBack ∧ t.fw.status = 2 ^ 63 + 2 ∧
      t.measurement unit = Config.extended (Config.extended (s.measurement unit) (Config.imageDigest unit (s.image unit).pending))
        (Config.imageDigest unit (s.image unit).current) ∧
      (∀ l ∈ unitLinks unit, l ∈ t.down) ∧ s.keepsMem t := by
  have hnew := measurement_of_measured s (s.measure unit (s.image unit).pending) unit _ rfl
  rw [← hnew]
  obtain ⟨himages, hmeasures, hstatus, -, hmem⟩ := restartOld_keeps s unit
  refine ⟨_, exec_updateSelfTestTimeout s unit hu hb hr, image_of_insert_self s _ unit _ himages, hstatus,
    measurement_of_measured (s.measure unit (s.image unit).pending) _ unit _ hmeasures, fun l hl => ?_, keepsMem_of_mem _ _ hmem⟩
  rcases Decidable.em (l ∈ (s.restartOld unit).down) with hd | hd
  · exact List.mem_append_left _ hd
  · exact List.mem_append_right _ (List.mem_filter.2 ⟨hl, by rw [List.contains_eq_mem, decide_eq_false hd]; rfl⟩)

/-- The end of an update whose stack does not drain in time. -/
theorem update_not_drained (s : State) (unit : Nat) (hu : unit < 36) (hd : (s.image unit).draining = true)
    (he : s.stackEmpty unit = false) :
    ∃ t, exec (.updateDrainTimeout unit) s = .next t ∧ t.image unit = { s.image unit with busy := false, draining := false } ∧
      t.fw.status = 2 ^ 63 + 4 ∧ t.st = s.st := by
  have hexec : exec (.updateDrainTimeout unit) s = execUpdateDrainTimeout unit s := rfl
  rw [hexec, execUpdateDrainTimeout, unitEvent_of_lt _ _ hu]
  exact ⟨_, if_neg (by simp [hd, he]), image_of_insert_self s _ unit _ rfl, rfl, rfl⟩

/-- The package has 36 units. -/
theorem update_noSuchUnit (s : State) (unit image : Nat) (signed : Bool) (hu : 36 ≤ unit) :
    ∀ i ∈ [Instr.update unit image signed, .updateComplete unit, .updateSelfTestTimeout unit, .updateDrainTimeout unit],
      exec i s = .fault (.noSuchUnit unit) := by
  simp only [List.forall_mem_cons, List.not_mem_nil, false_implies, implies_true, and_true]
  exact ⟨unitEvent_of_ge unit _ hu, unitEvent_of_ge unit _ hu, unitEvent_of_ge unit _ hu, unitEvent_of_ge unit _ hu⟩

/-! ## Measurements and the host link (14 R356, R360) -/

theorem measurements_of_busy (s : State) (stack : Nat) (hk : stack < 8) (hc : s.fw.cmd = true) :
    exec (.measurements stack) s = .next s.ticked := by
  rw [exec_measurements, execMeasurements, if_neg (by omega), command_of_busy _ _ _ hc]
  rfl

theorem measurements_answered (s : State) (stack : Nat) (hk : stack < 8) (hc : s.fw.cmd = false) :
    ∃ t, exec (.measurements stack) s = .next t ∧ t.fw.results = (s.measured stack).flatMap digestWords ∧ t.fw.status = 2 ^ 63 ∧
      s.keepsMem t := by
  rw [exec_measurements, execMeasurements, if_neg (by omega), command_of_free _ _ _ hc]
  exact ⟨_, rfl, rfl, rfl, fun _ => rfl⟩

theorem spdmRequest_answered (s : State) (stack : Nat) (hk : stack < 8) :
    ∃ t, exec (.spdmRequest stack) s = .next t ∧
      t.host = s.host ++ [.spdm stack (s.measured stack) (Config.signature (s.measured stack))] ∧ t.st = s.st ∧ s.keepsMem t := by
  have hexec : exec (.spdmRequest stack) s = execSpdmRequest stack s := rfl
  rw [hexec, execSpdmRequest, if_neg (by omega)]
  exact ⟨_, rfl, rfl, rfl, fun _ => rfl⟩

theorem hostLinkTraining_of_legal (s : State) (width rate : Nat) (h : linkLegal width rate = true) :
    ∃ t, exec (.hostLinkTraining width rate) s = .next t ∧ t.fw.link = some (width, rate) ∧ t.st = s.st ∧ s.keepsMem t :=
  ⟨_, if_pos h, rfl, rfl, fun _ => rfl⟩

theorem hostLinkTraining_of_illegal (s : State) (width rate : Nat) (h : linkLegal width rate = false) :
    exec (.hostLinkTraining width rate) s = .next s.ticked := if_neg (by simp [h])

/-! ## Reset and takeover (01 R24, R29) -/

/-- A memory reads zero at a key that none of its entries has. -/
theorem Memory.get_of_not_mem (m : Memory) (a : Nat) (h : ∀ c ∈ m, c.1 ≠ a) : m.get a = 0 := by
  induction m with
  | nil => rfl
  | cons c m ih =>
    obtain ⟨hc, hm⟩ := List.forall_mem_cons.1 h
    rw [Memory.get_cons, if_neg hc, ih hm, ite_self]

/-- The lowest of the cores that answer is one of them and at most each. -/
theorem lowestCore_le {l : List Nat} {k : Nat} (h : k ∈ l) : lowestCore l ≤ k ∧ lowestCore l ∈ l := by
  obtain ⟨m, hm, hmem, hle⟩ := exists_min?_of_mem h
  rw [lowestCore, hm]
  exact ⟨hle k h, hmem⟩

theorem reset_leaves (s : State) :
    ∃ t, exec .reset s = .next t ∧ t.st = Strand.reset ∧ t.others = [] ∧ t.fw.crews = [] ∧ t.fw.contexts = [] ∧ t.slots = [] ∧
      t.recq = [] ∧ (∀ a, isHost a = false → t.mem.get a = 0) ∧ t.halves = s.halves ∧ t.host = s.host ∧
      (∀ k ∈ s.fw.answering, k < 8 → t.fw.coordinator ≤ k ∧ t.fw.coordinator ∈ s.fw.answering) := by
  refine ⟨_, rfl, rfl, rfl, rfl, rfl, rfl, rfl, fun a ha => ?_, rfl, rfl, fun k hk h8 => ?_⟩
  · refine Memory.get_of_not_mem _ a fun c hc he => ?_
    have := (List.mem_filter.1 hc).2
    simp [he, ha] at this
  · have hcore : k ∈ [0, 1, 2, 3, 4, 5, 6, 7].filter s.fw.answering.contains :=
      List.mem_filter.2 ⟨by simp; omega, by simpa using hk⟩
    obtain ⟨hle, hmem⟩ := lowestCore_le hcore
    exact ⟨hle, by simpa using (List.mem_filter.1 hmem).2⟩

theorem coordinatorTakeover_leaves (s : State) :
    ∃ t, exec .coordinatorTakeover s = .next t ∧ t.st = s.st ∧ s.keepsMem t ∧
      ((∃ k ∈ s.fw.answering, k ≠ s.fw.coordinator) → t.fw.coordinator ∈ s.fw.answering ∧ t.fw.coordinator ≠ s.fw.coordinator ∧
        (∀ k ∈ s.fw.answering, k ≠ s.fw.coordinator → t.fw.coordinator ≤ k) ∧ t.fw.reservation = none) := by
  have hexec : exec .coordinatorTakeover s = execCoordinatorTakeover s := rfl
  rw [hexec, execCoordinatorTakeover]
  dsimp only
  split
  · next hnone =>
    refine ⟨_, rfl, rfl, fun _ => rfl, ?_⟩
    rintro ⟨k, hk, hne⟩
    have hmem : k ∈ s.fw.answering.filter (fun k => k != s.fw.coordinator) := by simp [hk, hne]
    simp [List.min?_eq_none_iff.1 hnone] at hmem
  · next m hm =>
    obtain ⟨hmem, hle⟩ := List.min?_eq_some_iff.1 hm
    obtain ⟨hans, hne⟩ := List.mem_filter.1 hmem
    exact ⟨_, rfl, rfl, fun _ => rfl, fun _ => ⟨hans, by simpa using hne, fun k hk hkc => hle k (by simp [hk, hkc]), rfl⟩⟩

/-- Settles O54, by the outcomes of an update, of its ends, and of each request and event of the firmware. -/
theorem updatesResetAndTakeover : Obligations.UpdatesResetAndTakeover := by
  intro s unit image signed
  refine ⟨fun hu => ⟨update_of_busy s unit image signed hu, update_of_mailbox_busy s unit image signed hu, ?_, ?_, ?_,
      update_not_drained s unit hu⟩, update_noSuchUnit s unit image signed,
    fun stack hk => ⟨measurements_of_busy s stack hk, measurements_answered s stack hk, spdmRequest_answered s stack hk⟩,
    fun width rate => ⟨hostLinkTraining_of_legal s width rate, hostLinkTraining_of_illegal s width rate⟩,
    reset_leaves s, coordinatorTakeover_leaves s⟩
  · rintro hb hc rfl
    exact update_of_unsigned s unit image hu hb hc
  · rintro hb hc rfl
    exact update_taken s unit image hu hb hc
  · intro hb hr
    have hr := (restarted_iff s unit).2 hr
    obtain ⟨t, ht, himg, hst, hm, hl, hmem⟩ := update_completed s unit hu hb hr
    obtain ⟨r, hr, rimg, rst, rm, rl, rmem⟩ := update_failed s unit hu hb hr
    obtain ⟨hact, hbusy, hrun⟩ := switch_eq (s.image unit)
    obtain ⟨ract, rbusy, rrun⟩ := rollBack_eq (s.image unit)
    exact ⟨⟨t, ht, by rw [himg, hact], by rw [himg, hbusy], by rw [himg]; exact hrun, hst, hm, hl, hmem⟩,
      ⟨r, hr, by rw [rimg, ract], by rw [rimg, rbusy], by rw [rimg]; exact rrun, rst, rm, rl, rmem⟩⟩

end Sys2Proof.Machine
end

section
/-! PROOFS. What makes a state good, and outcomes that lead to good states only (Safety.lean: State.good). -/

namespace Sys2Proof.Machine

/-! ## What makes a state good -/

theorem Strand.good_iff (t : Strand) : t.good = true ↔
    t.x[0] = 0 ∧ t.loops.length ≤ 6 ∧ 1 ≤ t.csr.vslip.toNat ∧ t.csr.vslip.toNat ≤ 16 := by
  simp only [Strand.good, Bool.and_eq_true, beq_iff_eq, decide_eq_true_eq, and_assoc]

theorem State.good_iff (s : State) : s.good = true ↔ s.mem.wf = true ∧ s.st.good = true ∧ (∀ t ∈ s.others, t.good = true) ∧
    ∀ f ∈ s.frames, f.loops.length ≤ 6 := by
  simp only [State.good, Bool.and_eq_true, List.all_eq_true, decide_eq_true_eq, and_assoc]

theorem State.good_mem {s : State} (h : s.good = true) : s.mem.wf = true := (s.good_iff.1 h).1

theorem State.good_st {s : State} (h : s.good = true) : s.st.good = true := (s.good_iff.1 h).2.1

theorem State.good_others {s : State} (h : s.good = true) : ∀ t ∈ s.others, t.good = true := (s.good_iff.1 h).2.2.1

theorem State.good_frames {s : State} (h : s.good = true) : ∀ f ∈ s.frames, f.loops.length ≤ 6 := (s.good_iff.1 h).2.2.2

theorem State.good_loops {s : State} (h : s.good = true) : s.st.loops.length ≤ 6 := (s.st.good_iff.1 (good_st h)).2.1

theorem State.good_vslip {s : State} (h : s.good = true) : 1 ≤ s.st.csr.vslip.toNat ∧ s.st.csr.vslip.toNat ≤ 16 :=
  (s.st.good_iff.1 (good_st h)).2.2

/-- A state is good where what the invariant speaks of is good whenever it is so in a good state. -/
theorem State.good_of_parts {s t : State} (h : s.good = true) (hm : s.mem.wf = true → t.mem.wf = true)
    (hst : s.st.good = true → t.st.good = true)
    (ho : (∀ u ∈ s.others, u.good = true) → ∀ u ∈ t.others, u.good = true) (hf : t.frames = s.frames) : t.good = true :=
  t.good_iff.2 ⟨hm (good_mem h), hst (good_st h), ho (good_others h), hf ▸ good_frames h⟩

/-- A state is good where it has what the invariant speaks of from a good one. -/
theorem State.good_of_same {s t : State} (h : s.good = true) (hm : t.mem = s.mem) (hx : t.st.x = s.st.x) (hl : t.st.loops = s.st.loops)
    (hc : t.st.csr = s.st.csr) (ho : t.others = s.others) (hf : t.frames = s.frames) : t.good = true :=
  good_of_parts h (hm ▸ id) (fun hst => (Strand.good_iff _).2 (by rw [hx, hl, hc]; exact (Strand.good_iff _).1 hst)) (ho ▸ id) hf

/-- What keeps each strand good keeps a list of them good. -/
theorem Strand.good_map {l : List Strand} {g : Strand → Strand} (hg : ∀ t, t.good = true → (g t).good = true)
    (h : ∀ u ∈ l, u.good = true) : ∀ u ∈ l.map g, u.good = true := by
  intro u hu
  obtain ⟨t, ht, rfl⟩ := List.mem_map.1 hu
  exact hg t (h t ht)

/-- A good strand stays good with a loop stack of at most six levels. -/
theorem Strand.good_setLoops {t : Strand} {ls : List LoopLvl} (hl : ls.length ≤ 6) (h : t.good = true) :
    ({ t with loops := ls } : Strand).good = true := by
  obtain ⟨hx, -, hv⟩ := t.good_iff.1 h
  exact (Strand.good_iff _).2 ⟨hx, hl, hv⟩

/-- A good strand stays good with a vslip from 1 to 16. -/
theorem Strand.good_setCsr {t : Strand} {c : Csrs} (hc : 1 ≤ c.vslip.toNat ∧ c.vslip.toNat ≤ 16) (h : t.good = true) :
    ({ t with csr := c } : Strand).good = true := by
  obtain ⟨hx, hl, -⟩ := t.good_iff.1 h
  exact (Strand.good_iff _).2 ⟨hx, hl, hc⟩

/-! ## Outcomes that lead to good states only -/

/-- Where an outcome is a next state, that state is good. -/
def Out.Good (o : Out) : Prop := ∀ t, o = .next t → t.good = true

theorem Out.good_next {s : State} (h : s.good = true) : Out.Good (.next s) := by
  rintro _ ⟨⟩
  exact h

theorem Out.good_fault (f : Fault) : Out.Good (.fault f) := by rintro _ ⟨⟩

theorem Out.good_refused (r : Refusal) : Out.Good (.refused r) := by rintro _ ⟨⟩

/-- The state in which an access leaves the machine is good. -/
def Got.Good {α : Type} (g : Got α) : Prop :=
  match g with
  | .val _ s | .wait s | .trap _ _ s => s.good = true

theorem Got.good_val {α : Type} {a : α} {s : State} (h : s.good = true) : (Got.val a s).Good := h

theorem Got.good_wait {α : Type} {s : State} (h : s.good = true) : (Got.wait s : Got α).Good := h

theorem Got.good_trap {α : Type} {c : BitVec 8} {v : Word} {s : State} (h : s.good = true) : (Got.trap c v s : Got α).Good := h

theorem Got.Good.val {α : Type} {g : Got α} {a : α} {s : State} (h : g.Good) (e : g = .val a s) : s.good = true := by
  subst e
  exact h

theorem Got.Good.wait {α : Type} {g : Got α} {s : State} (h : g.Good) (e : g = .wait s) : s.good = true := by
  subst e
  exact h

theorem Got.Good.trap {α : Type} {g : Got α} {c : BitVec 8} {v : Word} {s : State} (h : g.Good) (e : g = .trap c v s) : s.good = true := by
  subst e
  exact h

/-- The state in which a record's access leaves the machine is good. -/
def RecAt.Good (r : RecAt) : Prop :=
  match r with
  | .waits s | .bad s => s.good = true
  | .key _ => True

theorem RecAt.good_key {k : Nat} : (RecAt.key k).Good := trivial

theorem RecAt.good_waits {s : State} (h : s.good = true) : (RecAt.waits s).Good := h

theorem RecAt.good_bad {s : State} (h : s.good = true) : (RecAt.bad s).Good := h

theorem RecAt.Good.waits {r : RecAt} {s : State} (h : r.Good) (e : r = .waits s) : s.good = true := by
  subst e
  exact h

theorem RecAt.Good.bad {r : RecAt} {s : State} (h : r.Good) (e : r = .bad s) : s.good = true := by
  subst e
  exact h

theorem good_foldl {α : Type} {f : State → α → State} {l : List α} {s : State}
    (hf : ∀ s a, s.good = true → (f s a).good = true) (h : s.good = true) : (l.foldl f s).good = true := by
  induction l generalizing s with
  | nil => exact h
  | cons a l ih => exact ih (hf s a h)

/-- An event that leads from good states to good states. -/
def Event.Keeps (e : Event) : Prop := ∀ s : State, s.good = true → Out.Good (e s)

theorem keeps_of_mem_singleton {e f : Event} (hf : Event.Keeps f) (he : e ∈ [f]) : Event.Keeps e := List.mem_singleton.1 he ▸ hf

end Sys2Proof.Machine
end

section
/-! PROOFS. Noted instructions: what they note, and the gate they go through (04 Table 4.1; 05 R125). -/

namespace Sys2Proof.Machine

/-! ## What a noted instruction is (04 Table 4.1) -/

/-- An instruction of the V format notes by its shape. -/
theorem exec_of_vShape {i : Instr} {f : VF} {op : NOp} {cls : Cls} {form : Form} (h : vShape i = some (f, op, cls, form)) (s : State) :
    exec i s = noteV i f op cls form (vBad i) s := by
  unfold vShape at h
  split at h <;> cases h <;> rfl

/-- The illegal states of an instruction of the V format have the cause 0x12 (05 R116). -/
theorem noteCause_of_vShape {i : Instr} {p : VF × NOp × Cls × Form} (h : vShape i = some p) : noteCause i = 0x12 := by
  unfold vShape at h
  split at h <;> cases h <;> rfl

/-- A noted instruction goes through the gate of notings with what it notes; vill and its own illegal state have one cause. -/
theorem exec_of_noteOf {i : Instr} {s : State} {xs : List (BitVec 5)} {n : Note} (h : noteOf i s = some (xs, n)) :
    ∃ mk, exec i s = noteGate s i xs (some (noteCause i)) mk ∧ mk s = n ∧ n.code = noteCause i := by
  unfold noteOf at h
  split at h
  · next f op cls form hv =>
    cases h
    rw [noteCause_of_vShape hv, exec_of_vShape hv]
    exact ⟨_, rfl, rfl, rfl⟩
  · unfold otherNote at h
    split at h <;> cases h <;> exact ⟨_, rfl, rfl, rfl⟩

end Sys2Proof.Machine
end

section
/-! PROOFS. The invariant under the shared operations: registers, traps, completion and package memory. -/

namespace Sys2Proof.Machine

variable {s : State}

/-! ## Machine/State -/

theorem Strand.reset_good : Strand.reset.good = true := by decide

theorem State.reset_good : State.reset.good = true := by decide

/-! ## Machine/Ops -/

theorem ok_good (h : s.good = true) : (ok s).Good := Out.good_next h

theorem State.setX_good {r : BitVec 5} {v : Word} (h : s.good = true) : (s.setX r v).good = true :=
  good_of_kept (setX_goodKept s r v) h

theorem State.setF_good {r : BitVec 5} {v : Word} (h : s.good = true) : (s.setF r v).good = true := h

theorem State.setO_good {i : Fin 8} {v : Word} (h : s.good = true) : (s.setO i v).good = true := h

theorem State.setVec_good {v : Vec} (h : s.good = true) : (s.setVec v).good = true := h

theorem State.setPk_good {p : Pricking} (h : s.good = true) : (s.setPk p).good = true := h

theorem State.setPass_good {p : Option Pass} (h : s.good = true) : (s.setPass p).good = true := h

theorem State.setMat_good {m : Mat} (h : s.good = true) : (s.setMat m).good = true := h

theorem State.setEng_good {e : Eng} (h : s.good = true) : (s.setEng e).good = true := h

theorem State.setFab_good {f : Fabric} (h : s.good = true) : (s.setFab f).good = true := h

theorem State.setCsr_good {c : Csrs} (h : s.good = true) (hc : c.vslip = s.st.csr.vslip) : (s.setCsr c).good = true :=
  good_of_parts h id (Strand.good_setCsr (by rw [hc]; exact good_vslip h)) id rfl

theorem State.setSStat_good {c : SStat} (h : s.good = true) : (s.setSStat c).good = true := h

theorem State.dirtyVs_good (h : s.good = true) : s.dirtyVs.good = true := by
  unfold State.dirtyVs
  split
  · exact State.setSStat_good h
  · exact h

theorem State.dirtyTs_good (h : s.good = true) : s.dirtyTs.good = true := by
  unfold State.dirtyTs
  split
  · exact State.setSStat_good h
  · exact h

theorem State.dirtyIf_good {t : State} (ht : t.good = true) : (s.dirtyIf t).good = true := by
  unfold State.dirtyIf
  split
  · exact ht
  · exact State.dirtyVs_good ht

theorem State.raise_good {t : TrapInfo} (h : s.good = true) : (s.raise t).good = true := h

theorem State.raiseOnce_good {t : TrapInfo} (h : s.good = true) : (s.raiseOnce t).good = true := by
  unfold State.raiseOnce
  split
  · exact h
  · exact State.raise_good h

theorem State.startPass_good {want : Option Nat} {stream : Bool} {shadow : List Shade} {serial : Nat} {mode : Bool} (h : s.good = true) :
    (s.startPass want stream shadow serial mode).good = true := by
  unfold State.startPass
  dsimp only
  split
  · split
    · exact State.dirtyIf_good (State.setPk_good h)
    · exact State.raise_good (State.dirtyIf_good (State.setPk_good h))
  · exact State.setPass_good (State.setPk_good (State.setEng_good (State.dirtyVs_good h)))

theorem State.forceAhead_good (h : s.good = true) : s.forceAhead.good = true := by
  unfold State.forceAhead
  dsimp only
  refine State.dirtyIf_good ?_
  split
  · exact State.setPk_good h
  · split
    · exact h
    · split
      · exact State.setVec_good (State.setEng_good h)
      · exact State.setVec_good h

theorem forceFor_good {want : Option Nat} (h : s.good = true) : (forceFor want s).good = true := by
  unfold forceFor
  split
  · exact State.forceAhead_good h
  · split
    · exact State.startPass_good h
    · exact State.dirtyIf_good (State.setPk_good h)

theorem force_good (h : s.good = true) : (force s).good = true := forceFor_good h

theorem State.mapCrews_good {g : Crew → Crew} (h : s.good = true) : (s.mapCrews g).good = true := h

theorem Strand.stop_good {t : Strand} (ht : t.good = true) : t.stop.good = true := ht

theorem State.killCrew_good {c : Crew} {k : BitVec 8 × Word × Word × Word} (h : s.good = true) : (s.killCrew c k).good = true := by
  have hstop : ∀ t : Strand, t.good = true → (if t.ofCrew c then t.stop else t).good = true := by
    intro t ht
    split <;> exact ht
  exact good_of_parts h id (hstop _) (Strand.good_map hstop) rfl

theorem State.killTask_good {k : BitVec 8 × Word × Word × Word} (h : s.good = true) : (s.killTask k).good = true := by
  unfold State.killTask
  split
  · exact State.killCrew_good h
  · exact h

theorem escalate_good {t : TrapInfo} {imp : Bool} {pc : Word} (h : s.good = true) : (escalate s t imp pc).good = true :=
  State.killTask_good h

theorem trapForce_good (h : s.good = true) : (trapForce s).good = true := by
  unfold trapForce
  split
  · exact h
  · exact force_good h

theorem trapEnter_good {t : TrapInfo} {imp : Bool} {pc : Word} (h : s.good = true) : (trapEnter s t imp pc).good = true := by
  unfold trapEnter
  split
  · exact escalate_good h
  · exact h

theorem trapEntry_good {t : TrapInfo} {imp : Bool} {pc : Word} (h : s.good = true) : (trapEntry s t imp pc).good = true :=
  trapEnter_good (trapForce_good h)

theorem trapV_good {code : BitVec 8} {stval : Word} (h : s.good = true) : (trapV s code stval).Good := ok_good (trapEntry_good h)

theorem trapE_good {code : BitVec 8} {stval : Word} {elem : Nat} (h : s.good = true) : (trapE s code stval elem).Good := by
  unfold trapE
  split
  · exact ok_good (trapEntry_good h)
  · exact trapV_good h

theorem trapI_good {code : BitVec 8} {i : Instr} (h : s.good = true) : (trapI s code i).Good := trapV_good h

theorem State.counted_good (h : s.good = true) : s.counted.good = true := h

theorem advance_good (h : s.good = true) : (advance s).good = true := good_of_kept (advance_goodKept s) h

theorem retire_good (h : s.good = true) : (retire s).Good := ok_good (advance_good h)

theorem loopKeep_length (target : Word) (ls : List LoopLvl) : (loopKeep target ls).length ≤ ls.length := by
  induction ls with
  | nil => exact Nat.le_refl _
  | cons l ls ih =>
    unfold loopKeep
    split
    · exact Nat.le_refl _
    · exact Nat.le_succ_of_le ih

theorem jumpTo_good {target : Word} (h : s.good = true) : (jumpTo s target).good = true :=
  State.good_of_parts h id (Strand.good_setLoops (Nat.le_trans (loopKeep_length target s.st.loops) (State.good_loops h))) id rfl

theorem transfer_good {s' : State} {target : Word} (h : s.good = true) (hs' : s'.good = true) : (transfer s s' target).Good := by
  unfold transfer
  split
  · exact ok_good (jumpTo_good hs')
  · exact trapV_good h

theorem stall_good (h : s.good = true) : (stall s).Good := ok_good h

theorem tretEffect_good (h : s.good = true) : (tretEffect s).Good := by
  unfold tretEffect
  dsimp only
  split
  · exact ok_good (State.killTask_good h)
  split
  · exact trapV_good h
  · exact ok_good (State.good_of_same h rfl rfl rfl rfl rfl rfl)

theorem State.putByte_good {w : Writer} {k : Nat} {b : Byte} (h : s.good = true) : (s.putByte w k b).good = true :=
  good_of_parts h (s.putByte_wf w k b) id (Strand.good_map fun _ ht => ht) rfl

theorem Strand.passedBy_good {t : Strand} {cells : List Host.Cell} (ht : t.good = true) : (t.passedBy cells).good = true := ht

theorem State.passBy_good {w : Writer} {cells : List Host.Cell} (h : s.good = true) : (s.passBy w cells).good = true := by
  refine good_of_parts h id (fun ht => ?_) (Strand.good_map fun _ ht => ht) rfl
  unfold State.passBy
  dsimp only
  split <;> exact ht

theorem State.unhide_good {w : Writer} {cells : List Host.Cell} (h : s.good = true) : (s.unhide w cells).good = true := by
  unfold State.unhide
  split
  · exact h
  · exact State.setEng_good h

theorem State.write_good {w : Writer} {cells : List Host.Cell} (h : s.good = true) : (s.write w cells).good = true := by
  unfold State.write
  dsimp only
  refine good_foldl (fun _ _ h => State.putByte_good h) ?_
  exact State.good_of_same (State.unhide_good (State.passBy_good h)) rfl rfl rfl rfl rfl rfl

end Sys2Proof.Machine
end

section
/-! PROOFS. The invariant under translation, accesses, the error log and fences. -/

namespace Sys2Proof.Machine

variable {s : State}

/-! ## Machine/Mem -/

theorem State.setCount_good {unit : ErrUnit} {cls n : Nat} (h : s.good = true) : (s.setCount unit cls n).good = true := h

theorem State.logErr_good {stack what cls cause : Nat} {unit : ErrUnit} {task place : Nat} (h : s.good = true) :
    (s.logErr stack what cls cause unit task place).good = true := h

theorem State.logGranule_good {k cls cause task : Nat} (h : s.good = true) : (s.logGranule k cls cause task).good = true := h

theorem State.logUnit_good {k cls cause task : Nat} (h : s.good = true) : (s.logUnit k cls cause task).good = true := by
  unfold State.logUnit
  split
  · exact State.logGranule_good h
  · split
    · exact h
    · exact State.logErr_good h

theorem State.logDropped_good {cells : List Host.Cell} {task : Nat} (h : s.good = true) : (s.logDropped cells task).good = true :=
  good_foldl (fun _ _ h => State.logUnit_good h) h

theorem State.postFb_good {stack fe src asid : Nat} {task : BitVec 32} {use : Use} {va : Nat} (h : s.good = true) :
    (s.postFb stack fe src asid task use va).good = true := h

theorem State.endWaits_good {fe src who : Nat} (h : s.good = true) : (s.endWaits fe src who).good = true := h

theorem State.pageFault_good {t : Strand} {src who va : Nat} {use : Use} (h : s.good = true) :
    (s.pageFault t src who va use).2.good = true := by
  unfold State.pageFault
  dsimp only
  split
  · split <;> exact h
  · have hbase : (if s.pfWaits.any (fun p => p.announces t.fe (va / 2 ^ 16) src) then s
        else s.postFb (stackOf t.fe) t.fe src t.br.asid t.br.task use va).good = true := by
      split
      · exact h
      · exact State.postFb_good h
    exact hbase

theorem State.migrateWait_good {t : Strand} {src who va : Nat} {use : Use} (h : s.good = true) :
    (s.migrateWait t src who va use).good = true := by
  unfold State.migrateWait
  dsimp only
  split <;> exact h

theorem State.otherPage_good {sup : Bool} {va n src : Nat} {use : Use} {fva : Nat} (h : s.good = true) :
    (s.otherPage sup va n src use fva).good = true := by
  unfold State.otherPage
  dsimp only
  split
  · exact h
  · split
    · exact State.pageFault_good h
    · exact State.migrateWait_good h
    · exact h

theorem State.untrip_good {t : Trip} (h : s.good = true) : (s.untrip t).good = true := h

theorem State.sends_good {src va : Nat} {write : State → State} (h : s.good = true) (hwrite : ∀ (s : State), s.good = true →
    (write s).good = true) :
    (s.sends src va write).Good := by
  unfold State.sends
  split
  · refine Got.good_trap ?_
    refine State.untrip_good ?_
    split
    · exact hwrite _ h
    · exact h
  · exact Got.good_val (hwrite _ h)

theorem State.access_good {va n src : Nat} {use : Use} (h : s.good = true) : (s.access va n src use).Good := by
  unfold State.access
  split
  · split
    · exact Got.good_trap (State.endWaits_good h)
    · exact Got.good_wait h
  · split
    · exact Got.good_val h
    · dsimp only
      split
      · exact Got.good_trap (State.pageFault_good h)
      · exact Got.good_wait (State.otherPage_good (State.pageFault_good h))
    · exact Got.good_wait (State.otherPage_good (State.migrateWait_good h))
    · exact Got.good_trap h
    · exact Got.good_wait h

theorem State.readN_good {va n src : Nat} {use : Use} (h : s.good = true) : (s.readN va n src use).Good := by
  unfold State.readN
  split
  · split
    · exact Got.good_trap ((State.access_good h).val ‹_›)
    · exact Got.good_val ((State.access_good h).val ‹_›)
  · exact Got.good_wait ((State.access_good h).wait ‹_›)
  · exact Got.good_trap ((State.access_good h).trap ‹_›)

theorem State.storeCells_good {cells : List Host.Cell} (h : s.good = true) : (s.storeCells cells).good = true :=
  State.write_good (State.logDropped_good h)

theorem State.setPart_good {w : Option (Word × Bool)} (h : s.good = true) : (s.setPart w).good = true := h

theorem State.storeRest_good {va : Nat} {bs : List Byte} {src : Nat} (h : s.good = true) : (s.storeRest va bs src).Good := by
  unfold State.storeRest
  split
  · split
    · exact Got.good_trap (State.endWaits_good h)
    · exact Got.good_wait h
  · split
    · exact State.sends_good h (fun _ h => State.setPart_good (State.storeCells_good h))
    · dsimp only
      split
      · split
        · split
          · split
            · exact Got.good_trap (State.pageFault_good (State.setPart_good (State.storeCells_good h)))
            · exact Got.good_wait (State.otherPage_good (State.pageFault_good (State.setPart_good (State.storeCells_good h))))
          · split
            · exact Got.good_trap (State.pageFault_good (State.setPart_good (State.storeCells_good h)))
            · exact Got.good_wait (State.otherPage_good (State.pageFault_good (State.setPart_good (State.storeCells_good h))))
        · split
          · exact Got.good_trap (State.pageFault_good h)
          · exact Got.good_wait (State.otherPage_good (State.pageFault_good h))
      · refine Got.good_trap ?_
        split
        · exact State.setPart_good (State.storeCells_good h)
        · exact h
      · refine Got.good_wait ?_
        refine State.otherPage_good ?_
        refine State.migrateWait_good ?_
        split
        · exact State.setPart_good (State.storeCells_good h)
        · exact h
      · refine Got.good_wait ?_
        split
        · exact State.setPart_good (State.storeCells_good h)
        · exact h

theorem State.storeN_good {va : Nat} {bs : List Byte} {src : Nat} (h : s.good = true) : (s.storeN va bs src).Good :=
  State.storeRest_good h

theorem Got.andThen_good {α : Type} {g : Got α} {k : α → State → Out} (hg : g.Good) (hk : ∀ (a : α) (s : State), s.good = true →
    (k a s).Good) :
    (g.andThen k).Good := by
  unfold Got.andThen
  split
  · exact hk _ _ hg
  · exact stall_good hg
  · exact trapV_good hg

theorem State.fetch_good (h : s.good = true) : s.fetch.Good := by
  unfold State.fetch
  split
  · exact Got.good_trap h
  · split
    · split
      · exact Got.good_trap ((State.access_good h).val ‹_›)
      · exact Got.good_val ((State.access_good h).val ‹_›)
    · exact Got.good_wait ((State.access_good h).wait ‹_›)
    · exact Got.good_trap ((State.access_good h).trap ‹_›)

/-! ## Machine/Errors -/

theorem State.setHalf_good {w : BitVec 16} {r : HalfRec} (h : s.good = true) : (s.setHalf w r).good = true := h

theorem State.setDomain_good {d : Nat} {v : Domain} (h : s.good = true) : (s.setDomain d v).good = true := h

theorem State.countEvent_good {d : Nat} (h : s.good = true) : (s.countEvent d).good = true := by
  unfold State.countEvent
  split
  · exact h
  · dsimp only
    split <;> exact State.setDomain_good h

theorem State.halfEvent_good {w : BitVec 16} {what cls place : Nat} (h : s.good = true) :
    (s.halfEvent w what cls place).good = true := State.logErr_good (State.countEvent_good h)

theorem State.feEvent_good {fe cls place : Nat} (h : s.good = true) : (s.feEvent fe cls place).good = true :=
  State.logErr_good (State.countEvent_good h)

theorem State.mismatch_good {w cls : Nat} {cause : BitVec 8} (h : s.good = true) : (s.mismatch w cls cause).good = true :=
  State.logErr_good (good_foldl (fun _ _ h => State.countEvent_good h) h)

theorem State.blameHalf_good {w : Nat} (h : s.good = true) : (s.blameHalf w).good = true :=
  good_foldl (fun _ _ h => State.setCount_good h) h

theorem State.badEntry_good {cause : BitVec 8} (h : s.good = true) : (s.badEntry cause).good = true := h

theorem Strand.degrade_good {t : Strand} {w : BitVec 16} {lanes : List Nat} (ht : t.good = true) :
    (t.degrade w lanes).good = true := ht

theorem State.degradeHalf_good {half : BitVec 16} {lanes : List Nat} (h : s.good = true) : (s.degradeHalf half lanes).good = true := by
  have hdeg : ∀ t : Strand, t.good = true → (if t.run = .unbound then t else t.degrade half lanes).good = true := by
    intro t ht
    split <;> exact ht
  exact good_of_parts h id (hdeg _) (Strand.good_map hdeg) rfl

theorem State.retireLane_good {w : BitVec 16} {lane : Option (Fin 16)} (h : s.good = true) : (s.retireLane w lane).good = true := by
  unfold State.retireLane
  dsimp only
  split
  · split <;> exact State.degradeHalf_good (State.setHalf_good h)
  · exact State.degradeHalf_good (State.setHalf_good h)

theorem State.lastingHalf_good {w : BitVec 16} {lane : Option (Fin 16)} (h : s.good = true) : (s.lastingHalf w lane).good = true :=
  State.retireLane_good (State.halfEvent_good h)

theorem State.tileFixed_good {off : Nat} {lasting : Bool} (h : s.good = true) : (s.tileFixed off lasting).good = true := by
  unfold State.tileFixed
  split
  · dsimp only
    split
    · exact State.retireLane_good (State.halfEvent_good h)
    · exact State.halfEvent_good h
  · exact State.feEvent_good h

theorem State.tileBad_good {off : Nat} (h : s.good = true) : (s.tileBad off).good = true := h

theorem State.compared_good {i : Option Nat} (h : s.good = true) : (s.compared i).Good := by
  unfold State.compared
  split
  · split
    · exact Got.good_val h
    · split
      · exact Got.good_trap (State.mismatch_good (State.untrip_good h))
      · exact Got.good_val (State.mismatch_good (State.untrip_good h))
  · exact Got.good_val h

theorem State.readLane_good {w lane r pos : Nat} (h : s.good = true) : (s.readLane w lane r pos).good = true := by
  unfold State.readLane
  dsimp only
  split
  · split
    · exact State.logErr_good h
    · exact h
  · split
    · exact State.good_of_same (State.retireLane_good (State.halfEvent_good h)) rfl rfl rfl rfl rfl rfl
    · exact State.halfEvent_good (State.setVec_good h)

theorem State.readWords_good {ws : List (Nat × Nat)} (h : s.good = true) : (s.readWords ws).good = true := by
  unfold State.readWords
  split
  · exact h
  · refine good_foldl ?_ h
    intro _ _ h
    dsimp only
    refine good_foldl ?_ h
    intro _ _ h
    refine State.readLane_good ?_
    split
    · exact State.readLane_good h
    · exact h

theorem State.logLost_good {r j : Nat} {code : BitVec 8} (h : s.good = true) : (s.logLost r j code).good = true := h

theorem State.wroteWords_good {written : Nat → Nat → Bool} (h : s.good = true) : (s.wroteWords written).good = true := by
  unfold State.wroteWords
  split
  · exact h
  · exact State.setVec_good h

/-! ## Machine/Fence -/

theorem State.addFence_good {a b : Nat} (h : s.good = true) : (s.addFence a b).good = true := h

end Sys2Proof.Machine
end

section
/-! PROOFS. The invariant under fabric runs and passes. -/

namespace Sys2Proof.Machine

variable {s : State}

/-! ## Machine/Fabric -/

theorem State.setRun_good {r : Option Run} (h : s.good = true) : (s.setRun r).good = true := h

theorem bobbinTurn_good {f : BW} {extra : List Nat} {float : Bool} {eff : Run → Nat → Bobbin → Nat × FFlags → Nat × FFlags → Run}
    (h : s.good = true) :
    (bobbinTurn s f extra float eff).Good := by
  unfold bobbinTurn
  split
  · exact ok_good h
  · dsimp only
    split
    · exact ok_good h
    · split
      · exact ok_good (State.setRun_good h)
      · split
        · exact ok_good (State.setRun_good h)
        · split <;> exact ok_good (State.setRun_good h)

theorem bobbinData_good {f : BW} {float fp : Bool} {op : Nat → Nat → Nat} (h : s.good = true) : (bobbinData s f float fp op).Good :=
  bobbinTurn_good h

theorem bobbinFp_good {f : BW} {fp : Bool} {op : Nat → Nat → Nat → Nat × FFlags} (h : s.good = true) : (bobbinFp s f fp op).Good :=
  bobbinTurn_good h

theorem execBAdd_good {f : BW} (h : s.good = true) : (execBAdd f s).Good := bobbinData_good h

theorem execBSub_good {f : BW} (h : s.good = true) : (execBSub f s).Good := bobbinData_good h

theorem execBMul_good {f : BW} (h : s.good = true) : (execBMul f s).Good := bobbinData_good h

theorem execBAnd_good {f : BW} (h : s.good = true) : (execBAnd f s).Good := bobbinData_good h

theorem execBOr_good {f : BW} (h : s.good = true) : (execBOr f s).Good := bobbinData_good h

theorem execBXor_good {f : BW} (h : s.good = true) : (execBXor f s).Good := bobbinData_good h

theorem execBSll_good {f : BW} (h : s.good = true) : (execBSll f s).Good := bobbinData_good h

theorem execBSrl_good {f : BW} (h : s.good = true) : (execBSrl f s).Good := bobbinData_good h

theorem execBSra_good {f : BW} (h : s.good = true) : (execBSra f s).Good := bobbinData_good h

theorem execBMin_good {f : BW} (h : s.good = true) : (execBMin f s).Good := bobbinData_good h

theorem execBMax_good {f : BW} (h : s.good = true) : (execBMax f s).Good := bobbinData_good h

theorem execBMinu_good {f : BW} (h : s.good = true) : (execBMinu f s).Good := bobbinData_good h

theorem execBMaxu_good {f : BW} (h : s.good = true) : (execBMaxu f s).Good := bobbinData_good h

theorem execBMov_good {f : BW} (h : s.good = true) : (execBMov f s).Good := bobbinData_good h

theorem execBFadd_good {f : BW} (h : s.good = true) : (execBFadd f s).Good := bobbinFp_good h

theorem execBFsub_good {f : BW} (h : s.good = true) : (execBFsub f s).Good := bobbinFp_good h

theorem execBFmul_good {f : BW} (h : s.good = true) : (execBFmul f s).Good := bobbinFp_good h

theorem execBFmin_good {f : BW} (h : s.good = true) : (execBFmin f s).Good := bobbinFp_good h

theorem execBFmax_good {f : BW} (h : s.good = true) : (execBFmax f s).Good := bobbinFp_good h

theorem execBFma_good {f : BW} (h : s.good = true) : (execBFma f s).Good := bobbinTurn_good h

theorem execBCeq_good {f : BW} (h : s.good = true) : (execBCeq f s).Good := bobbinData_good h

theorem execBClt_good {f : BW} (h : s.good = true) : (execBClt f s).Good := bobbinData_good h

theorem execBCltu_good {f : BW} (h : s.good = true) : (execBCltu f s).Good := bobbinData_good h

theorem execBFeq_good {f : BW} (h : s.good = true) : (execBFeq f s).Good := bobbinFp_good h

theorem execBFlt_good {f : BW} (h : s.good = true) : (execBFlt f s).Good := bobbinFp_good h

theorem execBFle_good {f : BW} (h : s.good = true) : (execBFle f s).Good := bobbinFp_good h

theorem execBSel_good {f : BW} (h : s.good = true) : (execBSel f s).Good := by
  unfold execBSel
  exact bobbinTurn_good h

theorem execBJ_good {f : BW} (h : s.good = true) : (execBJ f s).Good := bobbinTurn_good h

theorem execBBnz_good {f : BW} (h : s.good = true) : (execBBnz f s).Good := bobbinTurn_good h

theorem execBBz_good {f : BW} (h : s.good = true) : (execBBz f s).Good := bobbinTurn_good h

theorem execBRet_good {f : BW} (h : s.good = true) : (execBRet f s).Good := bobbinTurn_good h

theorem execBHalt_good {f : BW} (h : s.good = true) : (execBHalt f s).Good := bobbinTurn_good h

theorem execBCtx_good {f : BW} (h : s.good = true) : (execBCtx f s).Good := bobbinTurn_good h

theorem execBTfwd_good {f : BW} (h : s.good = true) : (execBTfwd f s).Good := bobbinTurn_good h

theorem execBTget_good {f : BW} (h : s.good = true) : (execBTget f s).Good := bobbinTurn_good h

theorem State.closeRun_good {r : Run} {cyc : Nat} {fault : Bool} (h : s.good = true) : (s.closeRun r cyc fault).good = true := by
  unfold State.closeRun
  dsimp only
  refine State.setFab_good ?_
  refine State.setCsr_good ?_ rfl
  refine State.wroteWords_good ?_
  split
  · exact h
  · exact State.dirtyVs_good (State.setVec_good h)

theorem State.fabricStop_good {kind w : Nat} (h : s.good = true) : (s.fabricStop kind w).good = true := by
  unfold State.fabricStop
  split
  · split
    · dsimp only
      refine State.raiseOnce_good ?_
      refine State.closeRun_good ?_
      split
      · exact State.badEntry_good h
      · exact State.mismatch_good h
    · exact h
  · exact h

theorem State.runSoft_good {second : Bool} {e mask : Nat} {again : Bool} (h : s.good = true) :
    (s.runSoft second e mask again).good = true := by
  unfold State.runSoft
  split
  · exact h
  · dsimp only
    split
    · split
      · exact State.fabricStop_good h
      · exact State.mismatch_good h
    · exact State.setRun_good h

theorem execFabricRunEnd_good (h : s.good = true) : (execFabricRunEnd s).Good := by
  unfold execFabricRunEnd
  split
  · split
    · exact ok_good (State.closeRun_good h)
    · exact ok_good h
  · exact ok_good h

theorem execFabricRunTimeout_good (h : s.good = true) : (execFabricRunTimeout s).Good := by
  unfold execFabricRunTimeout
  split
  · split
    · exact ok_good (State.raiseOnce_good (State.closeRun_good h))
    · exact ok_good h
  · exact ok_good h

theorem runWord_good {i : Instr} (h : s.good = true) : (runWord i s).Good := by
  unfold runWord
  split
  · exact execBAdd_good h
  · exact execBSub_good h
  · exact execBMul_good h
  · exact execBAnd_good h
  · exact execBOr_good h
  · exact execBXor_good h
  · exact execBSll_good h
  · exact execBSrl_good h
  · exact execBSra_good h
  · exact execBMin_good h
  · exact execBMax_good h
  · exact execBMinu_good h
  · exact execBMaxu_good h
  · exact execBMov_good h
  · exact execBFadd_good h
  · exact execBFsub_good h
  · exact execBFmul_good h
  · exact execBFmin_good h
  · exact execBFmax_good h
  · exact execBFma_good h
  · exact execBCeq_good h
  · exact execBClt_good h
  · exact execBCltu_good h
  · exact execBFeq_good h
  · exact execBFlt_good h
  · exact execBFle_good h
  · exact execBSel_good h
  · exact execBJ_good h
  · exact execBBnz_good h
  · exact execBBz_good h
  · exact execBRet_good h
  · exact execBHalt_good h
  · exact execBCtx_good h
  · exact execBTfwd_good h
  · exact execBTget_good h
  · exact execFabricRunEnd_good h
  · exact execFabricRunTimeout_good h
  · exact ok_good h

/-! ## Machine/Pass -/

theorem State.mapCtx_good {g : Context → Context} (h : s.good = true) : (s.mapCtx g).good = true := h

theorem State.passWrite_good {cls : Nat} {cells : List Host.Cell} (h : s.good = true) : (s.passWrite cls cells).good = true := by
  unfold State.passWrite
  dsimp only
  split
  · exact State.write_good (State.setVec_good h)
  · exact State.write_good h

theorem Pass.perform_good {p : Pass} {n : Node} {a : State × FFlags} {q : Put} (h : a.1.good = true) : (p.perform n a q).1.good = true := by
  unfold Pass.perform
  split <;> exact State.passWrite_good h

/-- A state that a fold carries with flags stays good. -/
theorem good_foldl_fst {α β : Type} {f : State × β → α → State × β} {l : List α} {a : State × β}
    (hf : ∀ a x, a.1.good = true → (f a x).1.good = true) (h : a.1.good = true) : (l.foldl f a).1.good = true := by
  induction l generalizing a with
  | nil => exact h
  | cons x l ih => exact ih (hf a x h)

theorem Pass.performAll_good {p : Pass} {pl : Plan} {sel : Node → Put → Bool} (h : s.good = true) : (p.performAll pl sel s).1.good = true :=
  good_foldl_fst (fun _ _ ha => good_foldl_fst (fun _ _ hb => Pass.perform_good hb) ha) h

theorem Plan.publish_good {pl : Plan} {lo hi : Nat} (h : s.good = true) : (pl.publish lo hi s).good = true := by
  unfold Plan.publish
  refine good_foldl ?_ h
  intro _ _ h
  dsimp only
  split
  · exact State.mapCtx_good h
  · exact h

theorem Pass.materialise_good {p : Pass} {env : List (Nat × NodeRes)} (h : s.good = true) : (p.materialise env s).good = true :=
  State.wroteWords_good (State.setVec_good h)

theorem State.setPerm_good {p : Perm} (h : s.good = true) : (s.setPerm p).good = true := State.wroteWords_good (State.setVec_good h)

theorem State.act_good {a : Act} (h : s.good = true) : (s.act a).good = true := by
  unfold State.act
  split
  · exact State.setVec_good h
  · exact State.setO_good h
  · split
    · exact State.raiseOnce_good (State.logLost_good h)
    · exact State.setPerm_good (State.readWords_good h)

theorem State.resume_good (h : s.good = true) : s.resume.good = true := by
  unfold State.resume
  split
  · exact State.setVec_good h
  · dsimp only
    split
    · exact State.startPass_good (State.setPk_good (good_foldl (fun _ _ h => State.act_good h) (State.setVec_good h)))
    · exact State.setPk_good (good_foldl (fun _ _ h => State.act_good h) (State.setVec_good h))

theorem Pass.results_good {p : Pass} {pl : Plan} {fl : FFlags} (h : s.good = true) : (p.results pl fl s).good = true := by
  unfold Pass.results
  dsimp only
  refine State.setCsr_good (good_foldl (fun s n h => ?_) h) (by dsimp only)
  split
  · exact State.setO_good h
  · exact h

theorem Pass.finish_good {p : Pass} {pl : Plan} (h : s.good = true) : (p.finish pl s).good = true := by
  unfold Pass.finish
  dsimp only
  refine State.resume_good ?_
  refine State.dirtyVs_good ?_
  refine State.setVec_good ?_
  split
  · exact State.setPk_good (Pass.results_good (Plan.publish_good (Pass.performAll_good (State.readWords_good h))))
  · exact Pass.materialise_good (Pass.results_good (Plan.publish_good (Pass.performAll_good (State.readWords_good h))))

theorem Pass.partly_good {p : Pass} {pl : Plan} {lim : Nat} {ms : List (Nat × Nat × Option Nat)} (h : s.good = true) :
    (p.partly pl lim ms s).1.good = true := by
  unfold Pass.partly
  refine good_foldl (fun s m hs => ?_) (Plan.publish_good (Pass.performAll_good (State.readWords_good h)))
  split
  · exact State.mapCtx_good hs
  · exact hs

theorem Pass.undo_good {p : Pass} (h : s.good = true) : (p.undo s).good = true := h

theorem State.passWaitsGone_good (h : s.good = true) : s.passWaitsGone.good = true := h

theorem Pass.logWord_good {p : Pass} {pl : Plan} {e : Nat} {n : Node} {code : BitVec 8} (h : s.good = true) :
    (p.logWord pl e n code s).good = true := by
  unfold Pass.logWord
  split
  · exact State.logLost_good h
  · exact h

theorem Pass.logError_good {p : Pass} {e : Nat} {n : Node} {kind : Nat} {code : BitVec 8} (h : s.good = true) :
    (p.logError e n kind code s).good = true := by
  unfold Pass.logError
  split
  · exact h
  · split
    · exact State.badEntry_good h
    · split
      · exact State.mismatch_good h
      · exact h

theorem State.raisePass_good {t : TrapInfo} (h : s.good = true) : (s.raisePass t).good = true := by
  unfold State.raisePass
  split
  · exact h
  · exact State.raise_good h

theorem Pass.lostPut_good {p : Pass} {e : Nat} {n : Node} (h : s.good = true) : (p.lostPut e n s).good = true := by
  unfold Pass.lostPut
  dsimp only
  split
  · split
    · exact Pass.perform_good h
    · exact h
  · exact h

theorem Pass.fail_good {p : Pass} {pl : Plan} {e : Nat} {n : Node} {kind src va : Nat} (h : s.good = true) :
    (p.fail pl e n kind src va s).good = true := by
  unfold Pass.fail
  dsimp only
  split
  · refine State.raisePass_good ?_
    refine Pass.undo_good ?_
    refine State.dirtyVs_good ?_
    refine Pass.logError_good ?_
    refine Pass.logWord_good ?_
    refine State.passWaitsGone_good ?_
    split
    · exact Pass.lostPut_good (Pass.partly_good h)
    · exact Pass.partly_good h
  · refine State.raisePass_good ?_
    refine State.setPass_good ?_
    refine State.dirtyVs_good ?_
    refine Pass.logError_good ?_
    refine Pass.logWord_good ?_
    refine State.passWaitsGone_good ?_
    split
    · exact Pass.lostPut_good (Pass.partly_good h)
    · exact Pass.partly_good h

theorem Pass.runOn_good {p : Pass} {pl : Plan} {lim : Nat} {link : Bool} (h : s.good = true) :
    (p.runOn pl lim link s).good = true := State.setPass_good (Pass.partly_good h)

theorem Pass.postWait_good {p : Pass} {pl : Plan} {w : Nat × Nat × Node × Halt} (h : s.good = true) :
    (p.postWait pl s w).good = true := by
  unfold Pass.postWait
  dsimp only
  split
  · exact State.otherPage_good (State.pageFault_good h)
  · exact State.otherPage_good (State.migrateWait_good h)
  · exact h

theorem Pass.postWaits_good {p : Pass} {pl : Plan} {lim lanes : Nat} (h : s.good = true) :
    (p.postWaits pl lim lanes s).good = true := by
  unfold Pass.postWaits
  refine good_foldl ?_ h
  intro _ _ h
  split
  · exact Pass.postWait_good h
  · exact h

theorem runPass_good (h : s.good = true) : (runPass s).good = true := by
  unfold runPass
  split
  · exact h
  · split
    · exact h
    · dsimp only
      split
      · exact Pass.finish_good h
      · exact Pass.fail_good h
      · exact Pass.runOn_good h
      · exact Pass.runOn_good (Pass.postWaits_good h)

theorem runPart_good {groups : Nat} (h : s.good = true) : (runPart groups s).good = true := by
  unfold runPart
  split
  · exact h
  · split
    · exact h
    · exact Pass.runOn_good h

theorem State.passError_good {kind slot e : Nat} (h : s.good = true) : (s.passError kind slot e).good = true := by
  unfold State.passError
  split
  · exact h
  · split
    · exact h
    · split
      · exact h
      · exact State.setPass_good h

theorem State.passSoft_good {slot e mask : Nat} {again : Bool} (h : s.good = true) : (s.passSoft slot e mask again).good = true := by
  unfold State.passSoft
  split
  · exact h
  · split
    · exact h
    · split
      · exact h
      · split
        · exact State.setPass_good h
        · split
          · exact State.passError_good h
          · exact State.mismatch_good h

theorem execPassEnd_good (h : s.good = true) : (execPassEnd s).Good := by
  unfold execPassEnd
  split
  · exact ok_good (runPass_good h)
  · exact ok_good (runPass_good h)
  · exact ok_good h

theorem execPassFault_good {err : Option (Nat × Nat × Nat)} (h : s.good = true) : (execPassFault err s).Good := by
  unfold execPassFault
  dsimp only
  split
  · refine ok_good ?_
    refine runPass_good ?_
    split
    · exact State.passError_good h
    · exact h
  · refine ok_good ?_
    split
    · exact State.passError_good h
    · exact h

theorem execLinkedStreamRelease_good (h : s.good = true) : (execLinkedStreamRelease s).Good := by
  unfold execLinkedStreamRelease
  split
  · exact ok_good (runPass_good h)
  · exact ok_good h

theorem execLinkedStreamTimeout_good (h : s.good = true) : (execLinkedStreamTimeout s).Good := by
  unfold execLinkedStreamTimeout
  split
  · exact ok_good (Pass.fail_good h)
  · exact ok_good h

end Sys2Proof.Machine
end

section
/-! PROOFS. The invariant under the engines and under waits. -/

namespace Sys2Proof.Machine

variable {s : State}

/-! ## Machine/Tile -/

theorem State.tileWrote_good {serial : Nat} {old : Mat} {inside : Nat → Bool} (h : s.good = true) :
    (s.tileWrote serial old inside).good = true := h

/-! ## Machine/Mat -/

theorem State.matPop_good {m : Mat} {count : Option Nat} (h : s.good = true) : (s.matPop m count).good = true := by
  unfold State.matPop
  split
  · exact h
  · dsimp only
    split
    · refine State.setEng_good ?_
      split
      · refine State.setX_good ?_
        split
        · refine State.setEng_good ?_
          split
          · split
            · exact State.tileWrote_good (State.setMat_good h)
            · exact State.setMat_good h
          · refine State.dirtyTs_good ?_
            split
            · exact State.tileWrote_good (State.setMat_good h)
            · exact State.setMat_good h
        · split
          · split
            · exact State.tileWrote_good (State.setMat_good h)
            · exact State.setMat_good h
          · refine State.dirtyTs_good ?_
            split
            · exact State.tileWrote_good (State.setMat_good h)
            · exact State.setMat_good h
      · split
        · refine State.setEng_good ?_
          split
          · split
            · exact State.tileWrote_good (State.setMat_good h)
            · exact State.setMat_good h
          · refine State.dirtyTs_good ?_
            split
            · exact State.tileWrote_good (State.setMat_good h)
            · exact State.setMat_good h
        · split
          · split
            · exact State.tileWrote_good (State.setMat_good h)
            · exact State.setMat_good h
          · refine State.dirtyTs_good ?_
            split
            · exact State.tileWrote_good (State.setMat_good h)
            · exact State.setMat_good h
    · split
      · refine State.setEng_good ?_
        split
        · split
          · exact State.tileWrote_good (State.setMat_good h)
          · exact State.setMat_good h
        · refine State.dirtyTs_good ?_
          split
          · exact State.tileWrote_good (State.setMat_good h)
          · exact State.setMat_good h
      · split
        · split
          · exact State.tileWrote_good (State.setMat_good h)
          · exact State.setMat_good h
        · refine State.dirtyTs_good ?_
          split
          · exact State.tileWrote_good (State.setMat_good h)
          · exact State.setMat_good h

theorem State.matFail_good {m : Mat} {count : Option Nat} {kind va elem : Nat} (h : s.good = true) :
    (s.matFail m count kind va elem).good = true := by
  unfold State.matFail
  split
  · exact h
  · exact State.raiseOnce_good (State.matPop_good (State.endWaits_good h))

theorem State.postHalt_good {src who : Nat} {w : Halt} (h : s.good = true) : (s.postHalt src who w).good = true := by
  induction w generalizing s with
  | page va use => exact pageFault_good h
  | migrating va use => exact migrateWait_good h
  | both a b iha ihb => exact ihb (iha h)
  | _ => exact h

theorem runMat_good (h : s.good = true) : (runMat s).good = true := by
  unfold runMat
  split
  · exact State.matPop_good h
  · exact State.matFail_good h
  · exact State.postHalt_good h
  · exact h

theorem State.readLine_good {reading line : Nat} (h : s.good = true) : (s.readLine reading line).good = true := h

theorem State.matSoft_good {off mask : Nat} (h : s.good = true) : (s.matSoft off mask).good = true := by
  unfold State.matSoft
  split
  · exact h
  · split
    · exact State.mismatch_good h
    · exact State.setMat_good h

theorem State.matIssue_good {o : MatOp} (h : s.good = true) : (s.matIssue o).good = true :=
  State.dirtyTs_good (State.setEng_good (State.setMat_good h))

/-! ## Machine/Copy -/

theorem State.postRec_good {fe : Nat} {r : Rec} (h : s.good = true) : (s.postRec fe r).good = true := h

theorem State.copyIssue_good {c : CopyCmd} {reps : Option (List Nat)} (h : s.good = true) : (s.copyIssue c reps).good = true := by
  unfold State.copyIssue
  dsimp only
  split
  · refine State.setEng_good ?_
    split
    · exact State.dirtyTs_good h
    · exact h
  · refine State.setEng_good ?_
    split
    · exact State.dirtyTs_good h
    · exact h

theorem State.takeImages_good {offs : List Nat} (h : s.good = true) : (s.takeImages offs).good = true := by
  unfold State.takeImages
  refine good_foldl ?_ h
  intro _ _ h
  dsimp only
  split <;> exact h

theorem State.tileWrite_good {cells : List Host.Cell} (h : s.good = true) : (s.tileWrite cells).good = true := h

theorem State.tileCopy_good {cp : Copy} {cells : List Host.Cell} (h : s.good = true) : (s.tileCopy cp cells).good = true := by
  unfold State.tileCopy
  dsimp only
  split
  · exact State.setEng_good (State.tileWrite_good h)
  · exact State.setMat_good (State.setEng_good (State.tileWrite_good h))

theorem State.copyTo_good {cp : Copy} {rep : Nat} {sel : Nat → Bool} (h : s.good = true) : (s.copyTo cp rep sel).good = true := by
  unfold State.copyTo
  dsimp only
  split
  · refine State.tileCopy_good ?_
    split
    · exact State.takeImages_good h
    · exact h
  · refine State.write_good ?_
    split
    · exact State.takeImages_good h
    · exact h

theorem State.copyGone_good {cp : Copy} {err : Bool} (h : s.good = true) : (s.copyGone cp err).good = true := h

theorem State.keepUnseen_good {cp : Copy} {old : List Host.Cell} (h : s.good = true) : (s.keepUnseen cp old).good = true := h

theorem State.copyLast_good {cp : Copy} {rep : Nat} {sel : Nat → Bool} (h : s.good = true) : (s.copyLast cp rep sel).good = true := by
  unfold State.copyLast
  dsimp only
  split
  · split
    · exact State.copyTo_good h
    · exact State.keepUnseen_good (State.copyTo_good h)
  · split
    · exact State.copyTo_good h
    · exact State.keepUnseen_good (State.copyTo_good h)

theorem State.copyEnd_good {cp : Copy} (h : s.good = true) : (s.copyEnd cp).good = true :=
  State.copyGone_good (good_foldl (fun _ _ h => State.copyLast_good h) h)

theorem State.copyRecord_good {cp : Copy} {elem unit kind va : Nat} (h : s.good = true) :
    (s.copyRecord cp elem unit kind va).good = true := h

theorem State.copyPart_good {cp : Copy} {rep : Nat} (h : s.good = true) : (s.copyPart cp rep).good = true := State.copyLast_good h

theorem State.copyUnwait_good {cp : Copy} (h : s.good = true) : (s.copyUnwait cp).good = true := h

theorem State.replicaUnwait_good {cp : Copy} {rep : Nat} (h : s.good = true) : (s.replicaUnwait cp rep).good = true := h

theorem State.copyStop_good {cp : Copy} {elem unit kind va : Nat} (h : s.good = true) :
    (s.copyStop cp elem unit kind va).good = true := by
  unfold State.copyStop
  dsimp only
  refine State.copyRecord_good ?_
  refine State.copyGone_good ?_
  split
  · exact State.badEntry_good (State.setMat_good (State.copyUnwait_good (good_foldl (fun _ _ h => State.copyPart_good h) h)))
  · exact State.setMat_good (State.copyUnwait_good (good_foldl (fun _ _ h => State.copyPart_good h) h))

theorem State.setCopy_good {cp : Copy} (h : s.good = true) : (s.setCopy cp).good = true := h

theorem State.replicaStop_good {cp : Copy} {r elem kind va : Nat} (h : s.good = true) :
    (s.replicaStop cp r elem kind va).good = true :=
  State.copyRecord_good (State.setCopy_good (State.replicaUnwait_good (State.copyPart_good h)))

theorem State.postHalts_good {cp : Copy} {hs : List (Nat × Halt)} (h : s.good = true) : (s.postHalts cp hs).good = true :=
  good_foldl (fun _ _ h => State.postHalt_good h) h

theorem runCopy_good {cp : Copy} (h : s.good = true) : (runCopy s cp).good = true := by
  unfold runCopy
  split
  · exact h
  · split
    · split
      · exact h
      · exact State.replicaStop_good h
    · split
      · exact State.copyEnd_good h
      · split
        · exact h
        · exact State.copyStop_good h
      · exact State.postHalts_good h

theorem runCopyPart_good {cp : Copy} {rep lo hi : Nat} (h : s.good = true) : (runCopyPart s cp rep lo hi).good = true := by
  unfold runCopyPart
  split
  · exact h
  · exact State.setCopy_good (State.copyTo_good h)

theorem State.copyLate_good {cp : Copy} {cls : Nat} (h : s.good = true) : (s.copyLate cp cls).good = true := by
  unfold State.copyLate
  split
  · split
    · exact State.setCopy_good h
    · exact h
  · split
    · exact State.setCopy_good h
    · exact h

theorem State.observes_good {cls : Nat} (h : s.good = true) : (s.observes cls).good = true := h

theorem State.copyError_good {cp : Copy} {rep i unit : Nat} (h : s.good = true) : (s.copyError cp rep i unit).good = true := by
  unfold State.copyError
  split
  · exact State.setCopy_good h
  · exact h

/-! ## Machine/Remote -/

theorem State.setWindow_good {target fe asid ident sent : Nat} {v : Word} (h : s.good = true) :
    (s.setWindow target fe asid ident sent v).good = true := h

theorem State.noteIdent_good {ident : Nat} {target : Option Nat} (h : s.good = true) : (s.noteIdent ident target).good = true := h

theorem State.knowIdent_good {ident target : Nat} (h : s.good = true) : (s.knowIdent ident target).good = true := h

theorem State.setRamo_good {r : Ramo} (h : s.good = true) : (s.setRamo r).good = true := h

theorem State.ramoGone_good {r : Ramo} {v : Word} (h : s.good = true) : (s.ramoGone r v).good = true :=
  State.setEng_good (State.setX_good h)

theorem State.ramoFail_good {r : Ramo} {kind va : Nat} (h : s.good = true) : (s.ramoFail r kind va).good = true :=
  State.raiseOnce_good (State.ramoGone_good (State.endWaits_good h))

theorem State.ramoDo_good {r : Ramo} {ks : List Nat} (h : s.good = true) : (s.ramoDo r ks).good = true := by
  unfold State.ramoDo
  dsimp only
  split
  · exact State.setRamo_good (State.setWindow_good (State.knowIdent_good h))
  · exact State.setRamo_good (State.setWindow_good (State.write_good (State.knowIdent_good h)))

theorem State.ramoLost_good {r : Ramo} (h : s.good = true) : (s.ramoLost r).good = true := by
  unfold State.ramoLost
  split
  · exact h
  · exact State.postRec_good (State.raiseOnce_good (State.ramoGone_good h))

theorem State.ramoStop_good {r : Ramo} {kind va : Nat} (h : s.good = true) : (s.ramoStop r kind va).good = true := by
  unfold State.ramoStop
  split
  · exact State.ramoLost_good h
  · exact State.ramoFail_good h

theorem runRamo_good {r : Ramo} (h : s.good = true) : (runRamo s r).good = true := by
  unfold runRamo
  split
  · exact State.ramoGone_good h
  · split
    · exact h
    · exact State.ramoDo_good h
    · exact State.ramoStop_good h
    · exact State.postHalt_good h

theorem State.packetDo_good {p : Packet} (h : s.good = true) : (s.packetDo p).1.good = true := by
  unfold State.packetDo
  dsimp only
  split
  · exact h
  · split
    · split <;> exact h
    · split <;> exact State.write_good h

theorem State.packetGone_good {p : Packet} {r : Reply} (h : s.good = true) : (s.packetGone p r).good = true := h

theorem State.packetLost_good {p : Packet} (h : s.good = true) : (s.packetLost p).good = true := by
  unfold State.packetLost
  dsimp only
  refine State.packetGone_good ?_
  split
  · exact State.packetDo_good h
  · exact h

theorem runPacket_good {p : Packet} (h : s.good = true) : (runPacket s p).good = true := by
  unfold runPacket
  split
  · exact h
  · split
    · exact State.packetGone_good (State.packetDo_good h)
    · exact State.packetLost_good h

theorem State.replyIn_good {n : Nat} (h : s.good = true) : (s.replyIn n).good = true := by
  unfold State.replyIn
  split
  · exact State.setEng_good h
  · exact h

/-! ## Machine/Wait -/

theorem runFabric_good (h : s.good = true) : (runFabric s).Good := by
  unfold runFabric
  split
  · exact runWord_good h
  · exact ok_good h

theorem doWork_good {w : Work} (h : s.good = true) : (doWork s w).Good := by
  unfold doWork
  split
  · exact ok_good (runPass_good h)
  · exact runFabric_good h
  · exact ok_good (runCopy_good h)
  · exact ok_good (runMat_good h)
  · exact ok_good (runRamo_good h)
  · exact ok_good (runPacket_good h)

theorem waitOldest_good {i : Instr} (h : s.good = true) : (waitOldest i s).Good := by
  unfold waitOldest
  split
  · exact doWork_good h
  · split
    · exact trapI_good h
    · exact ok_good h

theorem waitPass_good {i : Instr} (h : s.good = true) : (waitPass i s).Good := by
  unfold waitPass
  split
  · split
    · exact ok_good (runPass_good h)
    · exact waitOldest_good h
  · exact ok_good h

theorem waitRun_good {i : Instr} (h : s.good = true) : (waitRun i s).Good := by
  unfold waitRun
  split
  · exact waitOldest_good h
  · exact runFabric_good h

theorem waitMat_good {i : Instr} (h : s.good = true) : (waitMat i s).Good := by
  unfold waitMat
  split
  · exact ok_good h
  · split
    · split
      · exact ok_good (runCopy_good h)
      · exact waitOldest_good h
    · split
      · exact ok_good (runMat_good h)
      · exact waitOldest_good h

theorem waitCopy_good {i : Instr} {sel : Copy → Bool} (h : s.good = true) : (waitCopy i s sel).Good := by
  unfold waitCopy
  split
  · split
    · exact ok_good (runCopy_good h)
    · exact waitOldest_good h
  · exact ok_good h

theorem waitRamo_good {i : Instr} (h : s.good = true) : (waitRamo i s).Good := by
  unfold waitRamo
  split
  · split
    · exact ok_good (runRamo_good h)
    · exact waitOldest_good h
  · exact ok_good h

theorem waitPacket_good {i : Instr} (h : s.good = true) : (waitPacket i s).Good := by
  unfold waitPacket
  split
  · split
    · exact ok_good (runPacket_good h)
    · exact waitOldest_good h
  · exact ok_good h

theorem waitX_good {i : Instr} (h : s.good = true) : (waitX i s).Good := by
  unfold waitX
  split
  · exact waitPass_good h
  · split
    · exact waitMat_good h
    · exact waitRamo_good h

theorem afterPass_good {i : Instr} {k : Out} (h : s.good = true) (hk : k.Good) : (afterPass s i k).Good := by
  unfold afterPass
  split
  · split
    · exact trapI_good h
    · exact waitPass_good h
  · exact hk

theorem afterRun_good {i : Instr} {k : Out} (h : s.good = true) (hk : k.Good) : (afterRun i s k).Good := by
  unfold afterRun
  split
  · exact waitRun_good h
  · exact hk

theorem afterClass_good {i : Instr} {a b : Nat} {k : Out} (h : s.good = true) (hk : k.Good) : (afterClass s i a b k).Good := by
  unfold afterClass
  split
  · split
    · exact afterPass_good h (ok_good h)
    · exact afterPass_good h (ok_good h)
    · exact waitCopy_good h
    · exact waitMat_good h
    · exact waitRun_good h
    · split
      · exact waitRamo_good h
      · exact waitCopy_good h
    · exact waitPacket_good h
  · exact hk

theorem afterAll_good {i : Instr} {k : Out} (h : s.good = true) (hk : k.Good) : (afterAll s i k).Good := by
  unfold afterAll
  refine afterPass_good h ?_
  refine afterRun_good h ?_
  split
  · exact waitCopy_good h
  · split
    · exact waitMat_good h
    · split
      · exact waitRamo_good h
      · split
        · exact waitPacket_good h
        · exact hk

theorem afterFence_good {i : Instr} {cls : Nat} {k : Out} (h : s.good = true) (hk : k.Good) : (afterFence i s cls k).Good := by
  unfold afterFence
  split
  · exact hk
  · exact waitOldest_good h

end Sys2Proof.Machine
end

section
/-! PROOFS. The invariant under noting and the executed vector instructions. -/

namespace Sys2Proof.Machine

variable {s : State}

/-! ## Machine/Note -/

theorem vecGate_good {i : Instr} {xs : List (BitVec 5)} {vill : Option (BitVec 8)} {k : Out} (h : s.good = true) (hk : k.Good) :
    (vecGate s i xs vill k).Good := by
  unfold vecGate
  split
  · exact waitX_good h
  · split
    · exact trapI_good h
    · split
      · exact trapI_good h
      · exact afterPass_good h (afterRun_good h hk)

theorem forceThen_good {k : State → Out} (h : s.good = true) (hk : ∀ (s : State), s.good = true → (k s).Good) :
    (forceThen s k).Good := by
  unfold forceThen
  dsimp only
  split
  · exact ok_good (force_good h)
  · split
    · exact ok_good (force_good h)
    · exact hk _ (force_good h)

theorem State.afterQueue_good (h : s.good = true) : s.afterQueue.good = true := h

theorem queueGate_good {i : Instr} {xs : List (BitVec 5)} {vill : Option (BitVec 8)} {k : Out} (h : s.good = true) (hk : k.Good) :
    (queueGate s i xs vill k).Good := by
  unfold queueGate
  split
  · exact waitX_good h
  · split
    · exact trapI_good h
    · split
      · exact trapI_good h
      · split
        · exact hk
        · exact afterPass_good h (afterRun_good h hk)

theorem forceOn_good {k : State → Out} (h : s.good = true) (hk : ∀ (s : State), s.good = true → (k s).Good) : (forceOn s k).Good := by
  unfold forceOn
  dsimp only
  split
  · exact ok_good (force_good h)
  · split
    · exact ok_good (force_good h)
    · exact hk _ (force_good h)

theorem noteNode_good {i : Instr} {n : Note} (h : s.good = true) : (noteNode s i n).Good := by
  unfold noteNode
  dsimp only
  split
  · exact trapI_good h
  · exact retire_good (State.setVec_good (State.dirtyVs_good (State.setVec_good h)))

theorem noteRoom_good {i : Instr} {mk : State → Note} (h : s.good = true) : (noteRoom s i mk).Good := by
  unfold noteRoom
  split
  · exact noteNode_good h
  · refine forceOn_good h ?_
    intro _ h
    dsimp only
    split
    · exact noteNode_good h
    · split <;> exact trapI_good h

theorem noteGo_good {i : Instr} {mk : State → Note} (h : s.good = true) : (noteGo s i mk).Good := by
  unfold noteGo
  dsimp only
  split
  · exact trapI_good h
  · split
    · exact trapI_good h
    · split
      · exact forceOn_good h (fun _ h => noteRoom_good h)
      · exact noteRoom_good h

theorem noteGate_good {i : Instr} {xs : List (BitVec 5)} {v : Option (BitVec 8)} {mk : State → Note} (h : s.good = true) :
    (noteGate s i xs v mk).Good := queueGate_good h (noteGo_good h)

theorem noteV_good {i : Instr} {f : VF} {op : NOp} {cls : Cls} {form : Form} {bad : State → Bool} (h : s.good = true) :
    (noteV i f op cls form bad s).Good := noteGate_good h

theorem noteK_good {i : Instr} {f : KF} {op : NOp} (h : s.good = true) : (noteK i f op s).Good := noteGate_good h

theorem noteKShift_good {i : Instr} {f : KF} {op : NOp} (h : s.good = true) : (noteKShift i f op s).Good := noteGate_good h

theorem noteCarry_good {i : Instr} {f : KF} {op : NOp} (h : s.good = true) : (noteCarry i f op s).Good := noteGate_good h

theorem noteR_good {i : Instr} {f : RF} {op : NOp} {cls : Cls} {src : State → Src} {rd : State → List Rd} (h : s.good = true) :
    (noteR i f op cls src rd s).Good := noteGate_good h

/-! ## Machine/VecExec -/

theorem setLength_good {avl : Nat} {req : Word} {rd : BitVec 5} (h : s.good = true) : (setLength avl req rd s).Good := by
  unfold setLength
  dsimp only
  split
  · split
    · exact ok_good (force_good (State.dirtyIf_good (State.setVec_good h)))
    · refine retire_good ?_
      refine State.setX_good ?_
      split
      · refine State.setVec_good ?_
        refine State.dirtyIf_good ?_
        refine State.setVec_good ?_
        split
        · exact State.setVec_good (force_good (State.dirtyIf_good (State.setVec_good h)))
        · exact force_good (State.dirtyIf_good (State.setVec_good h))
      · refine State.dirtyIf_good ?_
        refine State.setVec_good ?_
        split
        · exact State.setVec_good (force_good (State.dirtyIf_good (State.setVec_good h)))
        · exact force_good (State.dirtyIf_good (State.setVec_good h))
  · split
    · exact ok_good (State.dirtyIf_good (State.setVec_good h))
    · refine retire_good ?_
      refine State.setX_good ?_
      split
      · refine State.setVec_good ?_
        refine State.dirtyIf_good ?_
        refine State.setVec_good ?_
        split
        · exact State.setVec_good (State.dirtyIf_good (State.setVec_good h))
        · exact State.dirtyIf_good (State.setVec_good h)
      · refine State.dirtyIf_good ?_
        refine State.setVec_good ?_
        split
        · exact State.setVec_good (State.dirtyIf_good (State.setVec_good h))
        · exact State.dirtyIf_good (State.setVec_good h)

theorem lengthGate_good {i : Instr} {xs : List (BitVec 5)} {k : Out} (h : s.good = true) (hk : k.Good) :
    (lengthGate s i xs k).Good := by
  unfold lengthGate
  split
  · exact queueGate_good h hk
  · exact vecGate_good h hk

theorem execVsetl_good {f : RF} (h : s.good = true) : (execVsetl f s).Good := lengthGate_good h (setLength_good h)

theorem execVsetli_good {f : IF} (h : s.good = true) : (execVsetli f s).Good := lengthGate_good h (setLength_good h)

theorem State.vlqLater_good {f : RF} (h : s.good = true) : (s.vlqLater f).good = true := State.setX_good (State.setVec_good h)

theorem execVlq_good {f : RF} (h : s.good = true) : (execVlq f s).Good := by
  unfold execVlq
  dsimp only
  split
  · exact waitX_good h
  · split
    · exact trapI_good h
    · split
      · split
        · exact retire_good (State.vlqLater_good h)
        · exact waitPass_good h
      · exact afterRun_good h (retire_good (State.setX_good h))

theorem execVforce_good {f : RF} (h : s.good = true) : (execVforce f s).Good := queueGate_good h (retire_good (force_good h))

theorem execVoset_good {f : RF} (h : s.good = true) : (execVoset f s).Good := by
  unfold execVoset
  dsimp only
  refine queueGate_good h ?_
  split
  · refine forceOn_good h ?_
    intro _ h
    refine retire_good ?_
    refine State.dirtyIf_good ?_
    split
    · exact State.setVec_good h
    · exact State.setO_good h
  · refine retire_good ?_
    refine State.dirtyIf_good ?_
    split
    · exact State.setVec_good h
    · exact State.setO_good h

theorem execVoget_good {f : RF} (h : s.good = true) : (execVoget f s).Good :=
  vecGate_good h (forceThen_good h (fun _ h => retire_good (State.setX_good h)))

theorem maskThen_good {i : Instr} {k : Fin 8} {go : Nat → State → Out} (h : s.good = true) (hgo : ∀ (a : Nat)
    (s : State), s.good = true → (go a s).Good) :
    (maskThen s i k go).Good := by
  unfold maskThen
  dsimp only
  split
  · split
    · exact hgo _ _ (State.setVec_good h)
    · exact ok_good (State.setVec_good h)
  · split
    · exact trapI_good h
    · split
      · split
        · exact ok_good (forceFor_good h)
        · split
          · exact ok_good (forceFor_good h)
          · exact hgo _ _ (forceFor_good h)
      · split
        · exact ok_good (forceFor_good h)
        · split
          · exact ok_good (forceFor_good h)
          · exact hgo _ _ (forceFor_good h)

theorem execKpopc_good {f : RF} (h : s.good = true) : (execKpopc f s).Good :=
  vecGate_good h (maskThen_good h (fun _ _ h => retire_good (State.setX_good h)))

theorem execKfirst_good {f : RF} (h : s.good = true) : (execKfirst f s).Good :=
  vecGate_good h (maskThen_good h (fun _ _ h => retire_good (State.setX_good h)))

theorem execKlast_good {f : RF} (h : s.good = true) : (execKlast f s).Good :=
  vecGate_good h (maskThen_good h (fun _ _ h => retire_good (State.setX_good h)))

theorem execKmv_good {f : RF} (h : s.good = true) : (execKmv f s).Good :=
  vecGate_good h (maskThen_good h (fun _ _ h => retire_good (State.setX_good h)))

theorem resident_good {i : Instr} {xs : List (BitVec 5)} {k : State → Out} (h : s.good = true) (hk : ∀ (s : State), s.good = true →
    (k s).Good) :
    (resident s i xs k).Good := by
  unfold resident
  refine vecGate_good h ?_
  refine forceThen_good h ?_
  intro _ h
  split
  · exact trapI_good h
  · exact hk _ h

theorem State.setV_good {n : BitVec 5} {r : VReg} (h : s.good = true) : (s.setV n r).good = true := h

theorem State.putElems_good {n : BitVec 5} {xs : List Nat} (h : s.good = true) : (s.putElems n xs).good = true :=
  State.dirtyIf_good (State.setVec_good (State.wroteWords_good (State.setV_good h)))

theorem withWords_good {ws : List (Nat × Nat)} {k : State → Out} (h : s.good = true) (hk : ∀ (s : State), s.good = true → (k s).Good) :
    (withWords s ws k).Good := by
  unfold withWords
  split
  · exact trapV_good (State.logLost_good h)
  · exact hk _ (State.readWords_good h)

theorem State.setVstart_good {v : Word} (h : s.good = true) : (s.setVstart v).good = true := by
  unfold State.setVstart
  split
  · exact h
  · exact State.dirtyVs_good (State.setVec_good h)

theorem State.vAccess_good {i a n : Nat} {use : Use} (h : s.good = true) : (s.vAccess i a n use).Good := by
  unfold State.vAccess
  dsimp only
  split
  · exact Got.good_trap h
  · split
    · exact Got.good_trap h
    · split
      · split
        · exact Got.good_val ((State.compared_good ((State.access_good h).val ‹_›)).val ‹_›)
        · exact Got.good_wait ((State.compared_good ((State.access_good h).val ‹_›)).wait ‹_›)
        · exact Got.good_trap ((State.compared_good ((State.access_good h).val ‹_›)).trap ‹_›)
      · exact Got.good_wait ((State.access_good h).wait ‹_›)
      · exact Got.good_trap ((State.access_good h).trap ‹_›)

theorem State.vRead_good {i a n : Nat} (h : s.good = true) : (s.vRead i a n).Good := by
  unfold State.vRead
  split
  · split
    · exact Got.good_trap ((State.vAccess_good h).val ‹_›)
    · exact Got.good_val ((State.vAccess_good h).val ‹_›)
  · exact Got.good_wait ((State.vAccess_good h).wait ‹_›)
  · exact Got.good_trap ((State.vAccess_good h).trap ‹_›)

theorem State.vWrite_good {i a n v : Nat} (h : s.good = true) : (s.vWrite i a n v).Good := by
  unfold State.vWrite
  split
  · dsimp only
    split
    · exact Got.good_trap ((State.vAccess_good h).val ‹_›)
    · exact State.sends_good ((State.vAccess_good h).val ‹_›) (fun _ h => State.write_good h)
  · exact Got.good_wait ((State.vAccess_good h).wait ‹_›)
  · exact Got.good_trap ((State.vAccess_good h).trap ‹_›)

theorem State.loadElem_good {n : BitVec 5} {i x : Nat} (h : s.good = true) : (s.loadElem n i x).good = true := by
  unfold State.loadElem
  dsimp only
  split
  · exact State.wroteWords_good (State.dirtyIf_good (State.setV_good h))
  · exact State.dirtyIf_good (State.setV_good h)

theorem vLoop_good {store : Bool} {r : BitVec 5} {nf base : Nat} {is : List (Nat × Nat)} {k : State → Out} (h : s.good = true)
    (hk : ∀ s, s.good = true → (k s).Good) : (vLoop store r nf base is s k).Good := by
  induction is generalizing s with
  | nil => exact hk s h
  | cons p rest ih =>
    unfold vLoop
    dsimp only
    split
    · split
      · exact trapE_good (State.logLost_good (State.setVstart_good h))
      · have hread := State.readWords_good (ws := [((r + BitVec.ofNat 5 p.2).toNat, p.1 * s.ew / 64)]) h
        split
        · exact ih ((State.vWrite_good hread).val ‹_›)
        · exact stall_good (State.setVstart_good ((State.vWrite_good hread).wait ‹_›))
        · exact trapE_good (State.setVstart_good ((State.vWrite_good hread).trap ‹_›))
    · split
      · exact ih (State.loadElem_good ((State.vRead_good h).val ‹_›))
      · exact stall_good (State.setVstart_good ((State.vRead_good h).wait ‹_›))
      · exact trapE_good (State.setVstart_good ((State.vRead_good h).trap ‹_›))

theorem vMove_good {i : Instr} {store : Bool} {r : BitVec 5} {nf base : Nat} {k : State → Out} (h : s.good = true) (hk : ∀
    (s : State), s.good = true → (k s).Good) :
    (vMove s i store r nf base k).Good := by
  unfold vMove
  split
  · exact trapI_good h
  · exact afterFence_good h (vLoop_good h (fun _ h => hk _ (State.setVstart_good h)))

theorem execVspill_good {f : RF} (h : s.good = true) : (execVspill f s).Good :=
  resident_good h (fun _ h => vMove_good h (fun _ h => retire_good h))

theorem State.fillTail_good {d : BitVec 5} (h : s.good = true) : (s.fillTail d).good = true := by
  unfold State.fillTail
  dsimp only
  split
  · exact h
  · exact State.dirtyIf_good (State.setV_good h)

theorem execVfill_good {f : RF} (h : s.good = true) : (execVfill f s).Good :=
  resident_good h (fun _ h => vMove_good h (fun _ h => retire_good (State.fillTail_good h)))

theorem execVldsg_good {f : RF} (h : s.good = true) : (execVldsg f s).Good :=
  resident_good h (fun _ h => vMove_good h (fun _ h => retire_good h))

theorem execVstsg_good {f : RF} (h : s.good = true) : (execVstsg f s).Good :=
  resident_good h (fun _ h => vMove_good h (fun _ h => retire_good h))

theorem permuteLater_good {f : RF} {op : PermOp} (h : s.good = true) : (permuteLater f op s).Good :=
  retire_good (State.dirtyIf_good (State.setVec_good h))

theorem permute_good {i : Instr} {f : RF} {xs : List (BitVec 5)} {op : PermOp} (h : s.good = true) : (permute i f xs op s).Good := by
  unfold permute
  refine queueGate_good h ?_
  split
  · exact forceOn_good h (fun _ h => permuteLater_good h)
  · refine afterPass_good h ?_
    refine forceThen_good h ?_
    intro _ h
    split
    · exact trapI_good h
    · exact withWords_good h (fun _ h => retire_good (State.putElems_good h))

theorem execVsldup_good {f : RF} (h : s.good = true) : (execVsldup f s).Good := permute_good h

theorem execVslddn_good {f : RF} (h : s.good = true) : (execVslddn f s).Good := permute_good h

theorem execVperm_good {f : RF} (h : s.good = true) : (execVperm f s).Good := permute_good h

theorem execVcompr_good {f : RF} (h : s.good = true) : (execVcompr f s).Good := permute_good h

theorem execVexpnd_good {f : RF} (h : s.good = true) : (execVexpnd f s).Good := permute_good h

theorem execVrev_good {f : RF} (h : s.good = true) : (execVrev f s).Good := permute_good h

end Sys2Proof.Machine
end

section
/-! PROOFS. The invariant under tile, hoop, sampling, copy, fence and CSR instructions. -/

namespace Sys2Proof.Machine

variable {s : State}

/-! ## Machine/HoopIns -/

theorem hoopIssue_good {i : Instr} {xs : List (BitVec 5)} {x1 x2 : Word} (h : s.good = true) : (hoopIssue s i xs x1 x2).Good := by
  unfold hoopIssue
  split
  · exact waitX_good h
  · split
    · exact trapI_good h
    · split
      · split
        · exact trapV_good h
        · exact trapI_good h
      · exact retire_good (State.matIssue_good h)

theorem execTzero_good {f : RF} (h : s.good = true) : (execTzero f s).Good := hoopIssue_good h

theorem execHload_good {f : RF} (h : s.good = true) : (execHload f s).Good := hoopIssue_good h

theorem execHloads_good {f : RF} (h : s.good = true) : (execHloads f s).Good := hoopIssue_good h

theorem execHswap_good {f : RF} (h : s.good = true) : (execHswap f s).Good := hoopIssue_good h

theorem execHmul_good {f : RF} (h : s.good = true) : (execHmul f s).Good := hoopIssue_good h

theorem execHmulp_good {f : RF} (h : s.good = true) : (execHmulp f s).Good := hoopIssue_good h

theorem execHmulf_good {f : RF} (h : s.good = true) : (execHmulf f s).Good := hoopIssue_good h

theorem execHacc_good {f : RF} (h : s.good = true) : (execHacc f s).Good := by
  unfold execHacc
  split <;> exact hoopIssue_good h

theorem execHmov_good {f : RF} (h : s.good = true) : (execHmov f s).Good := hoopIssue_good h

theorem execHq_good {f : RF} (h : s.good = true) : (execHq f s).Good := by
  unfold execHq
  split
  · exact waitX_good h
  · split
    · exact trapI_good h
    · exact retire_good (State.setX_good h)

theorem afterMat_good {i : Instr} {k : Out} (h : s.good = true) (hk : k.Good) : (afterMat i s k).Good := by
  unfold afterMat
  split
  · exact hk
  · exact waitMat_good h

theorem tileMove_good {i : Instr} {t : Nat} {col store : Bool} {xr : BitVec 5} {k : State → Out} (h : s.good = true) (hk : ∀
    (s : State), s.good = true → (k s).Good) :
    (tileMove s i t col store xr k).Good := by
  unfold tileMove
  split
  · exact waitX_good h
  · split
    · exact trapI_good h
    · split
      · exact trapI_good h
      · refine afterPass_good h ?_
        refine afterRun_good h ?_
        refine forceThen_good h ?_
        intro _ h
        split
        · exact trapI_good h
        · exact afterMat_good h (afterFence_good h (hk _ h))

theorem State.moved_good {fl : FFlags} (h : s.good = true) : (s.moved fl).good = true :=
  State.dirtyTs_good (State.setVstart_good (State.setCsr_good h rfl))

theorem moveIn_good {t : Nat} {col : Bool} {x : Nat} {n : BitVec 5} (h : s.good = true) : (moveIn s t col x n).Good := by
  unfold moveIn
  exact withWords_good h (fun _ h => retire_good (State.moved_good (State.tileWrote_good (State.setMat_good h))))

theorem moveOut_good {t : Nat} {col : Bool} {x : Nat} {n : BitVec 5} (h : s.good = true) : (moveOut s t col x n).Good := by
  unfold moveOut
  dsimp only
  split
  · exact ok_good (State.raiseOnce_good (advance_good h))
  · exact retire_good (State.moved_good (State.putElems_good h))

theorem execVtroww_good {f : RF} (h : s.good = true) : (execVtroww f s).Good := tileMove_good h (fun _ h => moveIn_good h)

theorem execVtrowr_good {f : RF} (h : s.good = true) : (execVtrowr f s).Good := tileMove_good h (fun _ h => moveOut_good h)

theorem execVtcolw_good {f : RF} (h : s.good = true) : (execVtcolw f s).Good := tileMove_good h (fun _ h => moveIn_good h)

theorem execVtcolr_good {f : RF} (h : s.good = true) : (execVtcolr f s).Good := tileMove_good h (fun _ h => moveOut_good h)

/-! ## Machine/SampleIns -/

theorem sampFirst_good {i : Instr} {k : Out} (h : s.good = true) (hk : k.Good) : (sampFirst s i k).Good := by
  unfold sampFirst
  split
  · exact trapI_good h
  · exact hk

theorem execMnrmz_good {f : RF} (h : s.good = true) : (execMnrmz f s).Good := sampFirst_good h (retire_good (State.matIssue_good h))

theorem execMnorm_good {f : RF} (h : s.good = true) : (execMnorm f s).Good := by
  unfold execMnorm
  dsimp only
  split
  · exact waitX_good h
  · refine sampFirst_good h ?_
    split
    · exact trapI_good h
    · split
      · exact trapV_good h
      · exact retire_good (State.matIssue_good h)

theorem execMatab_good {f : RF} (h : s.good = true) : (execMatab f s).Good := by
  unfold execMatab
  dsimp only
  refine sampFirst_good h ?_
  refine afterMat_good h ?_
  split
  · exact trapI_good h
  · exact retire_good (State.matIssue_good h)

theorem msampIssue_good {f : RF} {bs : List Byte} (h : s.good = true) : (msampIssue f s bs).Good := by
  unfold msampIssue
  dsimp only
  refine retire_good ?_
  split
  · exact State.matIssue_good (State.setMat_good h)
  · exact State.setEng_good (State.matIssue_good (State.setMat_good h))

theorem State.readDesc_good {a : Nat} {k : List Byte → State → Out} (h : s.good = true) (hk : ∀ (a : List Byte)
    (s : State), s.good = true → (k a s).Good) :
    (s.readDesc a k).Good := by
  unfold State.readDesc
  split
  · split
    · exact ok_good (State.raiseOnce_good (advance_good ((State.readN_good h).trap ‹_›)))
    · exact trapV_good ((State.readN_good h).trap ‹_›)
  · exact Got.andThen_good (State.readN_good h) (fun _ _ h => hk _ _ h)

theorem execMsamp_good {f : RF} (h : s.good = true) : (execMsamp f s).Good := by
  unfold execMsamp
  dsimp only
  split
  · exact waitX_good h
  · refine sampFirst_good h ?_
    refine afterMat_good h ?_
    split
    · exact trapI_good h
    · refine afterFence_good h ?_
      refine State.readDesc_good h ?_
      intro _ _ h
      split
      · exact trapI_good h
      · split
        · exact trapV_good h
        · exact msampIssue_good h

theorem execMscale_good {f : RF} (h : s.good = true) : (execMscale f s).Good := by
  unfold execMscale
  dsimp only
  split
  · exact waitX_good h
  · exact sampFirst_good h (retire_good (State.matIssue_good h))

/-! ## Machine/CopyIns -/

theorem copyTrap_good {code : BitVec 8} {i : Instr} {c : CopyCmd} (h : s.good = true) : (copyTrap s code i c).Good := by
  unfold copyTrap
  split
  · exact trapV_good h
  · exact trapI_good h

theorem copyStart_good {i : Instr} {c : CopyCmd} {reps : Option (List Nat)} {k : State → Out} (h : s.good = true) (hk : ∀
    (s : State), s.good = true → (k s).Good) :
    (copyStart s i c reps k).Good := by
  unfold copyStart
  split
  · exact waitCopy_good h
  · exact hk _ (State.copyIssue_good h)

theorem execCpy_good {f : RF} (h : s.good = true) : (execCpy f s).Good := by
  unfold execCpy
  dsimp only
  split
  · exact waitX_good h
  · split
    · exact trapI_good h
    · split
      · exact copyTrap_good h
      · exact copyStart_good h (fun _ h => retire_good h)

theorem execCpym_good {f : RF} (h : s.good = true) : (execCpym f s).Good := by
  unfold execCpym
  dsimp only
  split
  · exact waitX_good h
  · split
    · exact trapI_good h
    · split
      · exact copyTrap_good h
      · exact copyStart_good h (fun _ h => retire_good h)

theorem State.followIssue_good {i : Instr} {copy : Nat} (h : s.good = true) : (s.followIssue i copy).good = true :=
  State.matIssue_good h

theorem execCpyf_good {f : RF} (h : s.good = true) : (execCpyf f s).Good := by
  unfold execCpyf
  dsimp only
  split
  · exact waitX_good h
  · split
    · exact trapV_good h
    · split
      · exact waitX_good h
      · split
        · exact trapI_good h
        · split
          · exact trapV_good h
          · split
            · exact copyTrap_good h
            · split
              · exact trapV_good h
              · exact copyStart_good h (fun _ h => retire_good (State.followIssue_good h))

theorem batch_good {v : VReg} {k0 k : KReg} {qs : List Nat} (h : s.good = true) : (batch v k0 qs s k).1.good = true := by
  induction qs generalizing s k with
  | nil => exact h
  | cons q qs ih =>
    refine ih ?_
    split
    · exact State.copyIssue_good h
    · exact h

theorem State.setK_good {n : Fin 8} {r : KReg} (h : s.good = true) : (s.setK n r).good = true := h

theorem batchRun_good {f : RF} (h : s.good = true) : (batchRun f s).Good := by
  unfold batchRun
  split
  · exact retire_good h
  · exact withWords_good h (fun _ h => retire_good (State.dirtyIf_good (State.setK_good (batch_good h))))

theorem execCpyb_good {f : RF} (h : s.good = true) : (execCpyb f s).Good := by
  unfold execCpyb
  dsimp only
  refine vecGate_good h ?_
  split
  · exact trapI_good h
  · refine forceThen_good h ?_
    intro _ h
    split
    · exact trapI_good h
    · exact batchRun_good h

theorem execTwany_good {f : RF} (h : s.good = true) : (execTwany f s).Good := by
  unfold execTwany
  dsimp only
  split
  · exact waitX_good h
  · split
    · exact waitCopy_good h
    · exact retire_good h

theorem execTwall_good {f : RF} (h : s.good = true) : (execTwall f s).Good := by
  unfold execTwall
  dsimp only
  split
  · exact waitX_good h
  · split
    · exact waitCopy_good h
    · exact retire_good h

theorem execTffr_good {f : RF} (h : s.good = true) : (execTffr f s).Good := by
  unfold execTffr
  split
  · exact waitX_good h
  · exact retire_good (State.setX_good h)

theorem execTclr_good {f : RF} (h : s.good = true) : (execTclr f s).Good := by
  unfold execTclr
  split
  · exact waitX_good h
  · exact retire_good (State.setEng_good h)

theorem execCopyComplete_good {n : Nat} (h : s.good = true) : (execCopyComplete n s).Good := by
  unfold execCopyComplete
  split
  · split
    · exact ok_good h
    · split
      · exact ok_good (State.copyEnd_good h)
      · exact ok_good (State.postHalts_good h)
      · exact ok_good h
  · exact ok_good h

theorem execCopyFaultStop_good {n : Nat} (h : s.good = true) : (execCopyFaultStop n s).Good := by
  unfold execCopyFaultStop
  split
  · split
    · split
      · exact ok_good (State.copyStop_good h)
      · exact ok_good h
    · exact ok_good h
  · exact ok_good h

theorem execCpymReplicaStop_good {n r : Nat} (h : s.good = true) : (execCpymReplicaStop n r s).Good := by
  unfold execCpymReplicaStop
  split
  · split
    · split
      · exact ok_good (State.replicaStop_good h)
      · exact ok_good h
    · exact ok_good h
  · exact ok_good h

theorem headDone_good {sel : MatOp → Bool} (h : s.good = true) : (headDone sel s).Good := by
  unfold headDone
  split
  · split
    · split
      · exact ok_good (State.matPop_good h)
      · exact ok_good (State.postHalt_good h)
      · exact ok_good h
    · exact ok_good h
  · exact ok_good h

theorem execFollowOnRun_good (h : s.good = true) : (execFollowOnRun s).Good := headDone_good h

theorem execHoopOpComplete_good (h : s.good = true) : (execHoopOpComplete s).Good := headDone_good h

theorem execMsampEnd_good (h : s.good = true) : (execMsampEnd s).Good := headDone_good h

theorem engineStop_good {kind : Nat} (h : s.good = true) : (engineStop s kind).good = true := by
  unfold engineStop
  split
  · split
    · exact State.matFail_good (State.mismatch_good h)
    · exact h
  · exact h

theorem execEngineFault_good {src kind _elem : Nat} (h : s.good = true) : (execEngineFault src kind _elem s).Good := by
  unfold execEngineFault
  split
  · split
    · exact ok_good h
    · split
      · split
        · exact ok_good (State.matFail_good h)
        · exact ok_good h
      · exact ok_good (engineStop_good h)
  · split
    · exact ok_good (State.fabricStop_good h)
    · split
      · split
        · split
          · split
            · exact ok_good (State.ramoStop_good h)
            · exact ok_good h
          · exact ok_good h
        · exact ok_good h
      · exact ok_good h

/-! ## Machine/Sync -/

theorem execWaitc_good {f : IF} (h : s.good = true) : (execWaitc f s).Good := by
  unfold execWaitc
  dsimp only
  split
  · split
    · exact trapI_good (force_good h)
    · split
      · exact afterPass_good (force_good h) (ok_good (force_good h))
      · split
        · exact waitCopy_good (force_good h)
        · split
          · exact waitMat_good (force_good h)
          · exact retire_good (force_good h)
  · split
    · exact trapI_good h
    · split
      · exact afterPass_good h (ok_good h)
      · split
        · exact waitCopy_good h
        · split
          · exact waitMat_good h
          · exact retire_good h

theorem State.fencedFetch_good {a : Nat} (h : s.good = true) : (s.fencedFetch a).good = true := h

theorem execFencep_good {f : RF} (h : s.good = true) : (execFencep f s).Good := by
  unfold execFencep
  dsimp only
  split
  · exact trapI_good h
  · split
    · refine afterClass_good ?_ ?_
      · split
        · exact force_good h
        · exact h
      · refine retire_good ?_
        refine State.fencedFetch_good ?_
        refine State.setEng_good ?_
        split
        · exact force_good h
        · exact h
    · refine retire_good ?_
      refine State.addFence_good ?_
      split
      · exact force_good h
      · exact h

theorem State.observesAll_good (h : s.good = true) : s.observesAll.good = true := by
  unfold State.observesAll
  split
  · exact h
  · exact State.setEng_good h

theorem State.fencedAll_good (h : s.good = true) : s.fencedAll.good = true := h

theorem execFence_good {fm pred succ : BitVec 4} {rs1 rd : BitVec 5} (h : s.good = true) : (execFence fm pred succ rs1 rd s).Good :=
  afterAll_good (force_good h) (retire_good (State.fencedAll_good (State.observesAll_good (force_good h))))

theorem execWmset_good {f : RF} (h : s.good = true) : (execWmset f s).Good := by
  unfold execWmset
  split
  · exact waitX_good h
  · split
    · exact trapI_good h
    · exact retire_good (State.mapCtx_good h)

theorem execWmget_good {f : RF} (h : s.good = true) : (execWmget f s).Good := by
  unfold execWmget
  split
  · exact waitX_good h
  · split
    · exact trapI_good h
    · exact retire_good (State.setX_good h)

theorem State.arrive_good {a : Arrival} (h : s.good = true) : (s.arrive a).good = true := h

theorem phaseWait_good {a : Arrival} (h : s.good = true) : (phaseWait s a).Good := by
  unfold phaseWait
  split
  · exact retire_good (State.setEng_good (State.observesAll_good h))
  · exact ok_good (State.setEng_good h)

theorem arriveThen_good {a : Arrival} {k : State → Out} (h : s.good = true) (hk : ∀ (s : State), s.good = true → (k s).Good) :
    (arriveThen s a k).Good := Got.andThen_good (State.sends_good h (fun _ h => State.arrive_good h)) (fun _ _ h => hk _ h)

theorem execBara_good {f : RF} (h : s.good = true) : (execBara f s).Good := by
  unfold execBara
  dsimp only
  split
  · exact trapI_good h
  · exact afterAll_good (force_good h) (arriveThen_good (force_good h) (fun _ h => retire_good h))

theorem execBarw_good {f : RF} (h : s.good = true) : (execBarw f s).Good := by
  unfold execBarw
  split
  · exact phaseWait_good h
  · exact trapI_good h

theorem execBarc_good {f : RF} (h : s.good = true) : (execBarc f s).Good := by
  unfold execBarc
  dsimp only
  split
  · split
    · exact phaseWait_good h
    · exact trapI_good h
  · exact afterAll_good (State.setEng_good (force_good h)) (arriveThen_good (State.setEng_good (force_good h))
      (fun _ h => phaseWait_good h))

theorem execBarrierPhasePass_good (h : s.good = true) : (execBarrierPhasePass s).Good := by
  unfold execBarrierPhasePass
  split
  · split
    · exact phaseWait_good h
    · exact ok_good h
  · exact ok_good h

theorem execBarrierTimeout_good (h : s.good = true) : (execBarrierTimeout s).Good := by
  unfold execBarrierTimeout
  split
  · split
    · exact trapV_good h
    · exact ok_good h
  · exact ok_good h

/-! ## Machine/Csr -/

theorem csrGate_good {i : Instr} {c : CsrF} {k : Out} (h : s.good = true) (hk : k.Good) : (csrGate s i c k).Good := by
  unfold csrGate
  split
  · split
    · exact waitX_good h
    · split
      · exact trapI_good h
      · split
        · exact trapI_good h
        · split
          · exact waitX_good h
          · exact hk
  · split
    · exact waitX_good h
    · split
      · exact trapI_good h
      · split
        · exact trapI_good h
        · split
          · exact waitX_good h
          · exact hk

theorem csrStep_good {i : Instr} {c : CsrF} {put : Word → State → State} (h : s.good = true) (hput : ∀ (a : Word)
    (s : State), s.good = true → (put a s).good = true) :
    (csrStep s i c put).Good := csrGate_good h (retire_good (State.setX_good (hput _ _ h)))

theorem csrReadStep_good {i : Instr} {c : CsrF} (h : s.good = true) : (csrReadStep s i c).Good :=
  csrGate_good h (retire_good (State.setX_good h))

theorem State.csrPut_good {a : BitVec 12} {v : Word} (h : s.good = true) : (s.csrPut a v).good = true := by
  unfold State.csrPut
  dsimp only
  split
  · exact h
  · exact h
  · exact h
  · exact State.setVstart_good h
  · exact State.setCsr_good h rfl
  · exact State.setCsr_good h rfl
  · exact State.setCsr_good h rfl
  · exact State.setCsr_good h rfl
  · exact State.setCsr_good h rfl
  · exact State.setCsr_good h rfl
  · exact State.setCsr_good h rfl
  · exact State.setCsr_good h rfl
  · exact State.setCsr_good h rfl
  · exact State.setCsr_good h rfl
  · exact State.setCsr_good h rfl
  · exact State.setCsr_good h rfl
  · exact State.setCsr_good h rfl
  · exact State.setCsr_good h rfl
  · exact State.setCsr_good h rfl
  · exact h

theorem execCsrWrite_good {c : CsrF} (h : s.good = true) : (execCsrWrite c s).Good := csrStep_good h (fun _ _ h => State.csrPut_good h)

theorem execVfflagsWrite_good {c : CsrF} (h : s.good = true) : (execVfflagsWrite c s).Good :=
  csrGate_good h (afterPass_good h (csrStep_good h (fun _ _ h => State.setCsr_good h rfl)))

theorem slipOf_bounds (v : Word) : 1 ≤ (slipOf v).toNat ∧ (slipOf v).toNat ≤ 16 := by
  have hv : max 1 (min 16 (fieldOf v 0 5)) < 2 ^ 64 := by omega
  rw [slipOf, BitVec.toNat_ofNat, Nat.mod_eq_of_lt hv]
  omega

theorem execVslipWrite_good {c : CsrF} (h : s.good = true) : (execVslipWrite c s).Good :=
  csrStep_good h fun v _ hs => State.good_of_parts hs id (Strand.good_setCsr (slipOf_bounds v)) id rfl

theorem execVmtWrite_good {c : CsrF} (h : s.good = true) : (execVmtWrite c s).Good :=
  csrStep_good h (fun _ _ h => State.setCsr_good h rfl)

theorem State.setTcfg_good {t : Nat} {v : Word} (h : s.good = true) : (s.setTcfg t v).good = true := by
  unfold State.setTcfg
  split
  · exact h
  · exact State.dirtyTs_good (State.setMat_good h)

theorem execTcfgWrite_good {c : CsrF} (h : s.good = true) : (execTcfgWrite c s).Good :=
  csrStep_good h (fun _ _ h => State.setTcfg_good h)

theorem execSstatWrite_good {c : CsrF} (h : s.good = true) : (execSstatWrite c s).Good :=
  csrStep_good h (fun _ _ h => State.setSStat_good h)

theorem execSamplingStatsRead_good {c : CsrF} (h : s.good = true) : (execSamplingStatsRead c s).Good := by
  unfold execSamplingStatsRead
  dsimp only
  refine csrGate_good h ?_
  split
  · exact waitMat_good h
  · exact csrReadStep_good h

end Sys2Proof.Machine
end

section
/-! PROOFS. The invariant under launches, ends of strands, frames, loops and system instructions. -/

namespace Sys2Proof.Machine

variable {s : State}

/-! ## Machine/Launch -/

theorem State.mapCtxOf_good {w : Nat} {f : Context → Context} (h : s.good = true) : (s.mapCtxOf w f).good = true := h

theorem State.mapQueue_good {w q : Nat} {f : Queue → Queue} (h : s.good = true) : (s.mapQueue w q f).good = true := h

theorem State.postFirmware_good {stack : Nat} {r : Rec} (h : s.good = true) : (s.postFirmware stack r).good = true := h

theorem State.refusedRec_good {stack handle : Nat} {p : Launch} {reason : Nat} (h : s.good = true) :
    (s.refusedRec stack handle p reason).good = true := by
  unfold State.refusedRec
  split
  · exact State.postFirmware_good h
  · exact h

theorem State.takePacket_good {stack handle q : Nat} {a b : BitVec 512} (h : s.good = true) :
    (s.takePacket stack handle q a b).good = true := by
  unfold State.takePacket
  split
  · exact h
  · dsimp only
    split
    · exact State.refusedRec_good (State.mapQueue_good h)
    · exact State.mapQueue_good h

theorem State.line0_good {handle q : Nat} {a : BitVec 512} (h : s.good = true) : (s.line0 handle q a).good = true := h

theorem State.line1_good {stack handle q : Nat} {b : BitVec 512} (h : s.good = true) : (s.line1 stack handle q b).good = true := by
  unfold State.line1
  split
  · exact State.takePacket_good (State.mapQueue_good h)
  · exact State.mapQueue_good h

theorem portWrite_good {asid q : Nat} {f : Context → State} (h : s.good = true) (hf : ∀ (a : Context), (f a).good = true) :
    (portWrite asid q s f).Good := by
  unfold portWrite
  split
  · exact Out.good_fault _
  · split
    · exact Out.good_fault _
    · split
      · split
        · exact ok_good (hf _)
        · exact ok_good h
      · exact ok_good h

theorem execLaunchLine0Write_good {asid queue : Nat} {data : BitVec 512} (h : s.good = true) :
    (execLaunchLine0Write asid queue data s).Good := portWrite_good h (fun _ => State.line0_good h)

theorem execLaunchLine1Write_good {asid queue : Nat} {data : BitVec 512} (h : s.good = true) :
    (execLaunchLine1Write asid queue data s).Good := portWrite_good h (fun _ => State.line1_good h)

theorem execPortWriteDiscard_good {asid queue : Nat} (h : s.good = true) : (execPortWriteDiscard asid queue s).Good :=
  portWrite_good h (fun _ => State.mapQueue_good h)

theorem State.portRead_good {asid queue off : Nat} (h : s.good = true) : (s.portRead asid queue off).good = true := by
  unfold State.portRead
  split <;> exact h

theorem sigLaunch_good {f : RF} {q : Nat} (h : s.good = true) : (sigLaunch f q s).Good := by
  unfold sigLaunch
  dsimp only
  split
  · exact trapV_good h
  · split
    · exact stall_good h
    · exact Got.andThen_good (State.readN_good h) (fun _ _ h => Got.andThen_good (State.sends_good h (fun _ h => State.line1_good
        (State.line0_good h))) (fun _ _ h => retire_good h))

theorem State.sigRec_good {f : RF} (h : s.good = true) : (s.sigRec f).good = true := h

theorem sigEvent_good {f : RF} (h : s.good = true) : (sigEvent f s).Good := by
  unfold sigEvent
  split
  · exact stall_good h
  · exact Got.andThen_good (State.sends_good h (fun _ h => State.sigRec_good h)) (fun _ _ h => retire_good h)

theorem execSig_good {f : RF} (h : s.good = true) : (execSig f s).Good := by
  unfold execSig
  dsimp only
  split
  · exact waitX_good h
  · split
    · exact trapI_good h
    · split
      · exact trapV_good h
      · refine afterAll_good (force_good h) ?_
        split
        · exact sigLaunch_good (force_good h)
        · exact sigEvent_good (force_good h)

/-! ## Machine/End -/

theorem State.mapSlot_good {fe : Nat} {f : Slot → Slot} (h : s.good = true) : (s.mapSlot fe f).good = true := h

theorem State.noteFree_good {fe : Nat} (h : s.good = true) : (s.noteFree fe).good = true := h

theorem State.unbind_good {to_ : SlotState} {br : BindRec} (h : s.good = true) : (s.unbind to_ br).good = true := by
  unfold State.unbind
  dsimp only
  have hslots : ((spanOf s.st.fe s.st.br.g).foldl (fun u fe =>
      let u := u.mapSlot fe (fun p => { state := to_, br := if fe = s.st.fe then br else p.br, left := some (s.st.leaves fe) })
      if to_ = .free then u.noteFree fe else u) s).good = true := by
    refine good_foldl (fun u fe hu => ?_) h
    dsimp only
    split
    · exact State.noteFree_good (State.mapSlot_good hu)
    · exact State.mapSlot_good hu
  exact good_of_parts hslots id (fun _ => Strand.reset_good) id rfl

theorem State.mapCrew_good {c : Crew} {f : Crew → Crew} (h : s.good = true) : (s.mapCrew c f).good = true := h

theorem State.mapStrands_good {c : Crew} {f : Strand → Strand} (h : s.good = true) (hf : ∀ t, t.good = true → (f t).good = true) :
    (s.mapStrands c f).good = true := by
  have hmap : ∀ t : Strand, t.good = true → (if t.ofCrew c then f t else t).good = true := by
    intro t ht
    split
    · exact hf t ht
    · exact ht
  exact good_of_parts h id (hmap _) (Strand.good_map hmap) rfl

theorem State.leaveClock_good {c : Crew} (h : s.good = true) : (s.leaveClock c).good = true := h

theorem State.dropCrew_good {c : Crew} (h : s.good = true) : (s.dropCrew c).good = true := h

theorem State.requeue_good {c : Crew} (h : s.good = true) : (s.requeue c).good = true := h

theorem State.completeObjects_good {c : Crew} (h : s.good = true) : (s.completeObjects c).good = true := h

theorem State.afterLeave_good {fe ctx cnum : Nat} (h : s.good = true) : (s.afterLeave fe ctx cnum).good = true := by
  unfold State.afterLeave
  split
  · exact h
  · split
    · exact State.dropCrew_good (State.postRec_good (State.completeObjects_good h))
    · split
      · exact State.requeue_good h
      · exact h

theorem State.endStrand_good (h : s.good = true) : s.endStrand.good = true :=
  State.afterLeave_good (State.unbind_good (State.mapCrews_good h))

theorem execTend_good {f : RF} (h : s.good = true) : (execTend f s).Good := by
  unfold execTend
  dsimp only
  split
  · exact ok_good (force_good h)
  · refine afterAll_good (force_good h) ?_
    split
    · exact stall_good (force_good h)
    · exact ok_good (State.endStrand_good (force_good h))

theorem State.yieldStrand_good (h : s.good = true) : s.yieldStrand.good = true := by
  unfold State.yieldStrand
  dsimp only
  refine State.afterLeave_good ?_
  refine State.unbind_good ?_
  refine State.mapCrews_good ?_
  split
  · exact h
  · split
    · exact State.mapCrew_good (State.mapStrands_good h (fun _ h => h))
    · exact h

theorem execSyield_good {f : RF} (h : s.good = true) : (execSyield f s).Good := by
  unfold execSyield
  dsimp only
  split
  · exact trapI_good h
  · split
    · exact trapI_good h
    · exact afterAll_good (force_good h) (ok_good (State.yieldStrand_good (force_good h)))

theorem State.focus_good {fe : Nat} (h : s.good = true) : (s.focus fe).good = true := by
  unfold State.focus
  split
  · exact h
  · split
    · next t ht =>
      have hst := good_st h
      refine good_of_parts h id (fun _ => good_others h t (List.mem_of_find?_eq_some ht)) (fun ho u hu => ?_) rfl
      rcases List.mem_append.1 hu with hu | hu
      · split at hu
        · cases hu
        · exact List.mem_singleton.1 hu ▸ hst
      · exact ho u (List.mem_filter.1 hu).1
    · exact h

theorem State.settlePass_good (h : s.good = true) : s.settlePass.good = true := by
  unfold State.settlePass
  split
  · exact h
  · split
    · exact State.setPass_good h
    · exact State.setPass_good (Pass.partly_good h)

theorem State.settleCopies_good (h : s.good = true) : s.settleCopies.good = true :=
  good_foldl (fun _ _ h => good_foldl (fun _ _ h => State.copyPart_good h) h) h

theorem settleMats_good {fuel : Nat} (h : s.good = true) : (settleMats fuel s).good = true := by
  induction fuel generalizing s with
  | zero => exact h
  | succ k ih =>
    unfold settleMats
    split
    · exact ih (State.matPop_good h)
    · exact h

theorem State.settlePackets_good (h : s.good = true) : s.settlePackets.good = true := by
  unfold State.settlePackets
  refine good_foldl ?_ h
  intro _ _ h
  split
  · exact State.packetDo_good h
  · exact h

theorem State.settleRamos_good (h : s.good = true) : s.settleRamos.good = true := by
  unfold State.settleRamos
  refine good_foldl ?_ h
  intro _ _ h
  split
  · split
    · exact State.ramoDo_good h
    · exact h
  · exact h

theorem State.settle_good (h : s.good = true) : s.settle.good = true :=
  State.unbind_good (State.settleRamos_good (State.settlePackets_good (settleMats_good (State.setMat_good (State.settleCopies_good
      (State.settlePass_good h))))))

theorem State.freeCrewSlots_good {c : Crew} (h : s.good = true) : (s.freeCrewSlots c).good = true :=
  good_foldl (fun _ _ h => State.noteFree_good (State.mapSlot_good h)) h

theorem State.reap_good (h : s.good = true) : s.reap.good = true := by
  unfold State.reap
  dsimp only
  split
  · exact h
  · exact good_of_parts h (Memory.wfFrom_filter _ _ _) id id rfl

theorem execKillTaskComplete_good {ctx cnum : Nat} (h : s.good = true) : (execKillTaskComplete ctx cnum s).Good := by
  unfold execKillTaskComplete
  split
  · exact ok_good h
  · split
    · exact ok_good h
    · dsimp only
      split
      · exact ok_good h
      · refine ok_good ?_
        refine State.reap_good ?_
        refine State.dropCrew_good ?_
        refine State.postRec_good ?_
        refine State.mapQueue_good ?_
        refine State.freeCrewSlots_good ?_
        refine good_foldl ?_ h
        intro _ _ h
        split
        · exact State.settle_good (State.focus_good h)
        · exact h

theorem execPageFaultDeadline_good {ctx cnum : Nat} (h : s.good = true) : (execPageFaultDeadline ctx cnum s).Good := by
  unfold execPageFaultDeadline
  split
  · split <;> exact ok_good h
  · exact ok_good h

theorem State.crewKill_good {c : Crew} {cause : BitVec 8} {reason : Nat} (h : s.good = true) :
    (s.crewKill c cause reason).good = true := State.killCrew_good h

theorem execPreEmptionDeadline_good {ctx cnum : Nat} (h : s.good = true) : (execPreEmptionDeadline ctx cnum s).Good := by
  unfold execPreEmptionDeadline
  split
  · split
    · exact ok_good (State.crewKill_good h)
    · exact ok_good h
  · exact ok_good h

/-! ## Machine/FabricIns -/

theorem execFld_good {f : RF} (h : s.good = true) : (execFld f s).Good := by
  unfold execFld
  dsimp only
  split
  · exact waitX_good h
  · split
    · exact trapI_good h
    · refine afterPass_good h ?_
      refine afterRun_good h ?_
      split
      · exact trapV_good h
      · refine afterFence_good h ?_
        refine Got.andThen_good (State.readN_good h) ?_
        intro _ _ h
        split
        · exact trapE_good h
        · exact retire_good (State.dirtyIf_good (State.setFab_good h))

theorem execFtok_good {f : RF} (h : s.good = true) : (execFtok f s).Good := by
  unfold execFtok
  dsimp only
  split
  · exact waitX_good h
  · split
    · exact trapI_good h
    · split
      · exact trapI_good h
      · split
        · exact trapI_good h
        · exact retire_good (State.dirtyVs_good (State.setFab_good h))

theorem execFstat_good {f : RF} (h : s.good = true) : (execFstat f s).Good := by
  unfold execFstat
  split
  · exact waitX_good h
  · split
    · exact trapI_good h
    · exact retire_good (State.setX_good h)

theorem execFrun_good {f : RF} (h : s.good = true) : (execFrun f s).Good := by
  unfold execFrun
  dsimp only
  refine vecGate_good h ?_
  refine forceThen_good h ?_
  intro _ h
  split
  · exact trapI_good h
  · split
    · exact trapI_good h
    · split
      · exact retire_good (State.raiseOnce_good (State.logLost_good (State.closeRun_good (State.setEng_good (State.dirtyVs_good
          (State.setFab_good h))))))
      · exact retire_good (State.readWords_good (State.setEng_good (State.dirtyVs_good (State.setFab_good h))))

/-! ## Machine/Frame -/

theorem frameKeys_good {ps : List (Nat × Nat)} {use : Use} (h : s.good = true) : (frameKeys ps use s).Good := by
  induction ps generalizing s with
  | nil => exact Got.good_val h
  | cons p ps ih =>
    have hacc : (s.access p.1 p.2 7 use).Good := State.access_good h
    unfold frameKeys
    split
    · have hrest := ih (hacc.val ‹_›)
      split
      · exact Got.good_val (hrest.val ‹_›)
      · exact Got.good_wait (hrest.wait ‹_›)
      · exact Got.good_trap (hrest.trap ‹_›)
    · exact Got.good_wait (hacc.wait ‹_›)
    · exact Got.good_trap (hacc.trap ‹_›)

theorem State.frameAt_good {a n : Nat} {use : Use} (h : s.good = true) : (s.frameAt a n use).Good := by
  unfold State.frameAt
  dsimp only
  split
  · exact Got.good_trap h
  · split
    · exact frameKeys_good ((State.compared_good h).val ‹_›)
    · exact Got.good_wait ((State.compared_good h).wait ‹_›)
    · exact Got.good_trap ((State.compared_good h).trap ‹_›)

theorem State.saveForce_good (h : s.good = true) : s.saveForce.good = true := by
  unfold State.saveForce
  split
  · exact h
  · dsimp only
    exact State.good_of_same (force_good h) rfl rfl rfl rfl rfl rfl

theorem State.dropPassReports_good (h : s.good = true) : s.dropPassReports.good = true := h

theorem State.saveFrame_good {a : Nat} {ks : List Nat} {word0 : Word} {vec : Option (Vec × Fabric)} (h : s.good = true) :
    (s.saveFrame a ks word0 vec).Good := by
  unfold State.saveFrame
  dsimp only
  refine State.sends_good h fun u hu => ?_
  have hw : (u.write (.engine 1) (ks.zip ((List.range ks.length).map (frameByteAt
      { serial := s.frames.length, ctx := s.st.br.ctx, word0 := word0, loops := s.st.loops, vec := vec })))).good = true := write_good hu
  have hl := good_loops h
  obtain ⟨hm, hst, ho, hf⟩ := (State.good_iff _).1 hw
  exact (State.good_iff _).2 ⟨hm, hst, ho, List.forall_mem_cons.2 ⟨hl, good_frames hu⟩⟩

theorem execVsavef_good {f : RF} (h : s.good = true) : (execVsavef f s).Good := by
  unfold execVsavef
  dsimp only
  split
  · exact waitX_good h
  · refine afterRun_good h ?_
    split
    · exact trapI_good h
    · split
      · exact trapV_good h
      · split
        · exact afterFence_good h (Got.andThen_good (State.frameAt_good h) (fun _ _ h => Got.andThen_good (State.saveFrame_good h)
            (fun _ _ h => retire_good h)))
        · exact withWords_good h (fun _ h => afterFence_good h (Got.andThen_good (State.frameAt_good h) (fun _ _ h => Got.andThen_good
            (State.saveFrame_good (State.saveForce_good h)) (fun _ _ h => retire_good (State.setSStat_good (State.setFab_good
            (State.setVec_good (State.dropPassReports_good h))))))))

theorem State.restore_good {ks : List Nat} {f : Frame} (h : s.good = true) (hf : f ∈ s.frames) : (s.restore ks f).good = true := by
  have hset := good_of_parts (t := { s with st := { s.st with loops := f.loops } }) h id (Strand.good_setLoops (good_frames h f hf)) id rfl
  unfold State.restore
  dsimp only
  split <;> exact hset

theorem restoreForce_good {k : State → Out} (h : s.good = true) (hk : ∀ (s : State), s.good = true → (k s).Good) :
    (restoreForce s k).Good := by
  unfold restoreForce
  split
  · exact hk _ h
  · exact forceThen_good h (fun _ h => hk _ h)

theorem execVrestf_good {f : RF} (h : s.good = true) : (execVrestf f s).Good := by
  unfold execVrestf
  dsimp only
  split
  · exact waitX_good h
  · refine afterPass_good h (afterRun_good h (restoreForce_good h fun s h => ?_))
    split
    · exact trapI_good h
    split
    · exact trapV_good h
    refine afterFence_good h (Got.andThen_good (State.frameAt_good h) fun head s h => ?_)
    split
    · exact trapV_good h
    split
    · exact trapI_good h
    refine Got.andThen_good (State.frameAt_good h) fun ks s h => ?_
    split
    · exact trapV_good h
    · exact trapI_good h
    · next hfound => exact retire_good (State.restore_good h (List.mem_of_find?_eq_some hfound))

/-! ## Machine/Loop -/

theorem moveTo_good {pc : Word} {ls : List LoopLvl} (h : s.good = true) (hl : ls.length ≤ 6) : (moveTo s pc ls).Good :=
  ok_good (State.good_of_parts h id (Strand.good_setLoops hl) id rfl)

theorem execLoop_good {f : IF} (h : s.good = true) : (execLoop f s).Good := by
  unfold execLoop
  dsimp only
  split
  · exact waitX_good h
  split
  · exact trapI_good h
  split
  · exact trapI_good h
  · next hfull =>
    split
    · exact moveTo_good h (State.good_loops h)
    · exact moveTo_good h (Nat.lt_of_not_le hfull)

theorem execLidx_good {f : RF} (h : s.good = true) : (execLidx f s).Good := by
  unfold execLidx
  split
  · exact waitX_good h
  · exact retire_good (State.setX_good h)

theorem execLbrk_good {f : RF} (h : s.good = true) : (execLbrk f s).Good := by
  have hl := State.good_loops h
  unfold execLbrk
  split
  · exact trapI_good h
  · next l t ht => exact moveTo_good h (by rw [ht] at hl; exact Nat.le_of_succ_le hl)

/-! ## Machine/Sys -/

theorem execEcall_good (h : s.good = true) : (execEcall s).Good := trapV_good h

theorem execEbreak_good (h : s.good = true) : (execEbreak s).Good := trapV_good h

theorem execFenceI_good {_imm : BitVec 12} {_rs1 _rd : BitVec 5} (h : s.good = true) : (execFenceI _imm _rs1 _rd s).Good :=
  retire_good h

theorem execIllegalInstruction_good {w : IWord} (h : s.good = true) : (execIllegalInstruction w s).Good := trapV_good h

theorem execTret_good {f : RF} (h : s.good = true) : (execTret f s).Good := by
  unfold execTret
  split
  · exact tretEffect_good h
  · exact trapI_good h

theorem execHarnq_good {f : RF} (h : s.good = true) : (execHarnq f s).Good := by
  unfold execHarnq
  split
  · exact trapI_good h
  · split
    · exact waitX_good h
    · exact retire_good (State.setX_good h)

theorem execDueForce_good (h : s.good = true) : (execDueForce s).Good := by
  unfold execDueForce
  split
  · exact ok_good (force_good h)
  · exact ok_good h

theorem execImpreciseTrapEntry_good (h : s.good = true) : (execImpreciseTrapEntry s).Good := by
  unfold execImpreciseTrapEntry
  split
  · exact ok_good h
  · split
    · dsimp only
      refine ok_good ?_
      split
      · refine trapEnter_good ?_
        exact State.good_of_same (trapForce_good h) rfl rfl rfl rfl rfl rfl
      · refine trapEnter_good ?_
        exact State.good_of_same (trapForce_good h) rfl rfl rfl rfl rfl rfl
    · exact ok_good h

theorem execPreEmptTrap_good (h : s.good = true) : (execPreEmptTrap s).Good := by
  unfold execPreEmptTrap
  split
  · exact trapV_good h
  · exact ok_good h

end Sys2Proof.Machine
end

section
/-! PROOFS. The invariant under the firmware: placement, slots, records and the mailbox. -/

namespace Sys2Proof.Machine

variable {s : State}

/-! ## Machine/Place -/

theorem State.unlock_good (h : s.good = true) : s.unlock.good = true := h

theorem State.unlockFor_good (h : s.good = true) : s.unlockFor.good = true := h

theorem State.reserve_good {rs : List Ready} {t : Ready} (h : s.good = true) : (s.reserve rs t).good = true := by
  unfold State.reserve
  split
  · exact good_of_same h rfl rfl rfl rfl rfl rfl
  · dsimp only
    split
    · split <;> exact good_of_same h rfl rfl rfl rfl rfl rfl
    · exact h

theorem State.writeRecords_good {fe : Nat} {b : BindRec} (h : s.good = true) : (s.writeRecords fe b).good = true :=
  good_foldl (fun _ _ h => State.mapSlot_good h) h

theorem State.taken_good {t : Ready} {cnum : Nat} (h : s.good = true) : (s.taken t cnum).good = true := h

theorem State.bindCrew_good {t : Ready} {ps : List Place} (h : s.good = true) : (s.bindCrew t ps).good = true := by
  unfold State.bindCrew
  split
  · exact good_of_same (s := List.foldl _ s ps) (good_foldl (fun _ _ h => writeRecords_good h) h) rfl rfl rfl rfl rfl rfl
  · exact h

theorem State.emptied_good (h : s.good = true) : s.emptied.good = true := h

theorem State.killUnbindable_good {t : Ready} (h : s.good = true) : (s.killUnbindable t).good = true := by
  unfold State.killUnbindable
  split
  · exact State.crewKill_good (State.mapQueue_good h)
  · exact h

theorem State.unplace_good {c : Crew} (h : s.good = true) : (s.unplace c).good = true := by
  unfold State.unplace
  dsimp only
  split
  · exact State.dropCrew_good (State.mapQueue_good (State.freeCrewSlots_good h))
  · exact State.leaveClock_good (State.mapCrew_good (State.freeCrewSlots_good h))

theorem State.unplaceOn_good {shut : List Nat} (h : s.good = true) : (s.unplaceOn shut).good = true :=
  good_foldl (fun _ _ h => State.unplace_good h) h

theorem State.lockStacks_good {t : Ready} {ks : List Nat} (h : s.good = true) : (s.lockStacks t ks).good = true :=
  State.unplaceOn_good h

theorem execLockedClockEntry_good {stack : Nat} (h : s.good = true) : (execLockedClockEntry stack s).Good := by
  unfold execLockedClockEntry
  split
  · exact Out.good_fault _
  split
  · exact ok_good h
  dsimp only
  split
  · split
    · split
      · exact ok_good (State.good_of_same (State.bindCrew_good (s := { s with fw := { s.fw with
          locking := s.fw.locking.filter (fun k => k != stack), locked := s.fw.locked ++ [stack] } }) h) rfl rfl rfl rfl rfl rfl)
      · exact ok_good (State.unlockFor_good h)
    · exact ok_good h
  · exact ok_good (State.unlockFor_good h)

theorem State.dropStale_good (h : s.good = true) : s.dropStale.good = true := by
  unfold State.dropStale
  dsimp only
  split
  · split
    · exact State.unlockFor_good h
    · exact h
  · split <;> exact h

theorem execTaskPlacement_good (h : s.good = true) : (execTaskPlacement s).Good := by
  unfold execTaskPlacement
  dsimp only
  split
  · refine ok_good ?_
    exact State.good_of_same (State.dropStale_good h) rfl rfl rfl rfl rfl rfl
  · split
    · refine ok_good ?_
      split
      · exact State.dropStale_good h
      · exact State.reserve_good (State.dropStale_good h)
    · split
      · split
        · exact ok_good (State.killUnbindable_good (State.dropStale_good h))
        · split
          · exact ok_good (State.lockStacks_good (State.dropStale_good h))
          · exact ok_good (State.bindCrew_good (State.dropStale_good h))
      · split
        · exact ok_good (State.killUnbindable_good (State.reserve_good (State.dropStale_good h)))
        · split
          · exact ok_good (State.lockStacks_good (State.reserve_good (State.dropStale_good h)))
          · exact ok_good (State.bindCrew_good (State.reserve_good (State.dropStale_good h)))

theorem execPriorityAging_good (h : s.good = true) : (execPriorityAging s).Good := by
  unfold execPriorityAging
  refine ok_good ?_
  refine good_foldl ?_ h
  intro _ _ h
  split
  · exact State.mapQueue_good h
  · exact h

theorem State.without_good {cs : List Crew} (h : s.good = true) : (s.without cs).good = true := h

theorem State.preEmpt_good {cs : List Crew} (h : s.good = true) : (s.preEmpt cs).good = true :=
  good_foldl (fun _ _ h => State.mapCrew_good (State.mapStrands_good h (fun _ h => h))) h

theorem execPreEmptionDecision_good (h : s.good = true) : (execPreEmptionDecision s).Good := by
  unfold execPreEmptionDecision
  split
  · exact ok_good (State.preEmpt_good h)
  · exact ok_good h

/-! ## Machine/Slots -/

theorem slotEvent_good {fe : Nat} {k : Out} (hk : k.Good) : (slotEvent fe k).Good := by
  unfold slotEvent
  split
  · exact Out.good_fault _
  · exact hk

theorem State.turnSlot_good {fe : Nat} {st : SlotState} (h : s.good = true) : (s.turnSlot fe st).good = true :=
  good_foldl (fun _ _ h => State.mapSlot_good h) h

theorem State.slotFrom_good {fe : Nat} {from_ to_ : SlotState} (h : s.good = true) : (s.slotFrom fe from_ to_).good = true := by
  unfold State.slotFrom
  split
  · exact State.turnSlot_good h
  · exact h

theorem execSlotHold_good {fe : Nat} (h : s.good = true) : (execSlotHold fe s).Good := slotEvent_good (ok_good (State.slotFrom_good h))

theorem State.refuseArm_good {fe : Nat} (h : s.good = true) : (s.refuseArm fe).good = true := h

theorem State.good_of_arm {fe : Nat} (h : s.good = true) : (s.arm fe).good = true := by
  unfold State.arm
  dsimp only
  exact State.good_of_same (State.turnSlot_good h) rfl rfl rfl rfl rfl rfl

theorem execSlotArm_good {fe : Nat} (h : s.good = true) : (execSlotArm fe s).Good := by
  unfold execSlotArm
  refine slotEvent_good ?_
  split
  · exact ok_good h
  · split
    · exact ok_good (State.good_of_arm h)
    · split
      · exact ok_good (State.good_of_arm (State.refuseArm_good (State.turnSlot_good h)))
      · exact ok_good (State.refuseArm_good h)

theorem execSlotDisarm_good {fe : Nat} (h : s.good = true) : (execSlotDisarm fe s).Good :=
  slotEvent_good (ok_good (State.slotFrom_good h))

theorem execSlotFree_good {fe : Nat} (h : s.good = true) : (execSlotFree fe s).Good := by
  unfold execSlotFree
  refine slotEvent_good ?_
  dsimp only
  refine ok_good ?_
  refine good_foldl ?_ (State.slotFrom_good h)
  intro _ _ h
  split
  · exact State.noteFree_good h
  · exact h

theorem execBindRecordWrite_good {fe word : Nat} {value : Word} (h : s.good = true) : (execBindRecordWrite fe word value s).Good := by
  unfold execBindRecordWrite
  refine slotEvent_good ?_
  split
  · exact ok_good (State.mapSlot_good h)
  · exact ok_good h

theorem State.scrubPad_good {fe : Nat} (h : s.good = true) : (s.scrubPad fe).good = true :=
  good_of_parts h (Memory.wf_clear _ _ _) id id rfl

theorem State.scrub_good {fe : Nat} {b : BindRec} (h : s.good = true) : (s.scrub fe b).good = true := by
  unfold State.scrub
  dsimp only
  refine good_foldl ?_ h
  intro _ _ h
  refine State.mapSlot_good ?_
  split
  · exact h
  · exact State.scrubPad_good h

theorem execCrewArmed_good {ctx cnum : Nat} (h : s.good = true) : (execCrewArmed ctx cnum s).Good := by
  unfold execCrewArmed
  split
  · split
    · exact ok_good (good_foldl (fun _ _ h => State.scrub_good h) h)
    · exact ok_good h
  · exact ok_good h

theorem State.newStrand_good {c : Crew} {fe : Nat} {b : BindRec} : (s.newStrand c fe b).good = true := by
  have hslip : 1 ≤ Csrs.reset.vslip.toNat ∧ Csrs.reset.vslip.toNat ≤ 16 := by decide
  unfold State.newStrand
  dsimp only
  split
  · exact (Strand.good_iff _).2 ⟨by simp, Nat.zero_le _, hslip⟩
  · exact (Strand.good_iff _).2 ⟨by simp [entryRegs], Nat.zero_le _, hslip⟩

theorem State.join_good {t : Strand} (h : s.good = true) (ht : t.good = true) : (s.join t).good = true := by
  unfold State.join
  split
  · exact good_of_parts h id (fun _ => ht) id rfl
  · refine good_of_parts h id id (fun ho u hu => ?_) rfl
    rcases List.mem_append.1 hu with hu | hu
    · exact ho u hu
    · exact List.mem_singleton.1 hu ▸ ht

theorem State.leaveQueue_good {c : Crew} (h : s.good = true) : (s.leaveQueue c).good = true := h

theorem execStrandStart_good {fe : Nat} (h : s.good = true) : (execStrandStart fe s).Good := by
  unfold execStrandStart
  refine slotEvent_good ?_
  dsimp only
  split
  · exact ok_good h
  · split
    · split
      · exact ok_good h
      · refine ok_good ?_
        split
        · split
          · exact State.leaveQueue_good (State.join_good (State.mapCrew_good (good_foldl
              (fun _ _ h => State.mapSlot_good h) h)) State.newStrand_good)
          · exact State.join_good (State.mapCrew_good (good_foldl (fun _ _ h => State.mapSlot_good h) h)) State.newStrand_good
        · split
          · exact State.leaveQueue_good (State.join_good (State.mapCrew_good (good_foldl
              (fun _ _ h => State.mapSlot_good h) h)) State.newStrand_good)
          · exact State.join_good (State.mapCrew_good (good_foldl (fun _ _ h => State.mapSlot_good h) h)) State.newStrand_good
    · exact ok_good h

/-! ## Machine/Records -/

theorem State.recGone_good {fe : Nat} {r : Rec} (h : s.good = true) : (s.recGone fe r).good = true := by
  unfold State.recGone
  dsimp only
  split
  · exact State.mapCtxOf_good h
  · exact h

theorem State.handOn_good {fe : Nat} {r : Rec} (h : s.good = true) : (s.handOn fe r).good = true := by
  unfold State.handOn
  dsimp only
  exact State.good_of_same (State.recGone_good h) rfl rfl rfl rfl rfl rfl

theorem State.recFault_good {fe : Nat} {c : Context} {task va : Nat} {use : Use} {mig : Bool} (h : s.good = true) :
    (s.recFault fe c task va use mig).good = true := by
  unfold State.recFault
  dsimp only
  have hbase : (if mig = true then s
else s.postFb (if fe < 512 then stackOf fe else fe - 512) (fe % 512) 15 c.asid (BitVec.ofNat 32 task) use va).good = true := by
    split
    · exact h
    · exact State.postFb_good h
  exact hbase

theorem State.recAt_good {fe : Nat} {c : Context} {task va : Nat} {use : Use} (h : s.good = true) :
    (s.recAt fe c task va use).Good := by
  unfold State.recAt
  split
  · split
    · exact RecAt.good_bad (State.endWaits_good h)
    · exact RecAt.good_waits h
  · split
    · exact RecAt.good_bad h
    · dsimp only
      split
      · exact RecAt.good_key
      · exact RecAt.good_waits (State.recFault_good h)
      · exact RecAt.good_waits (State.recFault_good h)
      · exact RecAt.good_bad h

theorem State.writeRec_good {fe : Nat} {r : Rec} {c : Context} (h : s.good = true) : (s.writeRec fe r c).good = true := by
  unfold State.writeRec
  dsimp only
  split
  · exact (State.recAt_good h).waits ‹_›
  · exact State.handOn_good ((State.recAt_good h).bad ‹_›)
  · split
    · exact State.handOn_good h
    · split
      · exact h
      · split
        · exact (State.recAt_good h).waits ‹_›
        · exact (State.recAt_good h).waits ‹_›
        · exact State.handOn_good ((State.recAt_good h).bad ‹_›)
        · exact State.handOn_good ((State.recAt_good h).bad ‹_›)
        · split
          · exact State.handOn_good h
          · exact State.recGone_good (State.write_good (State.write_good h))

theorem recordEvent_good {fe : Nat} (h : s.good = true) : (recordEvent fe s).Good := by
  unfold recordEvent
  split
  · exact Out.good_fault _
  · split
    · exact ok_good h
    · split
      · exact ok_good h
      · split
        · exact ok_good (State.reap_good (State.writeRec_good h))
        · exact ok_good (State.handOn_good h)

theorem execCompletionRecordWrite_good {fe : Nat} (h : s.good = true) : (execCompletionRecordWrite fe s).Good := recordEvent_good h

theorem execHeaderReread_good {fe : Nat} (h : s.good = true) : (execHeaderReread fe s).Good := recordEvent_good h

theorem execFaultRecordToHost_good {stack : Nat} (h : s.good = true) : (execFaultRecordToHost stack s).Good := by
  unfold execFaultRecordToHost
  split
  · exact Out.good_fault _
  · dsimp only
    split <;> exact ok_good h

theorem State.bufferRead_good {stack : Nat} (h : s.good = true) : (s.bufferRead stack).good = true := by
  unfold State.bufferRead
  split <;> exact h

theorem execFaultBufferStatusWrite_good {stack : Nat} {value : Word} (h : s.good = true) :
    (execFaultBufferStatusWrite stack value s).Good := by
  unfold execFaultBufferStatusWrite
  split
  · exact Out.good_fault _
  · exact ok_good h

/-! ## Machine/Mailbox -/

theorem State.reply_good {status : Nat} {results : List Word} (h : s.good = true) : (s.reply status results).good = true := h

theorem command_good {code : Nat} {k : State → Out} (h : s.good = true) (hk : ∀ (s : State), s.good = true → (k s).Good) :
    (command code s k).Good := by
  unfold command
  split
  · exact ok_good h
  · exact hk _ h

theorem State.refuse_good (h : s.good = true) : s.refuse.good = true := h

theorem execCreateContext_good {root tvec : Word} {pool : Vector Nat 8} {keep : Bool} (h : s.good = true) :
    (execCreateContext root tvec pool keep s).Good := by
  refine command_good h fun s h => ?_
  split
  · dsimp only
    split
    · exact ok_good (State.reply_good (State.good_of_parts h id id id rfl))
    · exact ok_good (State.refuse_good h)
  · exact ok_good (State.refuse_good h)

theorem State.killWaiting_good {w : Waiting} {reason handle : Nat} (h : s.good = true) :
    (s.killWaiting w reason handle).good = true := by
  unfold State.killWaiting
  split
  · exact State.crewKill_good h
  · exact State.postFirmware_good h

theorem State.killTasks_good {c : Context} {sel : Launch → Bool} {reason : Nat} (h : s.good = true) :
    (s.killTasks c sel reason).good = true :=
  State.mapCtxOf_good (good_foldl (fun _ _ h => State.killWaiting_good h) (good_foldl (fun _ _ h => State.crewKill_good h) h))

theorem execDestroyContext_good {ctx : Nat} (h : s.good = true) : (execDestroyContext ctx s).Good := by
  unfold execDestroyContext
  refine command_good h ?_
  intro _ h
  split
  · exact ok_good (State.refuse_good h)
  · exact ok_good (State.reap_good (State.mapCtxOf_good (State.killTasks_good h)))

theorem execSetQueue_good {ctx queue pri : Nat} (h : s.good = true) : (execSetQueue ctx queue pri s).Good := by
  unfold execSetQueue
  refine command_good h ?_
  intro _ h
  split
  · exact ok_good (State.refuse_good h)
  · split
    · exact ok_good (State.refuse_good h)
    · exact ok_good (State.reply_good (State.mapQueue_good h))

theorem execKillTask_good {ctx : Nat} {task : BitVec 32} (h : s.good = true) : (execKillTask ctx task s).Good := by
  unfold execKillTask
  refine command_good h ?_
  intro _ h
  split
  · exact ok_good (State.refuse_good h)
  · exact ok_good (State.reply_good (State.killTasks_good h))

theorem execShootdown_good {w0 w1 w2 w3 : Word} (h : s.good = true) : (execShootdown w0 w1 w2 w3 s).Good := by
  unfold execShootdown
  refine command_good h ?_
  intro _ h
  dsimp only
  split
  · exact ok_good (State.refuse_good h)
  · exact ok_good h

theorem execShootdownComplete_good {n : Nat} (h : s.good = true) : (execShootdownComplete n s).Good := by
  unfold execShootdownComplete
  split
  · exact ok_good h
  · exact ok_good (State.reply_good h)

theorem State.setRegion_good {r code : Nat} (h : s.good = true) : (s.setRegion r code).good = true :=
  good_of_parts h (Memory.wf_clear _ _ _) id (Strand.good_map fun _ ht => ht) rfl

theorem execGranuleRegions_good {change : Option (Nat × Nat)} (h : s.good = true) : (execGranuleRegions change s).Good := by
  unfold execGranuleRegions
  refine command_good h ?_
  intro _ h
  dsimp only
  split
  · exact ok_good (State.reply_good h)
  · split
    · exact ok_good (State.refuse_good h)
    · exact ok_good (State.reply_good (State.setRegion_good h))

theorem State.barWrite_good {off : Nat} {w : Word} (h : s.good = true) : (s.barWrite off w).Good := by
  unfold State.barWrite
  dsimp only
  split
  · exact ok_good h
  · split
    · exact ok_good h
    · split
      · exact ok_good h
      · split
        · exact execShootdown_good h
        · exact ok_good h

theorem State.barRead_good {off : Nat} (h : s.good = true) : (s.barRead off).good = true := by
  unfold State.barRead
  dsimp only
  split <;> exact h

end Sys2Proof.Machine
end

section
/-! PROOFS. The invariant under remote instructions, the scalar instructions and service. -/

namespace Sys2Proof.Machine

variable {s : State}

/-! ## Machine/RemoteIns -/

theorem State.noteTarget_good {r : Ramo} (h : s.good = true) : (s.noteTarget r).good = true := h

theorem execRamo_good {f : RF} (h : s.good = true) : (execRamo f s).Good := by
  unfold execRamo
  dsimp only
  split
  · exact waitX_good h
  · split
    · exact trapI_good h
    · split
      · exact trapV_good h
      · exact retire_good (State.setEng_good (State.noteTarget_good h))

theorem State.ramoqDone_good {rd : BitVec 5} {v : Word} (h : s.good = true) : (s.ramoqDone rd v).Good :=
  retire_good (State.setEng_good (State.setX_good h))

theorem execRamoqAnswer_good (h : s.good = true) : (execRamoqAnswer s).Good := by
  unfold execRamoqAnswer
  split
  · split
    · exact ok_good h
    · exact State.ramoqDone_good h
  · exact ok_good h

theorem execRamoq_good {f : RF} (h : s.good = true) : (execRamoq f s).Good := by
  unfold execRamoq
  dsimp only
  split
  · exact waitX_good h
  · split
    · exact trapI_good h
    · split
      · split
        · exact waitRamo_good h
        · exact execRamoqAnswer_good h
      · exact ok_good (State.setEng_good h)

theorem execRamoAtTarget_good {n : Nat} (h : s.good = true) : (execRamoAtTarget n s).Good := by
  unfold execRamoAtTarget
  split
  · split
    · exact ok_good h
    · split
      · exact ok_good (State.ramoDo_good h)
      · exact ok_good (State.postHalt_good h)
      · exact ok_good h
  · exact ok_good h

theorem execRamoResponse_good {n : Nat} (h : s.good = true) : (execRamoResponse n s).Good := by
  unfold execRamoResponse
  split
  · split
    · exact ok_good (State.ramoGone_good h)
    · exact ok_good h
  · exact ok_good h

theorem waitReply_good {i : Instr} (h : s.good = true) : (waitReply i s).Good := by
  unfold waitReply
  split
  · exact waitPacket_good h
  · exact ok_good (State.replyIn_good h)

theorem afterRed_good {i : Instr} {k : State → Out} (h : s.good = true) (hk : ∀ (s : State), s.good = true → (k s).Good) :
    (afterRed s i k).Good := by
  unfold afterRed
  split
  · exact afterPass_good h (forceThen_good h (fun _ h => hk _ h))
  · exact hk _ h

theorem packetGate_good {i : Instr} {a : Word} {xs : List (BitVec 5)} {k : Out} (h : s.good = true) (hk : k.Good) :
    (packetGate s i a xs k).Good := by
  unfold packetGate
  split
  · exact trapI_good h
  · split
    · exact waitX_good h
    · split
      · exact trapI_good h
      · split
        · exact trapV_good h
        · split
          · exact trapI_good h
          · exact hk

theorem sendPacket_good {i : Instr} {rd : BitVec 5} {p : Nat → Packet} (h : s.good = true) : (sendPacket s i rd p).Good := by
  unfold sendPacket
  split
  · exact retire_good (State.setX_good (State.setEng_good h))
  · exact waitReply_good h

theorem execMpkw_good {f : RF} (h : s.good = true) : (execMpkw f s).Good :=
  packetGate_good h (afterRed_good h (fun _ h => sendPacket_good h))

theorem execMpkr_good {f : RF} (h : s.good = true) : (execMpkr f s).Good := packetGate_good h (sendPacket_good h)

theorem popReply_good {f : RF} {r : Reply} (h : s.good = true) : (popReply f r s).Good := by
  unfold popReply
  dsimp only
  refine retire_good ?_
  refine State.setX_good ?_
  split
  · exact State.dirtyIf_good (State.setVec_good (State.setEng_good h))
  · exact State.setEng_good h

theorem execMpkp_good {f : RF} (h : s.good = true) : (execMpkp f s).Good := by
  unfold execMpkp
  dsimp only
  split
  · exact trapI_good h
  · split
    · exact waitX_good h
    · split
      · exact trapI_good h
      · split
        · split
          · exact afterRed_good h (fun _ h => popReply_good h)
          · exact popReply_good h
        · split
          · exact retire_good (State.setX_good h)
          · exact waitReply_good h

theorem execPacketAtBaseDie_good {n : Nat} (h : s.good = true) : (execPacketAtBaseDie n s).Good := by
  unfold execPacketAtBaseDie
  split
  · exact ok_good (runPacket_good h)
  · exact ok_good h

theorem execPacketReplyArrival_good {n : Nat} (h : s.good = true) : (execPacketReplyArrival n s).Good := ok_good (State.replyIn_good h)

/-! ## Machine/Scalar -/

theorem State.addFlags_good {fl : FFlags} (h : s.good = true) : (s.addFlags fl).good = true := h

theorem withRm_good {i : Scalar} {rm : BitVec 3} {k : Nat → Out} (h : s.good = true) (hk : ∀ (a : Nat), (k a).Good) :
    (withRm s i rm k).Good := by
  unfold withRm
  split
  · exact hk _
  · exact trapI_good h

theorem fDone_good {dbl : Bool} {rd : BitVec 5} {r : Nat × FFlags} (h : s.good = true) : (fDone s dbl rd r).Good :=
  retire_good (State.addFlags_good (State.setF_good h))

theorem scalarLoad_good {a n : Nat} {k : List Byte → State → Out} (h : s.good = true) (hk : ∀ (a : List Byte)
    (s : State), s.good = true → (k a s).Good) :
    (scalarLoad s a n k).Good := Got.andThen_good (State.readN_good h) (fun _ _ h => hk _ _ h)

theorem scalarStore_good {i : Instr} {a n v : Nat} (h : s.good = true) : (scalarStore s i a n v).Good := by
  unfold scalarStore
  split
  · exact waitPass_good h
  · exact Got.andThen_good (State.storeN_good h) (fun _ _ h => retire_good h)

theorem State.amoAccess_good {a n : Nat} {use : Use} (h : s.good = true) : (s.amoAccess a n use).Good := by
  unfold State.amoAccess
  split
  · exact Got.good_trap h
  · split
    · split
      · exact Got.good_trap ((State.access_good h).val ‹_›)
      · exact Got.good_val ((State.access_good h).val ‹_›)
    · exact Got.good_wait ((State.access_good h).wait ‹_›)
    · exact Got.good_trap ((State.access_good h).trap ‹_›)

theorem lrStep_good {dbl : Bool} {rd rs1 : BitVec 5} (h : s.good = true) : (lrStep s dbl rd rs1).Good := by
  unfold lrStep
  dsimp only
  refine Got.andThen_good (State.amoAccess_good h) ?_
  intro _ _ h
  refine retire_good ?_
  exact State.good_of_same (State.setX_good h) rfl rfl rfl rfl rfl rfl

theorem atomicThen_good {i : Instr} {ks : List Nat} {k : Writer → Out} (h : s.good = true) (hk : ∀ (a : Writer), (k a).Good) :
    (atomicThen s i ks k).Good := by
  unfold atomicThen
  split
  · split
    · exact hk _
    · exact waitPass_good h
  · exact hk _

theorem scStep_good {i : Instr} {dbl : Bool} {rd rs1 rs2 : BitVec 5} (h : s.good = true) : (scStep s i dbl rd rs1 rs2).Good := by
  unfold scStep
  dsimp only
  split
  · exact trapV_good h
  · split
    · refine retire_good ?_
      exact State.good_of_same (State.setX_good h) rfl rfl rfl rfl rfl rfl
    · refine Got.andThen_good (State.access_good h) ?_
      intro _ _ h
      split
      · refine atomicThen_good h ?_
        intro _
        refine Got.andThen_good (State.sends_good h (fun _ h => State.write_good (State.logDropped_good h))) ?_
        intro _ _ h
        refine retire_good ?_
        exact State.good_of_same (State.setX_good h) rfl rfl rfl rfl rfl rfl
      · refine retire_good ?_
        exact State.good_of_same (State.setX_good h) rfl rfl rfl rfl rfl rfl

theorem amoStep_good {i : Instr} {o : AmoOp} {dbl : Bool} {rd rs1 rs2 : BitVec 5} (h : s.good = true) :
    (amoStep s i o dbl rd rs1 rs2).Good :=
  Got.andThen_good (State.amoAccess_good h) (fun _ _ h => atomicThen_good h (fun _ => Got.andThen_good (State.sends_good h
      (fun _ h => State.write_good h)) (fun _ _ h => retire_good (State.setX_good h))))

theorem scalarStep_good {i : Scalar} (h : s.good = true) : (scalarStep i s).Good := by
  unfold scalarStep
  split
  · exact retire_good (State.setX_good h)
  · exact retire_good (State.setX_good h)
  · exact transfer_good h (State.setX_good h)
  · exact transfer_good h (State.setX_good h)
  · split
    · exact transfer_good h h
    · exact retire_good h
  · exact scalarLoad_good h (fun _ _ h => retire_good (State.setX_good h))
  · exact scalarStore_good h
  · exact retire_good (State.setX_good h)
  · exact retire_good (State.setX_good h)
  · exact retire_good (State.setX_good h)
  · exact retire_good (State.setX_good h)
  · exact retire_good (State.setX_good h)
  · exact lrStep_good h
  · exact scStep_good h
  · exact amoStep_good h
  · exact csrReadStep_good h
  · exact scalarLoad_good h (fun _ _ h => retire_good (State.setF_good h))
  · exact scalarStore_good h
  · exact withRm_good h (fun _ => fDone_good h)
  · exact withRm_good h (fun _ => fDone_good h)
  · exact withRm_good h (fun _ => fDone_good h)
  · exact fDone_good h
  · exact fDone_good h
  · exact retire_good (State.addFlags_good (State.setX_good h))
  · exact retire_good (State.setX_good h)
  · exact withRm_good h (fun _ => fDone_good h)
  · exact withRm_good h (fun _ => retire_good (State.addFlags_good (State.setX_good h)))
  · exact withRm_good h (fun _ => fDone_good h)
  · exact retire_good (State.setX_good h)
  · exact retire_good (State.setF_good h)

theorem execScalarInstruction_good {i : Scalar} (h : s.good = true) : (execScalarInstruction i s).Good := by
  unfold execScalarInstruction
  split
  · exact waitX_good h
  · exact scalarStep_good h

/-! ## Machine/Service -/

theorem State.setImage_good {unit : Nat} {u : Image} (h : s.good = true) : (s.setImage unit u).good = true := h

theorem State.measure_good {unit image : Nat} (h : s.good = true) : (s.measure unit image).good = true := h

theorem unitEvent_good {unit : Nat} {k : Out} (hk : k.Good) : (unitEvent unit k).Good := by
  unfold unitEvent
  split
  · exact Out.good_fault _
  · exact hk

theorem State.drainStack_good {stack : Nat} (h : s.good = true) : (s.drainStack stack).good = true :=
  good_foldl (fun _ _ h => State.mapCrew_good h) (State.preEmpt_good (State.unplaceOn_good h))

theorem execUpdate_good {unit image : Nat} {signed : Bool} (h : s.good = true) : (execUpdate unit image signed s).Good := by
  unfold execUpdate
  refine unitEvent_good ?_
  split
  · exact ok_good h
  · refine command_good h ?_
    intro _ h
    split
    · exact ok_good (State.reply_good h)
    · dsimp only
      split
      · refine ok_good ?_
        exact State.good_of_same (State.drainStack_good (State.setImage_good h)) rfl rfl rfl rfl rfl rfl
      · exact ok_good (State.setImage_good h)

theorem State.good_setDown {down : List Nat} (h : s.good = true) : ({ s with down := down } : State).good = true :=
  good_of_same h rfl rfl rfl rfl rfl rfl

theorem execUpdateComplete_good {unit : Nat} (h : s.good = true) : (execUpdateComplete unit s).Good := by
  refine unitEvent_good ?_
  dsimp only
  split
  · exact ok_good h
  · exact ok_good (State.good_setDown (State.reply_good (State.setImage_good (State.measure_good h))))

theorem execUpdateSelfTestTimeout_good {unit : Nat} (h : s.good = true) : (execUpdateSelfTestTimeout unit s).Good := by
  refine unitEvent_good ?_
  dsimp only
  split
  · exact ok_good h
  · exact ok_good (State.good_setDown (State.reply_good (State.setImage_good (State.measure_good (State.measure_good h)))))

theorem execUpdateDrainTimeout_good {unit : Nat} (h : s.good = true) : (execUpdateDrainTimeout unit s).Good := by
  unfold execUpdateDrainTimeout
  refine unitEvent_good ?_
  dsimp only
  split
  · exact ok_good h
  · exact ok_good (State.reply_good (State.setImage_good h))

theorem execMeasurements_good {stack : Nat} (h : s.good = true) : (execMeasurements stack s).Good := by
  unfold execMeasurements
  split
  · exact Out.good_fault _
  · exact command_good h (fun _ h => ok_good (State.reply_good h))

theorem execSpdmRequest_good {stack : Nat} (h : s.good = true) : (execSpdmRequest stack s).Good := by
  unfold execSpdmRequest
  split
  · exact Out.good_fault _
  · exact ok_good h

theorem execLinkFlitResend_good {link : Nat} (h : s.good = true) : (execLinkFlitResend link s).Good := by
  unfold execLinkFlitResend
  split
  · exact Out.good_fault _
  · exact ok_good h

theorem execLinkDown_good {link : Nat} (h : s.good = true) : (execLinkDown link s).Good := by
  unfold execLinkDown
  split
  · exact Out.good_fault _
  · split
    · exact ok_good h
    · exact ok_good (State.logErr_good h)

theorem execRouteChange_good {link : Nat} (h : s.good = true) : (execRouteChange link s).Good := by
  unfold execRouteChange
  split
  · exact Out.good_fault _
  · exact ok_good h

theorem State.lose_good {src n : Nat} (h : s.good = true) : (s.lose src n).good = true := by
  unfold State.lose
  split
  · exact State.setEng_good h
  · split
    · split
      · exact State.passError_good h
      · exact h
    · split
      · split
        · exact State.copyError_good h
        · exact h
      · split
        · split
          · split
            · exact State.packetLost_good h
            · exact h
          · exact h
        · split
          · split
            · dsimp only
              refine State.ramoLost_good ?_
              split
              · split
                · exact State.ramoDo_good h
                · exact h
              · exact h
            · exact h
          · exact h

theorem State.queryLost_good (h : s.good = true) : s.queryLost.Good := by
  unfold State.queryLost
  split
  · exact retire_good (State.setEng_good (State.setX_good h))
  · exact ok_good h

theorem execResponseTimeout_good {src n : Nat} {lost : Bool} (h : s.good = true) : (execResponseTimeout src n lost s).Good := by
  unfold execResponseTimeout
  split
  · exact State.queryLost_good h
  · split
    · exact ok_good (State.lose_good h)
    · exact ok_good h

theorem State.outsideLine_good {die a : Nat} {wr : Option (BitVec 512 × BitVec 64)} (h : s.good = true) :
    (s.outsideLine die a wr).good = true := by
  unfold State.outsideLine
  split
  · exact h
  · split
    · exact State.write_good (State.logDropped_good h)
    · exact h

theorem execHostCxlMemAccess_good {addr : Nat} {wr : Option (BitVec 512 × BitVec 64)} (h : s.good = true) :
    (execHostCxlMemAccess addr wr s).Good := ok_good (State.outsideLine_good h)

theorem execPeerRequest_good {port addr : Nat} {wr : Option (BitVec 512 × BitVec 64)} (h : s.good = true) :
    (execPeerRequest port addr wr s).Good := by
  unfold execPeerRequest
  split
  · exact Out.good_fault _
  · exact ok_good (State.outsideLine_good h)

theorem execHostLinkTraining_good {width rate : Nat} (h : s.good = true) : (execHostLinkTraining width rate s).Good := by
  unfold execHostLinkTraining
  split <;> exact ok_good h

theorem execReset_good (h : s.good = true) : (execReset s).Good :=
  ok_good (State.good_of_parts State.reset_good (fun _ => Memory.wfFrom_filter _ _ _ (State.good_mem h)) id id rfl)

theorem execCoordinatorTakeover_good (h : s.good = true) : (execCoordinatorTakeover s).Good := by
  unfold execCoordinatorTakeover
  dsimp only
  split <;> exact ok_good h

theorem domainEvent_good {d : Nat} {k : Out} (h : s.good = true) (hk : k.Good) : (domainEvent d s k).Good := by
  unfold domainEvent
  split
  · exact Out.good_fault _
  · split
    · exact ok_good h
    · exact hk

theorem execUndervoltStep_good {domain : Nat} (h : s.good = true) : (execUndervoltStep domain s).Good := by
  unfold execUndervoltStep
  refine domainEvent_good h ?_
  dsimp only
  split
  · exact ok_good h
  · exact ok_good (State.setDomain_good h)

theorem execUndervoltRecountEnd_good {domain : Nat} (h : s.good = true) : (execUndervoltRecountEnd domain s).Good := by
  unfold execUndervoltRecountEnd
  refine domainEvent_good h ?_
  dsimp only
  split
  · exact ok_good h
  · split
    · exact ok_good (State.logErr_good (State.setDomain_good h))
    · exact ok_good (State.setDomain_good h)

theorem execDomainSelfTest_good {domain : Nat} {bad : List Nat} (h : s.good = true) : (execDomainSelfTest domain bad s).Good := by
  unfold execDomainSelfTest
  split
  · exact Out.good_fault _
  · dsimp only
    split
    · exact ok_good h
    · split
      · exact ok_good (good_foldl (fun _ _ h => State.logErr_good (State.setHalf_good (State.blameHalf_good h))) (State.setDomain_good h))
      · split
        · exact ok_good (State.setDomain_good h)
        · exact ok_good (State.logErr_good h)

theorem execCalibration_good {domain : Nat} (h : s.good = true) : (execCalibration domain s).Good := by
  unfold execCalibration
  split
  · exact Out.good_fault _
  · split
    · exact ok_good (State.setDomain_good h)
    · split <;> exact ok_good h

theorem State.poisonUnit_good {k : Nat} (h : s.good = true) : (s.poisonUnit k).good = true := by
  unfold State.poisonUnit
  dsimp only
  split <;> exact h

theorem State.lastingPin_good {k pin : Nat} (h : s.good = true) : (s.lastingPin k pin).good = true := by
  unfold State.lastingPin
  dsimp only
  split
  · split
    · exact State.logErr_good h
    · exact h
  · split
    · exact State.logErr_good h
    · exact h

theorem State.granuleRead_good {k : Nat} {bits : List (Nat × Nat × Nat)} {lasting : Bool} (h : s.good = true) :
    (s.granuleRead k bits lasting).good = true := by
  unfold State.granuleRead
  dsimp only
  split
  · exact h
  · split
    · exact h
    · split
      · split
        · exact good_foldl (fun _ _ h => State.lastingPin_good h) (State.logGranule_good h)
        · exact State.logGranule_good h
      · split
        · exact State.logGranule_good (State.poisonUnit_good h)
        · exact h

theorem execPatrolScrub_good {addr found : Nat} (h : s.good = true) : (execPatrolScrub addr found s).Good := by
  unfold execPatrolScrub
  dsimp only
  split
  · exact Out.good_fault _
  · split
    · exact ok_good (State.granuleRead_good h)
    · exact ok_good (State.granuleRead_good h)
    · split
      · exact ok_good h
      · exact ok_good (State.logGranule_good (State.poisonUnit_good h))
    · exact ok_good h

theorem State.sramFixed_good {k : Nat} {lasting : Bool} (h : s.good = true) : (s.sramFixed k lasting).good = true := by
  unfold State.sramFixed
  split
  · exact h
  · split
    · exact State.feEvent_good h
    · exact State.logUnit_good h

theorem State.cacheFixed_good {k : Nat} {lasting : Bool} (h : s.good = true) : (s.cacheFixed k lasting).good = true := by
  unfold State.cacheFixed
  split
  · exact State.logErr_good h
  · exact h

theorem State.atFe_good {fe : Nat} {f : State → State} (h : s.good = true) (hf : ∀ (s : State), s.good = true → (f s).good = true) :
    (s.atFe fe f).good = true := by
  unfold State.atFe
  dsimp only
  split
  · exact hf _ (State.focus_good h)
  · exact h

theorem State.regSoft_good {r j mask : Nat} (h : s.good = true) : (s.regSoft r j mask).good = true := by
  unfold State.regSoft
  split
  · exact State.mismatch_good h
  · split
    · exact State.dirtyIf_good (State.setVec_good h)
    · exact h

theorem State.upset_good {u : Upset} (h : s.good = true) : (s.upset u).good = true := by
  unfold State.upset
  split
  · exact logUnit_good (poisonUnit_good h)
  · split
    · exact granuleRead_good h
    · exact h
  · exact sramFixed_good h
  · exact cacheFixed_good h
  · exact atFe_good h fun s h => tileBad_good h
  · exact atFe_good h fun s h => tileFixed_good h
  · refine atFe_good h fun s h => ?_
    split
    · exact setVec_good h
    · exact h
  · exact atFe_good h fun s h => setEng_good h
  · exact atFe_good h fun s h => passError_good h
  · exact atFe_good h fun s h => passSoft_good h
  · exact atFe_good h fun s h => matSoft_good h
  · exact atFe_good h fun s h => runSoft_good h
  · exact atFe_good h fun s h => regSoft_good h
  · split
    · exact feEvent_good h
    · exact h
  · refine atFe_good h fun s h => ?_
    split
    · exact copyError_good h
    · exact h
  · split
    · exact lastingHalf_good h
    · exact h
  · split
    · exact good_of_parts h (Memory.wf_put _ _ _) id id rfl
    · exact h

theorem State.hostWrite_good {key : Nat} {data : List Byte} (h : s.good = true) : (s.hostWrite key data).good = true := by
  unfold State.hostWrite
  split
  · exact State.write_good h
  · exact h

end Sys2Proof.Machine
end

section
/-! PROOFS. The invariant under every instruction, event and input, and so under a step. -/

namespace Sys2Proof.Machine

variable {s : State}

/-! ## Machine/VecStream -/

theorem State.notePub_good {w : Word} (h : s.good = true) : (s.notePub w).good = true := h

theorem attach_good {i : Instr} {f : RF} {set : Pricking → Nat × Nat → Pricking} {k : State → State} (h : s.good = true) (hk : ∀
    (s : State), s.good = true → (k s).good = true) :
    (attach s i f set k).Good := by
  unfold attach
  refine queueGate_good h ?_
  split
  · exact trapI_good h
  · exact retire_good (hk _ (State.dirtyVs_good (State.setVec_good h)))

theorem execWmpub_good {f : RF} (h : s.good = true) : (execWmpub f s).Good := attach_good h (fun _ h => State.notePub_good h)

theorem execWmlnk_good {f : RF} (h : s.good = true) : (execWmlnk f s).Good := attach_good h (fun _ h => h)

/-! ## Machine/Dispatch -/

theorem exec_good_of_noted {i : Instr} {xs : List (BitVec 5)} {n : Note} (h : s.good = true) (hn : noteOf i s = some (xs, n)) :
    Out.Good (exec i s) := by
  obtain ⟨mk, he, -⟩ := exec_of_noteOf hn
  exact he ▸ noteGate_good h

theorem exec_good {i : Instr} (h : s.good = true) : Out.Good (exec i s) := by
  cases i with
  | vadd | vsub | vrsub | vmul | vmulh | vmulhu | vdiv | vdivu | vrem | vremu | vmin | vmax | vminu | vmaxu | vadds | vsubs
  | vaddsu | vsubsu | vand | vor | vxor | vsll | vsrl | vsra | vmerge | vmv | vcmpEq | vcmpNe | vcmpLt | vcmpLe | vcmpLtu
  | vcmpLeu | vfadd | vfsub | vfmul | vfdiv | vfma | vfms | vfnma | vfnms | vfmin | vfmax | vfsgnj | vfsqrt | vfexp2 | vflog2
  | vcvt | vfclass | vfcmpEq | vfcmpLt | vfcmpLe | vfcmpUn | vscanAdd | vscanMax | vfscan | vlrec | vprev | vrand | vnms
  | vnmst | vred | vfred | vfredo | vld | vldx | vst | vstx | vamox | kset | kand | kor | kxor | kandn | knot | kshl | kshr
  | vadc | vsbc | vaddk | vclz | vpopcnt | vid | ktov => exact exec_good_of_noted h rfl
  | vsetl => exact execVsetl_good h
  | vsetli => exact execVsetli_good h
  | vlq => exact execVlq_good h
  | vforce => exact execVforce_good h
  | voset => exact execVoset_good h
  | voget => exact execVoget_good h
  | vspill => exact execVspill_good h
  | vfill => exact execVfill_good h
  | vsavef => exact execVsavef_good h
  | vrestf => exact execVrestf_good h
  | vldsg => exact execVldsg_good h
  | vstsg => exact execVstsg_good h
  | vsldup => exact execVsldup_good h
  | vslddn => exact execVslddn_good h
  | vperm => exact execVperm_good h
  | vcompr => exact execVcompr_good h
  | vexpnd => exact execVexpnd_good h
  | vrev => exact execVrev_good h
  | kpopc => exact execKpopc_good h
  | kfirst => exact execKfirst_good h
  | klast => exact execKlast_good h
  | kmv => exact execKmv_good h
  | vtroww => exact execVtroww_good h
  | vtrowr => exact execVtrowr_good h
  | vtcolw => exact execVtcolw_good h
  | vtcolr => exact execVtcolr_good h
  | tzero => exact execTzero_good h
  | hload => exact execHload_good h
  | hloads => exact execHloads_good h
  | hswap => exact execHswap_good h
  | hmul => exact execHmul_good h
  | hmulp => exact execHmulp_good h
  | hmulf => exact execHmulf_good h
  | hacc => exact execHacc_good h
  | hmov => exact execHmov_good h
  | hq => exact execHq_good h
  | mnrmz => exact execMnrmz_good h
  | mnorm => exact execMnorm_good h
  | matab => exact execMatab_good h
  | msamp => exact execMsamp_good h
  | mscale => exact execMscale_good h
  | cpy => exact execCpy_good h
  | cpyf => exact execCpyf_good h
  | cpyb => exact execCpyb_good h
  | cpym => exact execCpym_good h
  | twany => exact execTwany_good h
  | twall => exact execTwall_good h
  | tffr => exact execTffr_good h
  | tclr => exact execTclr_good h
  | waitc => exact execWaitc_good h
  | fencep => exact execFencep_good h
  | wmset => exact execWmset_good h
  | wmpub => exact execWmpub_good h
  | wmlnk => exact execWmlnk_good h
  | wmget => exact execWmget_good h
  | barc => exact execBarc_good h
  | bara => exact execBara_good h
  | barw => exact execBarw_good h
  | sig => exact execSig_good h
  | tend => exact execTend_good h
  | ramo => exact execRamo_good h
  | ramoq => exact execRamoq_good h
  | loop => exact execLoop_good h
  | fld => exact execFld_good h
  | frun => exact execFrun_good h
  | ftok => exact execFtok_good h
  | fstat => exact execFstat_good h
  | lidx => exact execLidx_good h
  | lbrk => exact execLbrk_good h
  | mpkw => exact execMpkw_good h
  | mpkr => exact execMpkr_good h
  | mpkp => exact execMpkp_good h
  | tret => exact execTret_good h
  | syield => exact execSyield_good h
  | harnq => exact execHarnq_good h
  | ecall => exact execEcall_good h
  | ebreak => exact execEbreak_good h
  | fence => exact execFence_good h
  | fenceI imm rs1 rd => exact execFenceI_good (_imm := imm) (_rs1 := rs1) (_rd := rd) h
  | scalarInstruction => exact execScalarInstruction_good h
  | bAdd => exact execBAdd_good h
  | bSub => exact execBSub_good h
  | bMul => exact execBMul_good h
  | bAnd => exact execBAnd_good h
  | bOr => exact execBOr_good h
  | bXor => exact execBXor_good h
  | bSll => exact execBSll_good h
  | bSrl => exact execBSrl_good h
  | bSra => exact execBSra_good h
  | bMin => exact execBMin_good h
  | bMax => exact execBMax_good h
  | bMinu => exact execBMinu_good h
  | bMaxu => exact execBMaxu_good h
  | bMov => exact execBMov_good h
  | bFadd => exact execBFadd_good h
  | bFsub => exact execBFsub_good h
  | bFmul => exact execBFmul_good h
  | bFmin => exact execBFmin_good h
  | bFmax => exact execBFmax_good h
  | bFma => exact execBFma_good h
  | bCeq => exact execBCeq_good h
  | bClt => exact execBClt_good h
  | bCltu => exact execBCltu_good h
  | bFeq => exact execBFeq_good h
  | bFlt => exact execBFlt_good h
  | bFle => exact execBFle_good h
  | bSel => exact execBSel_good h
  | bJ => exact execBJ_good h
  | bBnz => exact execBBnz_good h
  | bBz => exact execBBz_good h
  | bRet => exact execBRet_good h
  | bHalt => exact execBHalt_good h
  | bCtx => exact execBCtx_good h
  | bTfwd => exact execBTfwd_good h
  | bTget => exact execBTget_good h
  | fabricRunEnd => exact execFabricRunEnd_good h
  | fabricRunTimeout => exact execFabricRunTimeout_good h
  | csrWrite => exact execCsrWrite_good h
  | vfflagsWrite => exact execVfflagsWrite_good h
  | vslipWrite => exact execVslipWrite_good h
  | vmtWrite => exact execVmtWrite_good h
  | tcfgWrite => exact execTcfgWrite_good h
  | sstatWrite => exact execSstatWrite_good h
  | samplingStatsRead => exact execSamplingStatsRead_good h
  | dueForce => exact execDueForce_good h
  | linkedStreamRelease => exact execLinkedStreamRelease_good h
  | linkedStreamTimeout => exact execLinkedStreamTimeout_good h
  | passEnd => exact execPassEnd_good h
  | passFault => exact execPassFault_good h
  | impreciseTrapEntry => exact execImpreciseTrapEntry_good h
  | preEmptTrap => exact execPreEmptTrap_good h
  | copyComplete => exact execCopyComplete_good h
  | copyFaultStop => exact execCopyFaultStop_good h
  | followOnRun => exact execFollowOnRun_good h
  | cpymReplicaStop => exact execCpymReplicaStop_good h
  | hoopOpComplete => exact execHoopOpComplete_good h
  | engineFault _ _ elem => exact execEngineFault_good (_elem := elem) h
  | msampEnd => exact execMsampEnd_good h
  | barrierPhasePass => exact execBarrierPhasePass_good h
  | barrierTimeout => exact execBarrierTimeout_good h
  | packetAtBaseDie => exact execPacketAtBaseDie_good h
  | packetReplyArrival => exact execPacketReplyArrival_good h
  | ramoAtTarget => exact execRamoAtTarget_good h
  | ramoResponse => exact execRamoResponse_good h
  | launchLine0Write => exact execLaunchLine0Write_good h
  | launchLine1Write => exact execLaunchLine1Write_good h
  | portWriteDiscard => exact execPortWriteDiscard_good h
  | taskPlacement => exact execTaskPlacement_good h
  | priorityAging => exact execPriorityAging_good h
  | preEmptionDecision => exact execPreEmptionDecision_good h
  | slotHold => exact execSlotHold_good h
  | slotArm => exact execSlotArm_good h
  | slotDisarm => exact execSlotDisarm_good h
  | slotFree => exact execSlotFree_good h
  | bindRecordWrite => exact execBindRecordWrite_good h
  | crewArmed => exact execCrewArmed_good h
  | strandStart => exact execStrandStart_good h
  | lockedClockEntry => exact execLockedClockEntry_good h
  | pageFaultDeadline => exact execPageFaultDeadline_good h
  | preEmptionDeadline => exact execPreEmptionDeadline_good h
  | killTaskComplete => exact execKillTaskComplete_good h
  | completionRecordWrite => exact execCompletionRecordWrite_good h
  | headerReread => exact execHeaderReread_good h
  | createContext root tvec pool keep =>
    exact execCreateContext_good (root := root) (tvec := tvec) (pool := pool) (keep := keep) h
  | destroyContext => exact execDestroyContext_good h
  | setQueue => exact execSetQueue_good h
  | killTask => exact execKillTask_good h
  | shootdown => exact execShootdown_good h
  | shootdownComplete => exact execShootdownComplete_good h
  | granuleRegions => exact execGranuleRegions_good h
  | update => exact execUpdate_good h
  | measurements => exact execMeasurements_good h
  | updateDrainTimeout => exact execUpdateDrainTimeout_good h
  | updateSelfTestTimeout => exact execUpdateSelfTestTimeout_good h
  | faultRecordToHost => exact execFaultRecordToHost_good h
  | faultBufferStatusWrite => exact execFaultBufferStatusWrite_good h
  | linkFlitResend => exact execLinkFlitResend_good h
  | linkDown => exact execLinkDown_good h
  | routeChange => exact execRouteChange_good h
  | responseTimeout => exact execResponseTimeout_good h
  | hostCxlMemAccess => exact execHostCxlMemAccess_good h
  | peerRequest => exact execPeerRequest_good h
  | spdmRequest => exact execSpdmRequest_good h
  | hostLinkTraining => exact execHostLinkTraining_good h
  | reset => exact execReset_good h
  | coordinatorTakeover => exact execCoordinatorTakeover_good h
  | calibration => exact execCalibration_good h
  | patrolScrub => exact execPatrolScrub_good h
  | undervoltStep => exact execUndervoltStep_good h
  | undervoltRecountEnd => exact execUndervoltRecountEnd_good h
  | domainSelfTest => exact execDomainSelfTest_good h
  | illegalInstruction => exact execIllegalInstruction_good h
  | ramoqAnswer => exact execRamoqAnswer_good h
  | updateComplete => exact execUpdateComplete_good h

/-! ## Machine/Boundary -/

theorem State.onCopy_good {serial : Nat} {f : Copy → State} (h : s.good = true) (hf : ∀ (a : Copy), (f a).good = true) :
    (s.onCopy serial f).good = true := by
  unfold State.onCopy
  split
  · exact hf _
  · exact h

theorem runInput_good {u : Input} (h : s.good = true) : (runInput u s).Good := by
  unfold runInput
  split
  · split
    · dsimp only
      split
      · exact exec_good (State.focus_good h)
      · exact ok_good h
    · split
      · exact exec_good h
      · exact ok_good h
  · exact ok_good (State.upset_good h)
  · exact ok_good (State.hostWrite_good h)
  · exact ok_good (State.atFe_good h (fun _ h => runPart_good h))
  · exact ok_good (State.atFe_good h (fun _ h => State.onCopy_good h (fun _ => runCopyPart_good h)))
  · exact ok_good (State.atFe_good h (fun _ h => State.readLine_good h))
  · exact ok_good (State.atFe_good h (fun _ h => State.onCopy_good h (fun _ => State.copyLate_good h)))
  · exact ok_good (State.atFe_good h (fun _ h => State.observes_good h))
  · exact ok_good (State.portRead_good h)
  · exact State.barWrite_good h
  · exact ok_good (State.barRead_good h)
  · exact ok_good (State.bufferRead_good h)

theorem State.passEvents_keep : ∀ e ∈ s.passEvents, Event.Keeps e := by
  intro e he
  unfold State.passEvents at he
  split at he
  · exact keeps_of_mem_singleton (fun _ h => execPassEnd_good h) he
  · exact keeps_of_mem_singleton (fun _ h => execPassFault_good h) he
  · exact keeps_of_mem_singleton (fun _ h => execLinkedStreamRelease_good h) he
  · exact keeps_of_mem_singleton (fun _ h => execPassEnd_good h) he
  · cases he

theorem State.copyEvent_keeps {c : Copy} {e : Event} (he : s.copyEvent c = some e) : Event.Keeps e := by
  unfold State.copyEvent at he
  split at he
  · cases he
  split at he
  · cases he
    exact fun _ h => execCpymReplicaStop_good h
  split at he <;> cases he
  · exact fun _ h => execCopyFaultStop_good h
  · exact fun _ h => execCopyComplete_good h

theorem State.matEvents_keep : ∀ e ∈ s.matEvents, Event.Keeps e := by
  intro e he
  unfold State.matEvents at he
  split at he
  · exact keeps_of_mem_singleton (fun _ h => execEngineFault_good h) he
  · cases he
  · refine keeps_of_mem_singleton ?_ he
    split
    · exact fun _ h => headDone_good h
    · split
      · exact fun _ h => headDone_good h
      · exact fun _ h => headDone_good h
  · cases he

theorem State.ramoEvent_keeps {r : Ramo} {e : Event} (he : s.ramoEvent r = some e) : Event.Keeps e := by
  unfold State.ramoEvent at he
  split at he
  · cases he
    exact fun _ h => execRamoResponse_good h
  split at he <;> cases he
  · exact fun _ h => execEngineFault_good h
  · exact fun _ h => execRamoAtTarget_good h

theorem State.engineEvents_keep : ∀ e ∈ s.engineEvents, Event.Keeps e := by
  intro e he
  unfold State.engineEvents at he
  split at he
  · cases he
  simp only [List.mem_append] at he
  rcases he with (((((he | he) | he) | he) | he) | he) | he
  · exact passEvents_keep e he
  · split at he
    · cases he
    · obtain ⟨i, -, rfl⟩ := List.mem_map.1 he
      exact fun _ h => exec_good h
  · obtain ⟨c, -, hc⟩ := List.mem_filterMap.1 he
    exact copyEvent_keeps hc
  · exact matEvents_keep e he
  · obtain ⟨r, -, hr⟩ := List.mem_filterMap.1 he
    exact ramoEvent_keeps hr
  · obtain ⟨p, -, rfl⟩ := List.mem_map.1 he
    exact fun _ h => execPacketAtBaseDie_good h
  · obtain ⟨n, -, rfl⟩ := List.mem_map.1 he
    exact fun _ h => ok_good (replyIn_good h)

theorem State.slotEvents_keep {fe : Nat} : ∀ e ∈ s.slotEvents fe, Event.Keeps e := by
  intro e he
  unfold State.slotEvents at he
  split at he
  · cases he
  split at he
  · exact keeps_of_mem_singleton (fun _ h => slotEvent_good (ok_good (slotFrom_good h))) he
  · exact keeps_of_mem_singleton (fun _ h => execSlotArm_good h) he
  · exact keeps_of_mem_singleton (fun _ h => execStrandStart_good h) he
  · cases he

theorem State.crewEvents_keep {c : Crew} : ∀ e ∈ s.crewEvents c, Event.Keeps e := by
  intro e he
  unfold State.crewEvents at he
  split at he
  · exact keeps_of_mem_singleton (fun _ h => execKillTaskComplete_good h) he
  rcases List.mem_append.1 he with he | he
  · obtain ⟨fe, -, hfe⟩ := List.mem_flatMap.1 he
    exact slotEvents_keep e hfe
  · split at he
    · exact keeps_of_mem_singleton (fun _ h => execCrewArmed_good h) he
    · cases he

theorem State.firmwareEvents_keep : ∀ e ∈ s.firmwareEvents, Event.Keeps e := by
  intro e he
  unfold State.firmwareEvents at he
  simp only [List.mem_append] at he
  rcases he with (((((he | he) | he) | he) | he) | he) | he
  · obtain ⟨c, -, hc⟩ := List.mem_flatMap.1 he
    exact crewEvents_keep e hc
  · obtain ⟨p, -, rfl⟩ := List.mem_map.1 he
    exact fun _ h => execSlotFree_good h
  · split at he
    · cases he
    · exact keeps_of_mem_singleton (fun _ h => execTaskPlacement_good h) he
  · obtain ⟨fe, -, rfl⟩ := List.mem_map.1 he
    exact fun _ h => recordEvent_good h
  · obtain ⟨p, -, rfl⟩ := List.mem_map.1 he
    exact fun _ h => execFaultRecordToHost_good h
  · obtain ⟨n, -, rfl⟩ := List.mem_map.1 he
    exact fun _ h => execShootdownComplete_good h
  · obtain ⟨c, -, rfl⟩ := List.mem_map.1 he
    exact fun _ h => execLockedClockEntry_good h

theorem execWord_good {w : IWord} (h : s.good = true) : (execWord w s).Good := by
  unfold execWord
  split
  · exact exec_good h
  · exact execIllegalInstruction_good h

theorem fetchExec_good (h : s.good = true) : (fetchExec s).Good := Got.andThen_good (State.fetch_good h) (fun _ _ h => execWord_good h)

theorem State.boundary_keeps {e : Event} (he : s.boundary = some e) : e.Keeps := by
  unfold State.boundary at he
  split at he
  · cases he
  split at he
  · cases he; exact fun s h => execImpreciseTrapEntry_good h
  split at he
  · cases he; exact fun s h => execPreEmptTrap_good h
  split at he
  · cases he; exact fun s h => execDueForce_good h
  · cases he

theorem strandStep_good (h : s.good = true) : (strandStep s).Good := by
  unfold strandStep
  split
  · exact ok_good h
  · split
    · next e he => exact State.boundary_keeps he s h
    · exact fetchExec_good h

theorem choose_good {evs : List Event} (hev : ∀ e ∈ evs, Event.Keeps e) (h : s.good = true) : (choose s evs).Good := by
  unfold choose
  dsimp only
  split
  · next e he => exact hev e (List.mem_of_getElem? he) s h
  · split
    · exact strandStep_good (State.focus_good h)
    · exact strandStep_good h

theorem State.events_keep : ∀ e ∈ s.events, Event.Keeps e := fun e he =>
  (List.mem_append.1 he).elim (engineEvents_keep e) (firmwareEvents_keep e)

theorem nextStep_good (h : s.good = true) : (nextStep s).Good := by
  unfold nextStep
  split
  · exact runInput_good h
  split
  · exact exec_good h
  split
  · exact strandStep_good h
  · exact choose_good State.events_keep h

/-! ## Machine/Step -/

theorem step_good (h : s.good = true) : Out.Good (step s) := nextStep_good h

/-- Settles O59: whatever comes next, an input, an event, another strand or the strand's own instruction, keeps the invariant. -/
theorem goodIsKept : Obligations.GoodIsKept := fun _ t h hstep => nextStep_good h t hstep

end Sys2Proof.Machine
end
section
/-! PROOFS. The traps of the noted instructions (04_deferred.md: Noting). -/

namespace Sys2Proof.Machine

/-- The gate of the command queue where vs is off. -/
theorem queueGate_off (s : State) (i : Instr) (xs : List (BitVec 5)) (v : Option (BitVec 8)) (k : Out) (h : s.waitsX xs = false)
    (hv : s.st.sstat.vs = 0) : queueGate s i xs v k = trapI s 0xD2 i := by
  unfold queueGate
  rw [h, if_neg (by simp), if_pos hv]

/-- The gate of the command queue where vill traps. -/
theorem queueGate_vill (s : State) (i : Instr) (xs : List (BitVec 5)) (c : BitVec 8) (k : Out) (h : s.waitsX xs = false)
    (hs : s.st.sstat.vs ≠ 0) (hv : vtVill s.st.vec.vtype = true) : queueGate s i xs (some c) k = trapI s c i := by
  unfold queueGate
  rw [h, if_neg (by simp), if_neg hs, if_pos ⟨rfl, hv⟩]
  rfl

section
variable {s : State} {i : Instr} {mk : State → Note} {xs : List (BitVec 5)}

/-- A note in an illegal state of its own traps with its code (05 R125). -/
theorem noteGo_bad (hr : s.vecReady xs) (hb : (mk s).bad = true) : noteGo s i mk = trapI s (mk s).code i := by
  obtain ⟨-, -, hpass, -, hahead⟩ := hr
  unfold noteGo
  simp only [s.afterQueue_idle hpass hahead, hb, ↓reduceIte]

/-- A note with an operand that may not be read traps with 0x12 (04 R91). -/
theorem noteGo_unreadable (hr : s.vecReady xs) (hb : (mk s).bad = false) (hu : (mk s).reads.all s.readable = false) :
    noteGo s i mk = trapI s 0x12 i := by
  obtain ⟨-, -, hpass, -, hahead⟩ := hr
  unfold noteGo
  simp only [s.afterQueue_idle hpass hahead, hb, hu, Bool.false_eq_true, Bool.not_false, ↓reduceIte]

end

/-- Settles O3: a noted instruction is the gate of the command queue around a noting, and each clause is one test of these. -/
theorem notedInstructionsTrap : Obligations.NotedInstructionsTrap := by
  intro s i xs n hn hw
  obtain ⟨mk, he, rfl, hcode⟩ := exec_of_noteOf hn
  rw [he, noteGate]
  refine ⟨queueGate_off s i xs _ _ hw, queueGate_vill s i xs _ _ hw, fun hr hv => ?_⟩
  rw [queueGate_ready s i xs _ _ hr (fun _ => hv), ← hcode]
  exact ⟨noteGo_bad hr, noteGo_unreadable hr⟩

end Sys2Proof.Machine
end
section
/-! PROOFS. What task mode may not do (02 R50, 11 R291). -/

namespace Sys2Proof.Machine

/-- Fewer registers are waited for where none of them is. -/
theorem State.waitsX_tail {s : State} {r : BitVec 5} {rs : List (BitVec 5)} (h : s.waitsX (r :: rs) = false) : s.waitsX rs = false := by
  rw [waitsX, List.any_cons, Bool.or_eq_false_iff] at h
  exact h.2

theorem csrSup_iff (a : BitVec 12) : csrSup a = true ↔ 0x5C0 ≤ a.toNat ∧ a.toNat ≤ 0x5C9 := by
  simp only [csrSup, Bool.and_eq_true, decide_eq_true_eq]

/-- An access to a supervisor CSR in task mode traps before its effect (02 R41, R50). -/
theorem csrGate_task {s : State} (hs : s.sup = false) (i : Instr) {c : CsrF} (hc : csrSup c.csr = true)
    (hw : s.waitsX [c.src, c.rd] = false) (k : Out) : csrGate s i c k = trapI s 0x2F i := by
  have hx : s.waitsX (if c.uimm then [c.rd] else [c.src, c.rd]) = false := by
    split
    · exact State.waitsX_tail hw
    · exact hw
  unfold csrGate
  rw [hx, if_neg (by simp), if_pos (by rw [hc, hs]; rfl)]

/-- A packet request in task mode traps before its other tests (11 R291). -/
theorem packetGate_task {s : State} (hs : s.sup = false) (i : Instr) (a : Word) (xs : List (BitVec 5)) (k : Out) :
    packetGate s i a xs k = trapI s 0x2D i := by
  unfold packetGate
  rw [hs]
  rfl

/-- Settles O30: the privilege test is the first of each instruction, for a CSR the first after its x operands stand. -/
theorem privilegedInTaskMode : Obligations.PrivilegedInTaskMode := by
  intro s hs
  refine ⟨fun f => ⟨packetGate_task hs _ _ _ _, packetGate_task hs _ _ _ _, ?_, ?_, ?_, ?_⟩, fun c hlo hhi hw => ?_⟩
  · show execMpkp f s = _
    simp [execMpkp, hs]
  · show execTret f s = _
    simp [execTret, hs]
  · show execSyield f s = _
    simp [execSyield, hs]
  · show execHarnq f s = _
    simp [execHarnq, hs]
  · have hc : csrSup c.csr = true := (csrSup_iff c.csr).2 ⟨hlo, hhi⟩
    exact ⟨csrGate_task hs _ hc hw _, csrGate_task hs _ hc hw _, csrGate_task hs _ hc hw _⟩

end Sys2Proof.Machine
end
section
/-! PROOFS. What a force point does where no pass is in flight (04_deferred.md: Force). -/

namespace Sys2Proof.Machine

/-- What a force point has something to do for (04 R86). -/
theorem Pricking.needsPass_none (p : Pricking) (stream : Bool) :
    p.needsPass stream none = true ↔ (∃ n ∈ p.nodes, n.op.isSink = true) ∨ (stream = false ∧ p.bound ≠ []) := by
  simp [needsPass]

/-- Counting the streams of a pass renames no node. -/
theorem Pricking.recount_slots (p : Pricking) (slots : List Nat) : (p.recount slots).nodes.map Node.slot = p.nodes.map Node.slot := by
  rw [recount, List.map_map]
  refine List.map_congr_left fun n _ => ?_
  rw [Function.comp_apply]
  split <;> rfl

@[simp] theorem Pricking.forced_last (p : Pricking) : p.forced.last = none := rfl
@[simp] theorem Pricking.forced_nodes (p : Pricking) : p.forced.nodes = p.nodes := rfl
@[simp] theorem Pricking.gc_last (p : Pricking) : p.gc.last = p.last := rfl

/-- The pass that starts from a pricking (04 R86). -/
def State.freshPass (s : State) (want : Option Nat) (stream : Bool) (shadow : List Shade) (serial : Nat) (mode : Bool) : Pass :=
  { pk := s.st.vec.pk.recount ((s.st.vec.pk.passNodes stream want).map Node.slot), v := s.st.vec.v, k := s.st.vec.k,
    stream := stream, want := want, slip := s.st.csr.vslip.toNat, chk := 0, kept := [], done := [], wrote := [], fl := 0,
    shadow := shadow, errs := [], flips := [], held := false, sup := mode, serial := serial }

section
variable {s : State} {want : Option Nat} {stream : Bool}

/-- Where no store is refused, the fresh pass is in flight and the pricking stays (04 R86). -/
theorem State.startPass_vec (h : refusedStore (s.st.vec.pk.passNodes stream want) = none) (shadow : List Shade) (serial : Nat)
    (mode : Bool) : (s.startPass want stream shadow serial mode).st.vec =
      { s.st.vec with pk := (s.freshPass want stream shadow serial mode).pk.forced
                      pass := some (s.freshPass want stream shadow serial mode) } := by
  unfold State.startPass freshPass
  simp only [h]
  simp

/-- Where one is, no pass starts, and only last, the due mark and the count are cleared (04 R96). -/
theorem State.startPass_vec_refused (h : refusedStore (s.st.vec.pk.passNodes stream want) ≠ none) (shadow : List Shade) (serial : Nat)
    (mode : Bool) : (s.startPass want stream shadow serial mode).st.vec = { s.st.vec with pk := s.st.vec.pk.forced } := by
  obtain ⟨n, hn⟩ := Option.ne_none_iff_exists'.1 h
  unfold State.startPass
  simp only [hn]
  split <;> simp [dirtyIf_vec]

/-- A force point that has something to do. -/
theorem force_of_needsPass (hp : s.st.vec.pass = none) (h : s.needsPass none = true) :
    force s = s.startPass none (vtSm s.st.vec.vtype) [] s.st.eng.serial s.sup := by
  rw [force, forceFor, hp]
  exact if_pos h

/-- A force point that has nothing to do. -/
theorem force_of_not_needsPass (hp : s.st.vec.pass = none) (h : ¬ s.needsPass none = true) :
    force s = s.dirtyIf (s.setPk s.st.vec.pk.forced.gc) := by
  rw [force, forceFor, hp]
  exact if_neg h

end

/-- A force point voids last where no pass is in flight (04 R81). -/
theorem force_last {s : State} (hp : s.st.vec.pass = none) : (force s).st.vec.pk.last = none := by
  by_cases h : s.needsPass none = true
  · rw [force_of_needsPass hp h]
    by_cases hr : refusedStore (s.st.vec.pk.passNodes (vtSm s.st.vec.vtype) none) = none
    · rw [State.startPass_vec hr, Pricking.forced_last]
    · rw [State.startPass_vec_refused hr, Pricking.forced_last]
  · rw [force_of_not_needsPass hp h]
    simp [dirtyIf_vec]

/-- Settles O9, by whether the pricking needs a pass and whether a store of it is refused. -/
theorem forceStartsAPass : Obligations.ForceStartsAPass := by
  intro s hp p need
  have hneed : s.needsPass none = true ↔ need := s.st.vec.pk.needsPass_none _
  refine ⟨force_last hp, fun h => force_of_not_needsPass hp (mt hneed.1 h), fun h hr => ?_, fun h hr => ?_⟩
  · have hv := State.startPass_vec hr [] s.st.eng.serial s.sup
    rw [force_of_needsPass hp (hneed.2 h), hv]
    exact ⟨_, rfl, rfl, rfl, rfl, rfl, rfl, Pricking.recount_slots _ _, rfl⟩
  · rw [force_of_needsPass hp (hneed.2 h), State.startPass_vec_refused hr]
    exact hp

end Sys2Proof.Machine
end
section
/-! PROOFS. What the CSR instructions read, write and leave (02 R41 to R54). -/

namespace Sys2Proof.Machine

/-! ## What a put leaves -/

/-- What no write of a CSR touches: the x and f registers, the vector registers with vl and vtype and the queues of prickings, the
engines, the fabric, the held faults, the bind, memory, and where the strand stands. -/
structure State.CsrFrame (s u : State) : Prop where
  x : u.st.x = s.st.x
  f : u.st.f = s.st.f
  eng : u.st.eng = s.st.eng
  fab : u.st.fab = s.st.fab
  held : u.st.held = s.st.held
  v : u.st.vec.v = s.st.vec.v
  k : u.st.vec.k = s.st.vec.k
  o : u.st.vec.o = s.st.vec.o
  vl : u.st.vec.vl = s.st.vec.vl
  vtype : u.st.vec.vtype = s.st.vec.vtype
  pk : u.st.vec.pk = s.st.vec.pk
  pass : u.st.vec.pass = s.st.vec.pass
  ahead : u.st.vec.ahead = s.st.vec.ahead
  br : u.st.br = s.st.br
  lanes : u.st.lanes = s.st.lanes
  fe : u.st.fe = s.st.fe
  mem : u.mem = s.mem
  pc : u.st.pc = s.st.pc
  loops : u.st.loops = s.st.loops

theorem State.CsrFrame.refl (s : State) : s.CsrFrame s := by constructor <;> rfl

theorem State.setCsr_frame (s : State) (c : Csrs) : s.CsrFrame (s.setCsr c) := by constructor <;> rfl

theorem State.setSStat_frame (s : State) (c : SStat) : s.CsrFrame (s.setSStat c) := by constructor <;> rfl

theorem State.dirtyVs_frame {s u : State} (h : s.CsrFrame u) : s.CsrFrame u.dirtyVs := by
  unfold State.dirtyVs
  split
  · exact { h with }
  · exact h

theorem State.dirtyTs_frame {s u : State} (h : s.CsrFrame u) : s.CsrFrame u.dirtyTs := by
  unfold State.dirtyTs
  split
  · exact { h with }
  · exact h

theorem State.setVstart_frame (s : State) (v : Word) : s.CsrFrame (s.setVstart v) := by
  unfold State.setVstart
  split
  · exact .refl s
  · exact dirtyVs_frame (by constructor <;> rfl)

theorem State.setTcfg_frame (s : State) (n : Nat) (v : Word) : s.CsrFrame (s.setTcfg n v) := by
  unfold State.setTcfg
  split
  · exact .refl s
  · exact dirtyTs_frame (by constructor <;> rfl)

theorem State.csrPut_frame (s : State) (a : BitVec 12) (v : Word) : s.CsrFrame (s.csrPut a v) := by
  unfold State.csrPut
  split
  case h_4 => exact s.setVstart_frame v
  all_goals exact by constructor <;> rfl

/-! ## The shape of a CSR instruction -/

/-- The conditions under which a CSR instruction takes effect at once. -/
structure State.CsrOpen (s : State) (c : CsrF) : Prop where
  ready : s.waitsX (if c.uimm then [c.rd] else [c.src, c.rd]) = false
  allowed : csrSup c.csr = true → s.sup = true
  first : s.csrFirst c.csr = none
  settled : s.csrWaits c.csr = false

section
variable {s u : State} {c : CsrF}

theorem csrGate_open (h : s.CsrOpen c) (i : Instr) (k : Out) : csrGate s i c k = k := by
  have hsup : ¬ ((csrSup c.csr && !s.sup) = true) := by
    rw [Bool.and_eq_true, Bool.not_eq_true']
    exact fun ⟨hc, hs⟩ => by simp [h.allowed hc] at hs
  unfold csrGate
  rw [h.ready, if_neg (by simp), if_neg hsup, h.first, h.settled]
  rfl

/-- What a CSR instruction comes to whose write leads to u: x[rd] receives the old value and it completes. -/
def State.csrEnd (s : State) (c : CsrF) (u : State) : State := (u.setX c.rd (s.csrVal c.csr)).completed

theorem csrStep_open (h : s.CsrOpen c) (i : Instr) (put : Word → State → State) :
    csrStep s i c put = .next (s.csrEnd c (put (csrNew c.op (s.csrVal c.csr) (s.csrSrc c)) s)) :=
  csrGate_open h i _

theorem csrReadStep_open (h : s.CsrOpen c) (i : Instr) : csrReadStep s i c = .next (s.csrEnd c s) := csrGate_open h i _

/-! ## What the end of a CSR instruction holds -/

@[simp] theorem State.csrEnd_csr : (s.csrEnd c u).st.csr = u.st.csr := State.setX_csr u c.rd (s.csrVal c.csr)
@[simp] theorem State.csrEnd_sstat : (s.csrEnd c u).st.sstat = u.st.sstat := State.setX_sstat u c.rd (s.csrVal c.csr)
@[simp] theorem State.csrEnd_mat : (s.csrEnd c u).st.mat = u.st.mat := State.setX_mat u c.rd (s.csrVal c.csr)
@[simp] theorem State.csrEnd_vstart : (s.csrEnd c u).st.vec.vstart = u.st.vec.vstart := by
  rw [← State.setX_vec u c.rd (s.csrVal c.csr)]
  rfl

theorem State.csrEnd_vl : (s.csrEnd c u).st.vec.vl = u.st.vec.vl := by
  rw [← State.setX_vec u c.rd (s.csrVal c.csr)]
  rfl

theorem State.csrEnd_vtype : (s.csrEnd c u).st.vec.vtype = u.st.vec.vtype := by
  rw [← State.setX_vec u c.rd (s.csrVal c.csr)]
  rfl

@[simp] theorem State.csrEnd_fflags : (s.csrEnd c u).st.fflags = u.st.fflags := State.setX_fflags u c.rd (s.csrVal c.csr)
@[simp] theorem State.csrEnd_frm : (s.csrEnd c u).st.frm = u.st.frm := State.setX_frm u c.rd (s.csrVal c.csr)

/-- The end leaves what the write leaves, and x[rd] holds the old value. -/
theorem State.csrEnd_done (h : s.CsrFrame u) : s.csrDone c (s.csrEnd c u) := by
  obtain ⟨hrd, hx, hf, -, hk, hm, hpc⟩ := setX_completed u c.rd (s.csrVal c.csr)
  obtain ⟨-, -, -, -, keng, kfab, kheld, kv, kk, ko, kvl, kvtype, -⟩ := hk
  refine ⟨hrd, fun r hr => (hx r hr).trans (x_congr _ _ h.x r), hf.trans h.f, keng.trans h.eng, kfab.trans h.fab, kheld.trans h.held,
    kv.trans h.v, kk.trans h.k, ko.trans h.o, kvl.trans h.vl, kvtype.trans h.vtype, fun a => (hm a).trans (by rw [h.mem]), ?_⟩
  rw [← h.pc, ← h.loops]
  exact hpc

/-- A read only reads. -/
theorem State.csrEnd_read : s.csrDone c (s.csrEnd c s) ∧ s.csrKept (s.csrEnd c s) ∧ s.keepsAround (s.csrEnd c s) := by
  obtain ⟨-, -, -, hfl, hk, -, -⟩ := setX_completed s c.rd (s.csrVal c.csr)
  exact ⟨csrEnd_done (.refl s), ⟨hfl, csrEnd_frm, csrEnd_vstart⟩, hk⟩

end

/-! ## What a CSR is read from -/

/-- The count of a due pricking is no part of its nodes, its names or what a pass of it leaves. -/
theorem Pricking.tally_keeps (p : Pricking) (stream : Bool) (want : Option Nat) :
    p.tally.nodes = p.nodes ∧ p.tally.passNodes stream want = p.passNodes stream want ∧
      (p.tally.next stream want).nodes = (p.next stream want).nodes := by
  unfold tally
  split
  · cases stream <;> exact ⟨rfl, rfl, rfl⟩
  · exact ⟨rfl, rfl, rfl⟩

theorem Vec.newest_counted (s : State) : s.counted.st.vec.newest.nodes = s.st.vec.newest.nodes := by
  unfold newest
  simp only [State.counted, List.getLast?_map]
  split
  · exact (s.st.vec.pk.tally_keeps true none).1
  next p _ =>
    cases s.st.vec.ahead.getLast? with
    | none => exact (s.st.vec.pk.tally_keeps p.stream p.want).2.2
    | some a =>
      obtain ⟨hn, -, hx⟩ := a.pk.tally_keeps a.stream none
      simp only [Option.map_some]
      split
      · exact hx
      · exact hn

theorem State.countNodes_counted (s : State) : s.counted.countNodes = s.countNodes := by
  have hpass : ∀ a : Ahead, a.pk.tally.passNodes a.stream none = a.pk.passNodes a.stream none :=
    fun a => (a.pk.tally_keeps a.stream none).2.1
  unfold countNodes
  simp only [Vec.newest_counted]
  simp only [counted, List.flatMap_map, hpass]

/-- What the CSRs that do not count are read from. -/
structure State.ReadsSame (s u : State) : Prop where
  csr : u.st.csr = s.st.csr
  fflags : u.st.fflags = s.st.fflags
  frm : u.st.frm = s.st.frm
  sstat : u.st.sstat = s.st.sstat
  vstart : u.st.vec.vstart = s.st.vec.vstart
  vl : u.st.vec.vl = s.st.vec.vl
  vtype : u.st.vec.vtype = s.st.vec.vtype
  mat : u.st.mat = s.st.mat
  eng : u.st.eng = s.st.eng
  br : u.st.br = s.st.br
  lanes : u.st.lanes = s.st.lanes
  fe : u.st.fe = s.st.fe
  nodes : u.countNodes = s.countNodes

/-- Two states that these agree in read every CSR alike that does not count (02 R49). -/
theorem State.csrVal_of_same {s u : State} (h : s.ReadsSame u) {a : BitVec 12} (ha : a ∉ [0xC00, 0xC01, 0xC02, 0xCCB]) :
    u.csrVal a = s.csrVal a := by
  unfold csrVal
  simp only [h.csr, h.fflags, h.frm, h.vstart, h.vl, h.vtype, h.mat, h.eng, harn, sctx, sstatWord, vlq, ctrs, ldCount, stCount, h.br,
      h.lanes,
    h.fe, h.nodes, h.sstat]
  split
  case h_4 | h_5 | h_6 | h_7 => simp_all [← BitVec.toNat_inj]
  all_goals rfl

section
variable {s u : State} {c : CsrF}

/-- The end of a CSR instruction reads as its write. -/
theorem State.csrEnd_reads : u.ReadsSame (s.csrEnd c u) where
  csr := csrEnd_csr
  fflags := csrEnd_fflags
  frm := csrEnd_frm
  sstat := csrEnd_sstat
  vstart := csrEnd_vstart
  vl := csrEnd_vl
  vtype := csrEnd_vtype
  mat := csrEnd_mat
  eng := State.setX_eng u c.rd (s.csrVal c.csr)
  br := State.setX_br u c.rd (s.csrVal c.csr)
  lanes := State.setX_lanes u c.rd (s.csrVal c.csr)
  fe := State.setX_fe u c.rd (s.csrVal c.csr)
  nodes := by
    rw [show (s.csrEnd c u).countNodes = (u.setX c.rd (s.csrVal c.csr)).counted.countNodes from rfl, countNodes_counted]
    rw [countNodes, setX_vec]
    rfl

/-- The streams that count are untouched by a write of a CSR. -/
theorem State.CsrFrame.nodes (h : s.CsrFrame u) : u.countNodes = s.countNodes := by
  unfold countNodes Vec.newest
  simp only [h.pk, h.pass, h.ahead]

end

/-! ## A write of a CSR that has no behaviour of its own -/

/-- The CSRs that keep a word, after a write of number n; reserved fields read as zero (00 R6). -/
def Csrs.put (c : Csrs) (n : Nat) (v : Word) : Csrs :=
  { c with
    vkey := if n = 0x804 then v else c.vkey
    vctr := if n = 0x805 then v else c.vctr
    skey := if n = 0x820 then v else c.skey
    sbase := if n = 0x821 then v else c.sbase
    smin := if n = 0x822 then v &&& 0xFFFFFFFF else c.smin
    stau := if n = 0x823 then v else c.stau
    smode := if n = 0x824 then v &&& 3 else c.smode
    scause := if n = 0x5C0 then v &&& 0x3FF else c.scause
    sepc := if n = 0x5C1 then v else c.sepc
    stval := if n = 0x5C2 then v else c.stval
    selem := if n = 0x5C3 then v else c.selem
    sorig := if n = 0x5C4 then v else c.sorig
    stvec := if n = 0x5C6 then v else c.stvec
    sscratch := if n = 0x5C7 then v else c.sscratch
    sresume := if n = 0x5C9 then v else c.sresume }

/-- The low 32 bits of a word, which smin keeps. -/
theorem low32_eq_and (v : Word) : BitVec.ofNat 64 (v.toNat % 2 ^ 32) = v &&& 0xFFFFFFFF := by
  apply BitVec.eq_of_toNat_eq
  have h := Nat.and_two_pow_sub_one_eq_mod v.toNat 32
  rw [BitVec.toNat_and, BitVec.toNat_ofNat]
  have : v.toNat % 2 ^ 32 < 2 ^ 64 := by omega
  rw [Nat.mod_eq_of_lt this, ← h]
  rfl

/-- A write that is put, field by field. -/
theorem State.csrPut_eq (s : State) (a : BitVec 12) (v : Word) : s.csrPut a v =
    let n := a.toNat
    let t := if n = 0x800 then s.setVstart v else s
    { t with st := { t.st with
        csr := t.st.csr.put n v
        fflags := if n = 0x001 ∨ n = 0x003 then v.truncate 5 else t.st.fflags
        frm := if n = 0x002 then v.truncate 3 else if n = 0x003 then (v >>> 5).truncate 3 else t.st.frm } } := by
  unfold csrPut
  split
  case h_9 hn => simpa [hn, Csrs.put, setCsr] using low32_eq_and v
  case h_20 => simp only [imp_false] at *; simp [*, Csrs.put]
  all_goals simp [*, Csrs.put, setCsr]

section
variable {s : State} {a b : BitVec 12} {v : Word}

@[simp] theorem State.setVstart_csr : (s.setVstart v).st.csr = s.st.csr := by unfold setVstart; split <;> simp [setVec]
@[simp] theorem State.setVstart_fflags : (s.setVstart v).st.fflags = s.st.fflags := by unfold setVstart; split <;> simp [setVec]
@[simp] theorem State.setVstart_frm : (s.setVstart v).st.frm = s.st.frm := by unfold setVstart; split <;> simp [setVec]
@[simp] theorem State.setVstart_mat : (s.setVstart v).st.mat = s.st.mat := by unfold setVstart; split <;> simp [setVec]

/-- vstart holds what is written. -/
@[simp] theorem State.setVstart_vstart : (s.setVstart v).st.vec.vstart = v := by
  unfold setVstart
  split
  case isTrue h => exact h
  case isFalse => simp [setVec]

/-- vs, where it is on, becomes dirty where vstart changes (log 69). -/
theorem State.setVstart_sstat (h : s.st.sstat.vs ≠ 0) :
    (s.setVstart v).st.sstat = { s.st.sstat with vs := if v = s.st.vec.vstart then s.st.sstat.vs else 3 } := by
  unfold setVstart
  split
  case isTrue hv => rw [if_pos hv.symm]
  case isFalse hv =>
    rw [if_neg (Ne.symm hv), dirtyVs_on (s.setVec { s.st.vec with vstart := v }) h]
    rfl

theorem State.csrPut_csr : (s.csrPut a v).st.csr = s.st.csr.put a.toNat v := by
  rw [csrPut_eq]
  by_cases ha : a.toNat = 0x800 <;> simp [ha]

theorem State.csrPut_fflags : (s.csrPut a v).st.fflags = if a = 0x001 ∨ a = 0x003 then v.truncate 5 else s.st.fflags := by
  rw [csrPut_eq]
  by_cases ha : a.toNat = 0x800 <;> simp [ha, ← BitVec.toNat_inj]

theorem State.csrPut_frm : (s.csrPut a v).st.frm =
    if a = 0x002 then v.truncate 3 else if a = 0x003 then (v >>> 5).truncate 3 else s.st.frm := by
  rw [csrPut_eq]
  by_cases ha : a.toNat = 0x800 <;> simp [ha, ← BitVec.toNat_inj]

theorem State.csrPut_mat : (s.csrPut a v).st.mat = s.st.mat := by
  rw [csrPut_eq]
  by_cases ha : a.toNat = 0x800 <;> simp [ha]

theorem State.csrPut_vstart : (s.csrPut a v).st.vec.vstart = if a = 0x800 then v else s.st.vec.vstart := by
  rw [csrPut_eq]
  by_cases ha : a.toNat = 0x800 <;> simp [ha, ← BitVec.toNat_inj]

theorem State.csrPut_sstat : (s.csrPut a v).st.sstat = if a = 0x800 then (s.setVstart v).st.sstat else s.st.sstat := by
  rw [csrPut_eq]
  by_cases ha : a.toNat = 0x800 <;> simp [ha, ← BitVec.toNat_inj]

/-- A word that a write replaces whole reads as what was written. -/
theorem State.csrPut_csrVal_same
    (h : a ∈ [0x800, 0x804, 0x805, 0x820, 0x821, 0x823, 0x5C1, 0x5C2, 0x5C3, 0x5C4, 0x5C6, 0x5C7, 0x5C9]) :
    (s.csrPut a v).csrVal a = v := by
  rw [List.mem_cons] at h
  rcases h with rfl | h
  · exact setVstart_vstart
  · simp only [List.mem_cons, List.not_mem_nil, or_false] at h
    rcases h with rfl | rfl | rfl | rfl | rfl | rfl | rfl | rfl | rfl | rfl | rfl | rfl <;> rfl

/-- smin keeps the low 32 bits (00 R6). -/
theorem State.csrPut_csrVal_smin : (s.csrPut 0x822 v).csrVal 0x822 = v &&& 0xFFFFFFFF := low32_eq_and v

/-- smode keeps the low 2. -/
theorem State.csrPut_csrVal_smode : (s.csrPut 0x824 v).csrVal 0x824 = v &&& 3 := rfl

/-- scause keeps the low 10. -/
theorem State.csrPut_csrVal_scause : (s.csrPut 0x5C0 v).csrVal 0x5C0 = v &&& 0x3FF := rfl

/-- A write leaves every other CSR that does not count, but those that show the same bits. -/
theorem State.csrPut_csrVal_ne (hab : b ≠ a) (hb : b ∉ [0x001, 0x002, 0x003, 0x5C5, 0xC00, 0xC01, 0xC02, 0xCCB]) :
    (s.csrPut a v).csrVal b = s.csrVal b := by
  have hn : a.toNat ≠ b.toNat := fun h => hab (BitVec.eq_of_toNat_eq h.symm)
  have hf := s.csrPut_frame a v
  unfold csrVal
  simp only [csrPut_csr, csrPut_vstart, csrPut_mat, hf.vl, hf.vtype, hf.eng, harn, sctx, vlq, ctrs, ldCount, stCount, hf.br, hf.lanes,
      hf.fe,
    hf.nodes]
  split <;> simp_all [Csrs.put, ← BitVec.toNat_inj]

end

/-! ## What each CSR instruction comes to -/

section
variable {s : State} {c : CsrF}

/-- The slip that is stored lies from 1 to 16 (02 R46). -/
theorem slipOf_eq (v : Word) : slipOf v = BitVec.ofNat 64 (max 1 (min 16 (v.toNat % 32))) := by
  simp [slipOf, fieldOf]

/-- ts, where it is on, becomes dirty. -/
theorem State.dirtyTs_sstat (h : s.st.sstat.ts ≠ 0) : s.dirtyTs.st.sstat = { s.st.sstat with ts := 3 } := by
  unfold dirtyTs
  split
  · rfl
  · next h2 => rw [← vs_dirty _ h h2]

/-- A tcfg takes the value written, and ts, where it is on, becomes dirty where that changes it (02 R47; log 69). -/
theorem State.setTcfg_eq (n : Nat) (hn : n < 8) (v : Word) (h : s.st.sstat.ts ≠ 0) :
    (s.setTcfg n v).st.mat = { s.st.mat with tcfg := s.st.mat.tcfg.set n v } ∧
    (s.setTcfg n v).st.sstat = { s.st.sstat with ts := if s.st.mat.tcfg[n] = v then s.st.sstat.ts else 3 } ∧
    (s.setTcfg n v).st.csr = s.st.csr ∧ s.csrKept (s.setTcfg n v) := by
  have hget : s.st.mat.tcfg.toList.getD n 0 = s.st.mat.tcfg[n] := by simp [List.getD, hn]
  unfold setTcfg
  rw [hget]
  split
  case isTrue hv =>
    refine ⟨?_, rfl, rfl, rfl, rfl, rfl⟩
    rw [← hv, Vector.set_getElem_self]
  case isFalse hv =>
    refine ⟨?_, dirtyTs_sstat h, ?_, ?_, ?_, ?_⟩
    · simp [setMat, Vector.setIfInBounds, Vector.set, Array.setIfInBounds, hn]
    all_goals simp [setMat]

/-- A CSR from 0x810 to 0x817 may be written only while ts is on (02 R54). -/
theorem State.ts_on_of_tcfg {a : BitVec 12} (h : s.csrFirst a = none) (ha : 0x810 ≤ a.toNat ∧ a.toNat ≤ 0x817) : s.st.sstat.ts ≠ 0 := by
  intro hts
  unfold csrFirst at h
  rw [if_neg (by omega), if_pos ha, if_pos hts] at h
  cases h

/-- vstart may be written only while vs is on (02 R54). -/
theorem State.vs_on_of_vstart (h : s.csrFirst 0x800 = none) : s.st.sstat.vs ≠ 0 := by
  intro hvs
  simp [csrFirst, hvs] at h

theorem State.csrEnd_csrVal {u : State} {a : BitVec 12} (ha : a ∉ [0xC00, 0xC01, 0xC02, 0xCCB]) : (s.csrEnd c u).csrVal a = u.csrVal a :=
  csrVal_of_same csrEnd_reads ha

/-- The instructions whose writes have a behaviour of their own leave the floating-point CSRs and vstart (02 R46). -/
theorem State.csrEnd_kept {u : State} (h : s.csrKept u) : s.csrKept (s.csrEnd c u) := by
  obtain ⟨hfl, hfrm, hst⟩ := h
  exact ⟨csrEnd_fflags.trans hfl, csrEnd_frm.trans hfrm, csrEnd_vstart.trans hst⟩

/-! ## The instructions -/

theorem exec_csrWrite : exec (.csrWrite c) s = csrStep s (.csrWrite c) c (fun v s => s.csrPut c.csr v) := rfl

theorem exec_vfflagsWrite : exec (.vfflagsWrite c) s = csrGate s (.vfflagsWrite c) c (afterPass s (.vfflagsWrite c)
    (csrStep s (.vfflagsWrite c) c (fun v s => s.setCsr { s.st.csr with vfflags := v.truncate 5 }))) := rfl

theorem exec_vslipWrite : exec (.vslipWrite c) s =
    csrStep s (.vslipWrite c) c (fun v s => s.setCsr { s.st.csr with vslip := slipOf v }) := rfl

theorem exec_vmtWrite : exec (.vmtWrite c) s = csrStep s (.vmtWrite c) c (fun v s => s.setCsr { s.st.csr with vmt := v }) := rfl

theorem exec_tcfgWrite : exec (.tcfgWrite c) s = csrStep s (.tcfgWrite c) c (fun v s => s.setTcfg (c.csr.toNat - 0x810) v) := rfl

theorem exec_sstatWrite : exec (.sstatWrite c) s = csrStep s (.sstatWrite c) c (fun v s =>
    s.setSStat { s.st.sstat with pmode := v.getLsbD 6, ts := v.extractLsb' 2 2, vs := v.extractLsb' 0 2 }) := rfl

theorem exec_samplingStatsRead : exec (.samplingStatsRead c) s = csrGate s (.samplingStatsRead c) c
    (if s.st.mat.queue.any MatOp.isMsamp then waitMat (.samplingStatsRead c) s else csrReadStep s (.samplingStatsRead c) c) := rfl

theorem exec_csrRead : exec (.scalarInstruction (.csrRead c)) s = csrReadStep s (.scalarInstruction (.csrRead c)) c := rfl

/-- A write of a custom CSR that is put with nothing else changes that CSR alone. -/
theorem csrStep_setCsr (h : s.CsrOpen c) (i : Instr) (put : Word → Csrs → Csrs) : ∃ t,
    csrStep s i c (fun v s => s.setCsr (put v s.st.csr)) = .next t ∧ s.csrDone c t ∧ s.csrKept t ∧ t.st.mat = s.st.mat ∧
      t.st.sstat = s.st.sstat ∧ t.st.csr = put (csrNew c.op (s.csrVal c.csr) (s.csrSrc c)) s.st.csr :=
  ⟨_, csrStep_open h i _, State.csrEnd_done (s.setCsr_frame _), State.csrEnd_kept ⟨rfl, rfl, rfl⟩, State.csrEnd_mat, State.csrEnd_sstat,
    State.csrEnd_csr⟩

end

/-- Settles O31: each instruction is the end of a CSR instruction after its put, and the lemmas above say what that put changes. -/
theorem csrWritesComplete : Obligations.CsrWritesComplete := by
  intro s c hready hallowed hfirst hsettled old src v
  have h : s.CsrOpen c := ⟨hready, hallowed, hfirst, hsettled⟩
  have hv : csrNew c.op (s.csrVal c.csr) (s.csrSrc c) = v := rfl
  have hcsr := fun i => csrStep_setCsr h i
  have hstep := fun i => csrStep_open h i
  have hread : ∀ i, ∃ t, csrReadStep s i c = .next t ∧ s.csrDone c t ∧ s.csrKept t ∧ s.keepsAround t :=
    fun i => ⟨_, csrReadStep_open h i, State.csrEnd_read⟩
  rw [hv] at hcsr hstep
  clear_value v
  rw [exec_csrWrite, exec_vfflagsWrite, exec_vslipWrite, exec_vmtWrite, exec_tcfgWrite, exec_sstatWrite, exec_samplingStatsRead,
    exec_csrRead, csrGate_open h, csrGate_open h]
  refine ⟨?_, fun hp => ?_, ?_, ?_, fun ht => ?_, ?_, fun hq => ?_, hread _⟩
  · have hval : ∀ l : List (BitVec 12), (∀ a ∈ l, a ∉ [0xC00, 0xC01, 0xC02, 0xCCB]) → c.csr ∈ l →
        (s.csrEnd c (s.csrPut c.csr v)).csrVal c.csr = (s.csrPut c.csr v).csrVal c.csr := fun l hl hc => State.csrEnd_csrVal (hl _ hc)
    refine ⟨s.csrEnd c (s.csrPut c.csr v), hstep _ _, State.csrEnd_done (s.csrPut_frame c.csr v), ?_⟩
    rw [State.csrEnd_fflags, State.csrEnd_frm, State.csrEnd_sstat, State.csrEnd_mat, State.csrEnd_vstart, State.csrPut_fflags,
      State.csrPut_frm, State.csrPut_mat, State.csrPut_vstart, State.csrPut_sstat]
    refine ⟨fun ha => ?_, fun ha => ?_, fun ha => ?_, fun ha => ?_, fun ha => ?_, fun ha => ?_, fun ha => ?_, fun a ha => ?_,
      fun h1 h3 => ?_, fun h2 h3 => ?_, fun ha => ?_, fun ha => ?_, rfl⟩
    · rw [if_pos (.inl ha)]
    · rw [if_pos ha]
    · rw [if_pos (.inr ha), if_neg (by simp [ha]), if_pos ha]
      exact ⟨rfl, rfl⟩
    · rw [hval _ (by simp) ha, State.csrPut_csrVal_same ha]
    · rw [hval [0x822] (by simp) (by simp [ha]), ha, State.csrPut_csrVal_smin]
    · rw [hval [0x824] (by simp) (by simp [ha]), ha, State.csrPut_csrVal_smode]
    · rw [hval [0x5C0] (by simp) (by simp [ha]), ha, State.csrPut_csrVal_scause]
    · rw [List.mem_cons, not_or] at ha
      obtain ⟨hne, hrest⟩ := ha
      rw [State.csrEnd_csrVal (fun hm => hrest (List.mem_append_right [0x001, 0x002, 0x003, 0x5C5] hm)), State.csrPut_csrVal_ne hne hrest]
    · rw [if_neg (not_or.2 ⟨h1, h3⟩)]
    · rw [if_neg h2, if_neg h3]
    · rw [if_neg ha, if_neg ha]
      exact ⟨rfl, rfl⟩
    · rw [if_pos ha, State.setVstart_sstat (State.vs_on_of_vstart (ha ▸ hfirst))]
  · rw [afterPass, hp]
    exact hcsr _ (fun v r => { r with vfflags := v.truncate 5 })
  · rw [← slipOf_eq]
    exact hcsr _ (fun v r => { r with vslip := slipOf v })
  · exact hcsr _ (fun v r => { r with vmt := v })
  · obtain ⟨hmat, hss, hc, hkept⟩ := State.setTcfg_eq (c.csr.toNat - 0x810) (by omega) v (State.ts_on_of_tcfg hfirst ht)
    exact ⟨_, hstep _ _, State.csrEnd_done (s.setTcfg_frame _ v), State.csrEnd_kept hkept, State.csrEnd_csr.trans hc,
      State.csrEnd_mat.trans hmat, State.csrEnd_sstat.trans hss⟩
  · exact ⟨_, hstep _ _, State.csrEnd_done (s.setSStat_frame _), State.csrEnd_kept ⟨rfl, rfl, rfl⟩, State.csrEnd_csr,
      State.csrEnd_mat, State.csrEnd_sstat⟩
  · rw [if_neg (by simp [hq])]
    exact hread _

end Sys2Proof.Machine
end
section
/-! PROOFS. The integer element operations (03 R56, R57; 06 R134). -/

namespace Sys2Proof.Machine

/-! ## Patterns and the integers they stand for -/

theorem two_pow_pos_int (n : Nat) : (0 : Int) < 2 ^ n := Int.pow_pos (by decide)

theorem natCast_two_pow (n : Nat) : ((2 ^ n : Nat) : Int) = 2 ^ n := Int.natCast_pow 2 n

theorem wrap_cast (w : Nat) (i : Int) : (wrap w i : Int) = i % 2 ^ w :=
  Int.toNat_of_nonneg (Int.emod_nonneg _ (Int.ne_of_gt (two_pow_pos_int w)))

/-- The same modulo the number of patterns, as the library writes a balanced remainder. -/
theorem wrap_cast_natCast (w : Nat) (i : Int) : (wrap w i : Int) = i % (2 ^ w : Nat) := mod_cast wrap_cast w i

theorem wrap_cast_of_unsigned {w : Nat} {i : Int} (h0 : 0 ≤ i) (h : i < 2 ^ w) : (wrap w i : Int) = i := by
  rw [wrap_cast, Int.emod_eq_of_lt h0 h]

section
variable {w a b : Nat} {i : Int} (hw : 0 < w)
include hw

/-- The bound of the signed range is half of the number of patterns. -/
theorem two_pow_pred_mul_two_int : (2 : Int) ^ (w - 1) * 2 = 2 ^ w := mod_cast Nat.two_pow_pred_mul_two hw

/-- The signed value of a pattern is its balanced remainder modulo 2^w. -/
theorem sgn_eq_bmod (n : Nat) : sgn w n = (n : Int).bmod (2 ^ w) := by
  have hhalf : ((2 : Int) ^ w + 1) / 2 = 2 ^ (w - 1) := by
    have := two_pow_pred_mul_two_int hw
    omega
  have hlt : (n : Int) % 2 ^ w < 2 ^ (w - 1) ↔ n % 2 ^ w < 2 ^ (w - 1) := by norm_cast
  simp only [sgn, Int.bmod_def, Int.natCast_emod, natCast_two_pow, hhalf, hlt]

theorem neg_two_pow_le_sgn (n : Nat) : -2 ^ (w - 1) ≤ sgn w n := by
  have hle := Int.le_bmod (x := n) (m := 2 ^ w) (Nat.two_pow_pos w)
  have := two_pow_pred_mul_two_int hw
  rw [sgn_eq_bmod hw]
  rw [natCast_two_pow] at hle
  omega

theorem sgn_lt_two_pow (n : Nat) : sgn w n < 2 ^ (w - 1) := by
  have hlt := Int.bmod_lt (x := n) (m := 2 ^ w) (Nat.two_pow_pos w)
  have := two_pow_pred_mul_two_int hw
  rw [sgn_eq_bmod hw]
  rw [natCast_two_pow] at hlt
  omega

/-- An integer of the signed range is the value of its low w bits. -/
theorem sgn_wrap (hlo : -2 ^ (w - 1) ≤ i) (hhi : i < 2 ^ (w - 1)) : sgn w (wrap w i) = i := by
  have := two_pow_pred_mul_two_int hw
  rw [sgn_eq_bmod hw, wrap_cast_natCast, Int.emod_bmod]
  apply Int.bmod_eq_of_le <;> rw [natCast_two_pow] <;> omega

theorem wrap_sgn (ha : a < 2 ^ w) : wrap w (sgn w a) = a := by
  apply Int.ofNat_inj.1
  rw [wrap_cast_natCast, sgn_eq_bmod hw, Int.bmod_emod]
  exact Int.emod_eq_of_lt (Int.natCast_nonneg a) (mod_cast ha)

theorem sgn_inj (ha : a < 2 ^ w) (hb : b < 2 ^ w) : sgn w a = sgn w b ↔ a = b :=
  ⟨fun h => by rw [← wrap_sgn hw ha, h, wrap_sgn hw hb], fun h => h ▸ rfl⟩

/-- The pattern of the sign bit alone stands for the least integer. -/
theorem sgn_two_pow_pred : sgn w (2 ^ (w - 1)) = -2 ^ (w - 1) := by
  have := two_pow_pred_mul_two_int hw
  have hlt : 2 ^ (w - 1) < 2 ^ w := Nat.two_pow_pred_lt_two_pow hw
  unfold sgn
  rw [Nat.mod_eq_of_lt hlt, if_neg (Nat.lt_irrefl _), natCast_two_pow]
  omega

/-- The pattern of ones stands for −1. -/
theorem sgn_two_pow_sub_one : sgn w (2 ^ w - 1) = -1 := by
  have := Nat.two_pow_pred_mul_two hw
  have hpos := Nat.two_pow_pos (w - 1)
  unfold sgn
  rw [Nat.mod_eq_of_lt (by omega), if_neg (by omega), Int.natCast_sub (by omega), natCast_two_pow]
  omega

end

theorem sgn_zero (w : Nat) : sgn w 0 = 0 := by
  rw [sgn, Nat.zero_mod, if_pos (Nat.two_pow_pos _)]
  rfl

/-! ## Sums, products and shifts -/

theorem intElem_add_cast (w a b : Nat) : (intElem .add w a b : Int) = ((a : Int) + b) % 2 ^ w := by
  simp only [intElem, Int.natCast_emod, Int.natCast_add, natCast_two_pow]

theorem intElem_mul_cast (w a b : Nat) : (intElem .mul w a b : Int) = ((a : Int) * b) % 2 ^ w := by
  simp only [intElem, Int.natCast_emod, Int.natCast_mul, natCast_two_pow]

theorem intElem_mulhu_cast (w a b : Nat) : (intElem .mulhu w a b : Int) = (a : Int) * b / 2 ^ w := by
  simp only [intElem, Int.natCast_ediv, Int.natCast_mul, natCast_two_pow]

/-- The arithmetic shift, which floors: a floor division by a power of two stays in the signed range. -/
theorem sgn_intElem_sra {w : Nat} (hw : 0 < w) (a b : Nat) : sgn w (intElem .sra w a b) = sgn w a / 2 ^ (b % w) := by
  have hlo := neg_two_pow_le_sgn hw a
  have hhi := sgn_lt_two_pow hw a
  have hM := two_pow_pos_int (w - 1)
  have hc : (1 : Int) ≤ 2 ^ (b % w) := two_pow_pos_int _
  refine sgn_wrap hw ?_ ?_
  · rw [Int.le_ediv_iff_mul_le (two_pow_pos_int _)]
    have := Int.mul_le_mul_of_nonpos_left (a := -2 ^ (w - 1)) (by omega) hc
    omega
  · rw [Int.ediv_lt_iff_lt_mul (two_pow_pos_int _)]
    have := Int.mul_le_mul_of_nonneg_left hc (Int.le_of_lt hM)
    omega

/-! ## Division (03 Table 3.1) -/

section
variable {w a b : Nat}

theorem divS_of_ne_zero (hb : b < 2 ^ w) (h0 : b ≠ 0) : divS w a b = wrap w ((sgn w a).tdiv (sgn w b)) :=
  if_neg (by rwa [Nat.mod_eq_of_lt hb])

theorem remS_of_ne_zero (hb : b < 2 ^ w) (h0 : b ≠ 0) : remS w a b = wrap w ((sgn w a).tmod (sgn w b)) :=
  if_neg (by rwa [Nat.mod_eq_of_lt hb])

theorem divU_of_ne_zero (ha : a < 2 ^ w) (hb : b < 2 ^ w) (h0 : b ≠ 0) : divU w a b = a / b := by
  rw [divU, Nat.mod_eq_of_lt ha, Nat.mod_eq_of_lt hb, if_neg h0]

theorem remU_of_ne_zero (ha : a < 2 ^ w) (hb : b < 2 ^ w) (h0 : b ≠ 0) : remU w a b = a % b := by
  rw [remU, Nat.mod_eq_of_lt ha, Nat.mod_eq_of_lt hb, if_neg h0]

theorem divS_zero (w a : Nat) : divS w a 0 = 2 ^ w - 1 := if_pos (Nat.zero_mod _)

theorem divU_zero (w a : Nat) : divU w a 0 = 2 ^ w - 1 := if_pos (Nat.zero_mod _)

theorem remS_zero (ha : a < 2 ^ w) : remS w a 0 = a := (if_pos (Nat.zero_mod _)).trans (Nat.mod_eq_of_lt ha)

theorem remU_zero (ha : a < 2 ^ w) : remU w a 0 = a := (if_pos (Nat.zero_mod _)).trans (Nat.mod_eq_of_lt ha)

/-- Division by any number but 1 at least halves (and by 0 gives 0). -/
theorem two_mul_div_le (n : Nat) {k : Nat} (hk : k ≠ 1) : 2 * (n / k) ≤ n := by
  obtain rfl | hk : k = 0 ∨ 2 ≤ k := by omega
  · simp
  · exact Nat.le_trans (Nat.mul_le_mul_right _ hk) (Nat.mul_div_le n k)

/-- A truncated quotient of two integers of the signed range with bound M leaves the range only where the least is divided by −1. -/
theorem tdiv_mem_signed {M x y : Int} (hlo : -M ≤ x) (hhi : x < M) (hxy : ¬ (x = -M ∧ y = -1)) : -M ≤ x.tdiv y ∧ x.tdiv y < M := by
  obtain rfl | rfl | hy : y = -1 ∨ y = 1 ∨ y.natAbs ≠ 1 := by omega
  · rw [Int.tdiv_neg, Int.tdiv_one]
    omega
  · rw [Int.tdiv_one]
    exact ⟨hlo, hhi⟩
  · have hle : 2 * (x.tdiv y).natAbs ≤ x.natAbs := by
      rw [Int.natAbs_tdiv]
      exact two_mul_div_le _ hy
    omega

/-- A remainder lies below its divisor in size, so it stays in the signed range with bound M. -/
theorem tmod_mem_signed {M x y : Int} (hlo : -M ≤ y) (hhi : y < M) (hy : y ≠ 0) : -M ≤ x.tmod y ∧ x.tmod y < M := by
  have hlt : (x.tmod y).natAbs < y.natAbs := by
    rw [Int.natAbs_tmod]
    exact Nat.mod_lt _ (Int.natAbs_pos.2 hy)
  omega

section
variable (hw : 0 < w)
include hw

/-- The least integer divided by −1 is beyond the signed range by one and wraps to the dividend. -/
theorem divS_overflow : divS w (2 ^ (w - 1)) (2 ^ w - 1) = 2 ^ (w - 1) := by
  have := Nat.two_pow_pred_mul_two hw
  have hM := Nat.two_pow_pos (w - 1)
  rw [divS_of_ne_zero (by omega) (by omega), sgn_two_pow_pred hw, sgn_two_pow_sub_one hw, Int.tdiv_neg, Int.tdiv_one, Int.neg_neg]
  have hhalf := two_pow_pred_mul_two_int hw
  have hpos := two_pow_pos_int (w - 1)
  apply Int.ofNat_inj.1
  rw [wrap_cast_of_unsigned (by omega) (by omega), natCast_two_pow]

theorem remS_overflow : remS w (2 ^ (w - 1)) (2 ^ w - 1) = 0 := by
  have := Nat.two_pow_pred_mul_two hw
  have hM := Nat.two_pow_pos (w - 1)
  rw [remS_of_ne_zero (by omega) (by omega), sgn_two_pow_sub_one hw, Int.tmod_neg, Int.tmod_one]
  rfl

theorem sgn_divS (ha : a < 2 ^ w) (hb : b < 2 ^ w) (h0 : b ≠ 0) (hov : ¬ (a = 2 ^ (w - 1) ∧ b = 2 ^ w - 1)) :
    sgn w (divS w a b) = (sgn w a).tdiv (sgn w b) := by
  have hM : 2 ^ (w - 1) < 2 ^ w := Nat.two_pow_pred_lt_two_pow hw
  have hsgn : ¬ (sgn w a = -2 ^ (w - 1) ∧ sgn w b = -1) := by
    rwa [← sgn_two_pow_pred hw, ← sgn_two_pow_sub_one hw, sgn_inj hw ha hM, sgn_inj hw hb (by omega)]
  obtain ⟨hlo, hhi⟩ := tdiv_mem_signed (neg_two_pow_le_sgn hw a) (sgn_lt_two_pow hw a) hsgn
  rw [divS_of_ne_zero hb h0, sgn_wrap hw hlo hhi]

theorem sgn_remS (hb : b < 2 ^ w) (h0 : b ≠ 0) : sgn w (remS w a b) = (sgn w a).tmod (sgn w b) := by
  have hne : sgn w b ≠ 0 := by
    rwa [← sgn_zero w, Ne, sgn_inj hw hb (Nat.two_pow_pos w)]
  obtain ⟨hlo, hhi⟩ := tmod_mem_signed (x := sgn w a) (neg_two_pow_le_sgn hw b) (sgn_lt_two_pow hw b) hne
  rw [remS_of_ne_zero hb h0, sgn_wrap hw hlo hhi]

end

end

/-! ## Minima, maxima and the saturating forms -/

theorem sgn_intElem_min (w a b : Nat) : sgn w (intElem .min w a b) = min (sgn w a) (sgn w b) := by
  change sgn w (if sgn w b < sgn w a then b else a) = _
  split <;> omega

theorem sgn_intElem_max (w a b : Nat) : sgn w (intElem .max w a b) = max (sgn w a) (sgn w b) := by
  change sgn w (if sgn w a < sgn w b then b else a) = _
  split <;> omega

theorem intElem_minu (w a b : Nat) : intElem .minu w a b = min a b := by
  change (if b < a then b else a) = _
  split <;> omega

theorem intElem_maxu (w a b : Nat) : intElem .maxu w a b = max a b := by
  change (if a < b then b else a) = _
  split <;> omega

theorem clampInt_eq {lo hi : Int} (h : lo ≤ hi) (i : Int) : clampInt lo hi i = max lo (min hi i) := by
  unfold clampInt
  split
  · omega
  · split <;> omega

theorem sgn_clampS {w : Nat} (hw : 0 < w) (i : Int) : sgn w (clampS w i) = max (-(2 ^ (w - 1))) (min (2 ^ (w - 1) - 1) i) := by
  have hM := two_pow_pos_int (w - 1)
  rw [clampS, clampInt_eq (by omega), sgn_wrap hw] <;> omega

theorem clampU_cast (w : Nat) (i : Int) : (clampU w i : Int) = max 0 (min (2 ^ w - 1) i) := by
  have hM := two_pow_pos_int w
  rw [clampU, clampInt_eq (by omega), wrap_cast_of_unsigned] <;> omega

section
variable {w a b : Nat} (ha : a < 2 ^ w)
include ha

theorem intElem_subsu_cast : (intElem .subsu w a b : Int) = max 0 ((a : Int) - b) := by
  have hlt : (a : Int) < 2 ^ w := mod_cast ha
  refine (clampU_cast w _).trans ?_
  omega

theorem intElem_addsu_cast : (intElem .addsu w a b : Int) = min (2 ^ w - 1) ((a : Int) + b) := by
  have hlt : (a : Int) < 2 ^ w := mod_cast ha
  refine (clampU_cast w _).trans ?_
  omega

end

/-- Settles O7: one lemma per operation; the widths are needed only in being above 0. -/
theorem integerElements : Obligations.IntegerElements := by
  intro w a b hmem ha hb
  have hw : 0 < w := by
    simp only [List.mem_cons, List.not_mem_nil, or_false] at hmem
    omega
  refine ⟨intElem_add_cast w a b, wrap_cast w _, wrap_cast w _, intElem_mul_cast w a b, wrap_cast w _, intElem_mulhu_cast w a b,
    divS_zero w a, divU_zero w a, remS_zero ha, remU_zero ha, divS_overflow hw, remS_overflow hw,
    fun h0 => ⟨divU_of_ne_zero ha hb h0, remU_of_ne_zero ha hb h0⟩,
    fun h0 hov => ⟨sgn_divS hw ha hb h0 hov, sgn_remS hw hb h0⟩,
    sgn_intElem_min w a b, sgn_intElem_max w a b, intElem_minu w a b, intElem_maxu w a b,
    Nat.testBit_and a b, Nat.testBit_or a b, Nat.testBit_xor a b, rfl,
    sgn_clampS hw _, sgn_clampS hw _, intElem_subsu_cast ha, intElem_addsu_cast ha, rfl, rfl, sgn_intElem_sra hw a b⟩

end Sys2Proof.Machine
end
